-- ==== Sys2Proof/Word.lean ====
section
/-!
DEFINITION. The word types of the Lanrok model and their plainest arithmetic (00_scope R2, R6).
-/

namespace Sys2Proof

/-- A 64-bit scalar register, program counter, queue entry or descriptor word. -/
abbrev Word := BitVec 64

/-- One byte of memory. -/
abbrev Byte := BitVec 8

/-- `zext(x, 64)` (R6). -/
abbrev zext64 {n : Nat} (x : BitVec n) : Word := x.setWidth 64

/-- `sext(x, 64)` (R6). -/
abbrev sext64 {n : Nat} (x : BitVec n) : Word := x.signExtend 64

/-- 1 or 0. -/
abbrev bitOf (b : Bool) : Nat := if b then 1 else 0

end Sys2Proof
end

