-- ==== Sys2Proof/Syntax.lean ====
section
/-!
DEFINITION. The instructions of the five streams and the steps of the part, one constructor per row
of the opcode table (02_encoding R32 to R37; the rule of each row stands in its docstring).
-/

namespace Sys2Proof

/-- The four synchronisation bits of a first word (R21). -/
structure Sync where
  wp : Bool
  wn : Bool
  sp : Bool
  sn : Bool
deriving DecidableEq, Repr

/-- No token is popped or pushed. -/
def Sync.none : Sync := ⟨false, false, false, false⟩

/-- `x0`-`x63` (R102). -/
abbrev XReg := Fin 64
/-- `p0`-`p15` (R104). -/
abbrev PReg := Fin 16
/-- `v0`-`v31` (R129). -/
abbrev VReg := Fin 32
/-- `vs0`-`vs7` (R135). -/
abbrev VsReg := Fin 8
/-- `h0`-`h63` (R229). -/
abbrev HReg := Fin 64
/-- `o0`-`o15` (R239). -/
abbrev OReg := Fin 16
/-- `sh0`-`sh7` (R239). -/
abbrev ShReg := Fin 8
/-- `b0`-`b63` (R253). -/
abbrev BReg := Fin 64
/-- `sl0`-`sl7` (R258). -/
abbrev SlReg := Fin 8
/-- `am0`-`am31` (R162). -/
abbrev Band := Fin 32
/-- A die of the package (R7). -/
abbrev Die := Fin 6
/-- A cluster of the package, `CLUSTERID` (R8). -/
abbrev Cluster := Fin 96
/-- A partition (R359). -/
abbrev Part := Fin 16
/-- A PCIe function: 0 is PF0, p + 1 is partition p (R355). -/
abbrev Fn := Fin 17

/-- The five instruction streams of a context (R1). -/
inductive Stream where
  | c | ld | mx | vx | st
deriving DecidableEq, Repr

/-- The two streams that run the copy instruction set (R1). -/
inductive CopyStream where
  | ld | st
deriving DecidableEq, Repr

/-- The copy stream as a stream. -/
def CopyStream.stream : CopyStream → Stream
  | .ld => .ld
  | .st => .st

/-- A hardware context: COREID and CTXID (R8). -/
structure CtxKey where
  core : Fin 768
  slot : Fin 4
deriving DecidableEq, Repr

/-- Comparison codes (R108). -/
inductive Cc where
  | eq | ne | lt | ge | ltu | geu
deriving DecidableEq, Repr

/-- Ordering scopes (R262). -/
inductive Scope where
  | core | cluster | die | device | system
deriving DecidableEq, Repr

/-- Rounding modes (R51). -/
inductive Rm where
  | rne | rtz | rup | rdn | rna
deriving DecidableEq, Repr

/-- Retention hints (R221). -/
inductive Hint where
  | default | streaming | sticky | bypass
deriving DecidableEq, Repr

/-- Sizes of scalar accesses: 1, 2, 4 or 8 bytes (R235). -/
inductive Size where
  | b | h | w | d
deriving DecidableEq, Repr

/-- Engines named by `EGO`, `EWAIT` and `ESTAT` (R33). -/
inductive Engine where
  | ld | mx | vx | st
deriving DecidableEq, Repr

/-- The engine's stream. -/
def Engine.stream : Engine → Stream
  | .ld => .ld
  | .mx => .mx
  | .vx => .vx
  | .st => .st

/-- The three parameter queues (R122). -/
inductive PQ where
  | ld | vx | st
deriving DecidableEq, Repr

/-- Rights of a mapping (R230). -/
inductive Rights where
  | r | w | rw
deriving DecidableEq, Repr

/-- Operations of `AMO` (R280). -/
inductive AmoOp where
  | add | and | or | xor | min | max | minu | maxu | swap | fadd32 | faddbf16x2
deriving DecidableEq, Repr

/-- Operations of `RED` (R282). -/
inductive RedOp where
  | add | fadd32 | faddbf16x2 | min | max | and | or | xor
deriving DecidableEq, Repr

/-- Combine codes of copies and exchanges: 0 none, 1 to 5 (R247). -/
inductive RedCopy where
  | none | addInt | addFp32 | addBf16 | min | max
deriving DecidableEq, Repr

/-- Agreement of a collective branch (R295). -/
inductive CbrOp where
  | any | all | maj
deriving DecidableEq, Repr

/-- Element type codes 0 to 15 (R50). -/
inductive ElemTy where
  | int8 | uint8 | int16 | int32 | uint32 | uint16 | fp4 | e4m3 | e5m2 | fp16 | bf16 | fp32
  | e3m5 | qs4 | int64 | invalid
deriving DecidableEq, Repr

/-- The extension word of a VX instruction (R34); `rm` is the raw field. -/
structure VExt where
  pm : PReg
  pe : Bool
  pz : Bool
  vc : VReg
  rm : Fin 8
  nf : Bool
  sat : Bool
  bs : Bool
  imm : BitVec 11
deriving DecidableEq, Repr

/-- Why bytes of a moving copy fail (R242). -/
inductive CopyFaultCause where
  | poison | watchdog | sigcopy
deriving DecidableEq, Repr

/-- A submission ring of a function (R77). -/
structure RingId where
  fn : Fn
  q : Fin 16
deriving DecidableEq, Repr

/-- A 128-byte submission packet, byte 0 lowest (R2, R80). -/
abbrev Packet := BitVec 1024

/-- The three windows of a PCIe function (R356). -/
inductive Bar where
  | bar0 | bar2 | bar4
deriving DecidableEq, Repr

/-- One direction of an Urhan link: link L01, L12, L34, L45, L03, L14, L25 in that order (R7, R348). -/
structure LinkDir where
  link : Fin 7
  up : Bool
deriving DecidableEq, Repr

/-- One of the two PCIe ports (R355). -/
abbrev Port := Fin 2

/-- A function of the part, as one of the two ports presents it (R355). -/
structure PortFn where
  port : Port
  fn : Fn
deriving DecidableEq, Repr

/-- A flit as it comes out of a frame: 64 bytes, a 12-bit sequence number and a CRC-32 (R348). -/
structure Flit where
  seq : BitVec 12
  payload : List Byte
  crc : BitVec 32
deriving DecidableEq, Repr

/-- A flit that a sender puts into a frame: a new one, the next of those that wait because another link went down (R350), or one that a
repeat request names (R348). -/
inductive FlitOut where
  | fresh (payload : List Byte)
  | queued
  | again (seq : BitVec 12)
deriving DecidableEq, Repr

/-- What is sampled with a thermal sensor: its temperature, and readings of voltage monitors by rail (R363; log entry 30). -/
structure Sample where
  temp : Int
  rails : List (Nat × Int)
deriving DecidableEq, Repr

/-- What a numeric sensor reads: a thermal sensor of the die named with it, or the voltage monitor of a rail of the module (R363). -/
inductive Sensor where
  | temp (n : Fin 8)
  | volt (rail : Nat)
deriving DecidableEq, Repr

/-- What a TAP access reads of a frozen part (R368; log entry 15). -/
inductive TapTarget where
  /-- A byte of a scratchpad or a register space. -/
  | sram (pa : Nat)
  /-- `x`, a special register by its number, and a predicate register of a context. -/
  | xreg (k : CtxKey) (i : Fin 64)
  | sr (k : CtxKey) (n : BitVec 12)
  | preg (k : CtxKey) (i : Fin 16)
  /-- 32 bits of a slot of an accumulator store of a core: its band, its place in the band, the 32-bit word. -/
  | slot (core : Fin 768) (shadow : Bool) (band : Fin 32) (place : Nat) (word : Nat)
  /-- The LFSR of an injection port (R352). -/
  | lfsr (die : Die) (column row : Fin 12)
  /-- The duplicate counter of a die (R287), and a grant word (R322). -/
  | duplicates (die : Die)
  | ratio (cl : Cluster)
deriving DecidableEq, Repr

/-- What a configuration request asks a function for (R355): the features that the rule states, or another register by its offset. -/
inductive CfgReg where
  | maxPayload | relaxedOrdering | tags10 | tags14 | sriov | ats | pasid | ido | ptm
  | other (off : Nat)
deriving DecidableEq, Repr

/-- Presentation modes (R18). -/
inductive Mode where
  | mode1 | mode2 | mode6
deriving DecidableEq, Repr

/-- Firmware components (R365). -/
inductive Component where
  | vemund | dieController | powerTable | nougat
deriving DecidableEq, Repr

/-- One route of the scale-out table: package id, port (R362). -/
structure Route where
  pkg : BitVec 16
  port : Fin 12
deriving DecidableEq, Repr

/-- A packet of a reducing copy or exchange with its tag: its bytes, each with its place at the destination (R286). -/
structure RedPacket where
  collective : BitVec 16
  step : BitVec 16
  source : BitVec 32
  red : RedCopy
  esz : Nat
  cells : List (Nat × Byte)
deriving DecidableEq, Repr

/-- The place of a packet's first byte. -/
def RedPacket.addr (k : RedPacket) : Nat := (k.cells.head?.map (·.1)).getD 0

/-- Why an instance of a fold or an exchange stops for members of other packages: the site first received (R297), a shape mismatch
(R313), a timer (R305), or a poisoned source of a member (R312). -/
inductive Stop where
  | site (first : BitVec 18)
  | shape (hash : BitVec 32)
  | timer
  | poison (member : Nat)
deriving DecidableEq, Repr

/-- What a scale-out frame carries (R298, R305, R312): a fold's partial, as the contributions it is made of; a fold's result with its
departed count; a departure; the stop of an instance; whether members stand still, where that has changed; a collective data packet; the
acknowledgement of a packet (R362). `still`: a member on the sender stands still. -/
inductive ScaleMsg where
  | fold (grp : BitVec 16) (seq : BitVec 16) (site : BitVec 18) (hash : BitVec 32) (votes : List (Nat × Bool)) (still : Bool)
  | result (grp : BitVec 16) (seq : BitVec 16) (res : Bool) (departed : Nat) (still : Bool)
  | departed (grp : BitVec 16) (member : Nat) (still : Bool)
  | stop (grp : BitVec 16) (seq : BitVec 16) (why : Stop)
  | still (grp : BitVec 16) (still : Bool)
  | data (pkt : RedPacket)
  | ack (seq : BitVec 32)
deriving DecidableEq, Repr

/-- The instructions and steps of the part, one constructor per row of the opcode table. -/
inductive Instr where
  /-- `NOP` (R30). -/
  | nop (sy : Sync)
  /-- `DONE` (R99). -/
  | done (sy : Sync)
  /-- `YIELD` (R100). -/
  | yield (sy : Sync)
  /-- `TRAP` (R335). -/
  | trap (sy : Sync) (imm : BitVec 12)
  /-- `ERET` (R336). -/
  | eret (sy : Sync)
  /-- `BRK` (R335). -/
  | brk (sy : Sync)
  /-- `WFE` (R97). -/
  | wfe (sy : Sync) (m : BitVec 6)
  /-- `EVCLR` (R97). -/
  | evclr (sy : Sync) (m : BitVec 6)
  /-- `RET` (R114). -/
  | ret (sy : Sync)
  /-- `FENCE` (R269). -/
  | fence (sy : Sync) (classes : BitVec 16) (scope : Scope) (ro : Bool)
  /-- `ADD` (R106). -/
  | add (sy : Sync) (rd : XReg) (ra : XReg) (rb : XReg)
  /-- `SUB` (R106). -/
  | sub (sy : Sync) (rd : XReg) (ra : XReg) (rb : XReg)
  /-- `AND` (R106). -/
  | and (sy : Sync) (rd : XReg) (ra : XReg) (rb : XReg)
  /-- `OR` (R106). -/
  | or (sy : Sync) (rd : XReg) (ra : XReg) (rb : XReg)
  /-- `XOR` (R106). -/
  | xor (sy : Sync) (rd : XReg) (ra : XReg) (rb : XReg)
  /-- `SHL` (R106). -/
  | shl (sy : Sync) (rd : XReg) (ra : XReg) (rb : XReg)
  /-- `SHR` (R106). -/
  | shr (sy : Sync) (rd : XReg) (ra : XReg) (rb : XReg)
  /-- `SRA` (R106). -/
  | sra (sy : Sync) (rd : XReg) (ra : XReg) (rb : XReg)
  /-- `MUL` (R106). -/
  | mul (sy : Sync) (rd : XReg) (ra : XReg) (rb : XReg)
  /-- `MULH` (R106). -/
  | mulh (sy : Sync) (rd : XReg) (ra : XReg) (rb : XReg)
  /-- `MULHU` (R106). -/
  | mulhu (sy : Sync) (rd : XReg) (ra : XReg) (rb : XReg)
  /-- `DIV` (R106). -/
  | div (sy : Sync) (rd : XReg) (ra : XReg) (rb : XReg)
  /-- `DIVU` (R106). -/
  | divu (sy : Sync) (rd : XReg) (ra : XReg) (rb : XReg)
  /-- `REM` (R106). -/
  | rem (sy : Sync) (rd : XReg) (ra : XReg) (rb : XReg)
  /-- `REMU` (R106). -/
  | remu (sy : Sync) (rd : XReg) (ra : XReg) (rb : XReg)
  /-- `MIN` (R106). -/
  | min (sy : Sync) (rd : XReg) (ra : XReg) (rb : XReg)
  /-- `MAX` (R106). -/
  | max (sy : Sync) (rd : XReg) (ra : XReg) (rb : XReg)
  /-- `MINU` (R106). -/
  | minu (sy : Sync) (rd : XReg) (ra : XReg) (rb : XReg)
  /-- `MAXU` (R106). -/
  | maxu (sy : Sync) (rd : XReg) (ra : XReg) (rb : XReg)
  /-- `MOV` (R106). -/
  | mov (sy : Sync) (rd : XReg) (ra : XReg)
  /-- `POPC` (R106). -/
  | popc (sy : Sync) (rd : XReg) (ra : XReg)
  /-- `CLZ` (R106). -/
  | clz (sy : Sync) (rd : XReg) (ra : XReg)
  /-- `CTZ` (R106). -/
  | ctz (sy : Sync) (rd : XReg) (ra : XReg)
  /-- `ADDI` (R107). -/
  | addi (sy : Sync) (rd : XReg) (ra : XReg) (imm : BitVec 8)
  /-- `ADDI_LEN1` (R107). -/
  | addiLen1 (sy : Sync) (rd : XReg) (ra : XReg) (imm : BitVec 36)
  /-- `ADDI_LEN2` (R107). -/
  | addiLen2 (sy : Sync) (rd : XReg) (ra : XReg) (imm : BitVec 64)
  /-- `ANDI` (R107). -/
  | andi (sy : Sync) (rd : XReg) (ra : XReg) (imm : BitVec 8)
  /-- `ANDI_LEN1` (R107). -/
  | andiLen1 (sy : Sync) (rd : XReg) (ra : XReg) (imm : BitVec 36)
  /-- `ANDI_LEN2` (R107). -/
  | andiLen2 (sy : Sync) (rd : XReg) (ra : XReg) (imm : BitVec 64)
  /-- `ORI` (R107). -/
  | ori (sy : Sync) (rd : XReg) (ra : XReg) (imm : BitVec 8)
  /-- `ORI_LEN1` (R107). -/
  | oriLen1 (sy : Sync) (rd : XReg) (ra : XReg) (imm : BitVec 36)
  /-- `ORI_LEN2` (R107). -/
  | oriLen2 (sy : Sync) (rd : XReg) (ra : XReg) (imm : BitVec 64)
  /-- `XORI` (R107). -/
  | xori (sy : Sync) (rd : XReg) (ra : XReg) (imm : BitVec 8)
  /-- `XORI_LEN1` (R107). -/
  | xoriLen1 (sy : Sync) (rd : XReg) (ra : XReg) (imm : BitVec 36)
  /-- `XORI_LEN2` (R107). -/
  | xoriLen2 (sy : Sync) (rd : XReg) (ra : XReg) (imm : BitVec 64)
  /-- `SHLI` (R107). -/
  | shli (sy : Sync) (rd : XReg) (ra : XReg) (imm : BitVec 8)
  /-- `SHLI_LEN1` (R107). -/
  | shliLen1 (sy : Sync) (rd : XReg) (ra : XReg) (imm : BitVec 36)
  /-- `SHLI_LEN2` (R107). -/
  | shliLen2 (sy : Sync) (rd : XReg) (ra : XReg) (imm : BitVec 64)
  /-- `SHRI` (R107). -/
  | shri (sy : Sync) (rd : XReg) (ra : XReg) (imm : BitVec 8)
  /-- `SHRI_LEN1` (R107). -/
  | shriLen1 (sy : Sync) (rd : XReg) (ra : XReg) (imm : BitVec 36)
  /-- `SHRI_LEN2` (R107). -/
  | shriLen2 (sy : Sync) (rd : XReg) (ra : XReg) (imm : BitVec 64)
  /-- `SRAI` (R107). -/
  | srai (sy : Sync) (rd : XReg) (ra : XReg) (imm : BitVec 8)
  /-- `SRAI_LEN1` (R107). -/
  | sraiLen1 (sy : Sync) (rd : XReg) (ra : XReg) (imm : BitVec 36)
  /-- `SRAI_LEN2` (R107). -/
  | sraiLen2 (sy : Sync) (rd : XReg) (ra : XReg) (imm : BitVec 64)
  /-- `LI` (R107). -/
  | li (sy : Sync) (rd : XReg) (imm : BitVec 8)
  /-- `LI_LEN1` (R107). -/
  | liLen1 (sy : Sync) (rd : XReg) (imm : BitVec 36)
  /-- `LI_LEN2` (R107). -/
  | liLen2 (sy : Sync) (rd : XReg) (imm : BitVec 64)
  /-- `MULI` (R107). -/
  | muli (sy : Sync) (rd : XReg) (ra : XReg) (imm : BitVec 8)
  /-- `MULI_LEN1` (R107). -/
  | muliLen1 (sy : Sync) (rd : XReg) (ra : XReg) (imm : BitVec 36)
  /-- `MULI_LEN2` (R107). -/
  | muliLen2 (sy : Sync) (rd : XReg) (ra : XReg) (imm : BitVec 64)
  /-- `CMP` (R108). -/
  | cmp (sy : Sync) (pd : PReg) (cc : Cc) (ra : XReg) (rb : XReg)
  /-- `CMPI` (R108). -/
  | cmpi (sy : Sync) (pd : PReg) (cc : Cc) (ra : XReg) (imm : BitVec 6)
  /-- `CMPI_LEN1` (R108). -/
  | cmpiLen1 (sy : Sync) (pd : PReg) (cc : Cc) (ra : XReg) (imm : BitVec 34)
  /-- `PAND` (R109). -/
  | pand (sy : Sync) (pd : PReg) (pa : PReg) (pb : PReg)
  /-- `POR` (R109). -/
  | por (sy : Sync) (pd : PReg) (pa : PReg) (pb : PReg)
  /-- `PXOR` (R109). -/
  | pxor (sy : Sync) (pd : PReg) (pa : PReg) (pb : PReg)
  /-- `PANDN` (R109). -/
  | pandn (sy : Sync) (pd : PReg) (pa : PReg) (pb : PReg)
  /-- `PNOT` (R109). -/
  | pnot (sy : Sync) (pd : PReg) (pa : PReg)
  /-- `PSET` (R109). -/
  | pset (sy : Sync) (pd : PReg)
  /-- `PCLR` (R109). -/
  | pclr (sy : Sync) (pd : PReg)
  /-- `PMOV` (R109). -/
  | pmov (sy : Sync) (pd : PReg) (pa : PReg)
  /-- `PCNT` (R110). -/
  | pcnt (sy : Sync) (rd : XReg) (pa : PReg)
  /-- `BR` (R111). -/
  | br (sy : Sync) (disp : BitVec 15)
  /-- `BR_LEN1` (R111). -/
  | brLen1 (sy : Sync) (disp : BitVec 43)
  /-- `BP` (R111). -/
  | bp (sy : Sync) (p : PReg) (sense : Bool) (disp : BitVec 15)
  /-- `BP_LEN1` (R111). -/
  | bpLen1 (sy : Sync) (p : PReg) (sense : Bool) (disp : BitVec 43)
  /-- `BANY` (R111). -/
  | bany (sy : Sync) (p : PReg) (sense : Bool) (disp : BitVec 15)
  /-- `BANY_LEN1` (R111). -/
  | banyLen1 (sy : Sync) (p : PReg) (sense : Bool) (disp : BitVec 43)
  /-- `BALL` (R111). -/
  | ball (sy : Sync) (p : PReg) (sense : Bool) (disp : BitVec 15)
  /-- `BALL_LEN1` (R111). -/
  | ballLen1 (sy : Sync) (p : PReg) (sense : Bool) (disp : BitVec 43)
  /-- `CALL` (R114). -/
  | call (sy : Sync) (disp : BitVec 15)
  /-- `CALL_LEN1` (R114). -/
  | callLen1 (sy : Sync) (disp : BitVec 43)
  /-- `BRI` (R112). -/
  | bri (sy : Sync) (ra : XReg)
  /-- `CALLI` (R112). -/
  | calli (sy : Sync) (ra : XReg)
  /-- `LD` (R235). -/
  | ld (sy : Sync) (rd : XReg) (ra : XReg) (cls : Fin 16) (hint : Hint) (sz : Size)
  /-- `LD_LEN1` (R235). -/
  | ldLen1 (sy : Sync) (rd : XReg) (ra : XReg) (cls : Fin 16) (hint : Hint) (sz : Size) (off : BitVec 28)
  /-- `LDS` (R235). -/
  | lds (sy : Sync) (rd : XReg) (ra : XReg) (cls : Fin 16) (hint : Hint) (sz : Size)
  /-- `LDS_LEN1` (R235). -/
  | ldsLen1 (sy : Sync) (rd : XReg) (ra : XReg) (cls : Fin 16) (hint : Hint) (sz : Size) (off : BitVec 28)
  /-- `LDRO` (R235). -/
  | ldro (sy : Sync) (rd : XReg) (ra : XReg) (cls : Fin 16) (hint : Hint) (sz : Size)
  /-- `LDRO_LEN1` (R235). -/
  | ldroLen1 (sy : Sync) (rd : XReg) (ra : XReg) (cls : Fin 16) (hint : Hint) (sz : Size) (off : BitVec 28)
  /-- `ST` (R235). -/
  | st (sy : Sync) (rs : XReg) (ra : XReg) (cls : Fin 16) (hint : Hint) (sz : Size)
  /-- `ST_LEN1` (R235). -/
  | stLen1 (sy : Sync) (rs : XReg) (ra : XReg) (cls : Fin 16) (hint : Hint) (sz : Size) (off : BitVec 28)
  /-- `MFSR` (R116). -/
  | mfsr (sy : Sync) (rd : XReg) (sr : BitVec 12)
  /-- `MTSR` (R116). -/
  | mtsr (sy : Sync) (sr : BitVec 12) (rs : XReg)
  /-- `EGO` (R118). -/
  | ego (sy : Sync) (e : Engine) (ra : XReg)
  /-- `EWAIT` (R119). -/
  | ewait (sy : Sync) (e : Option Engine)
  /-- `ESTAT` (R120). -/
  | estat (sy : Sync) (rd : XReg) (e : Engine)
  /-- `FQPUSH` (R123). -/
  | fqpush (sy : Sync) (ra : XReg)
  /-- `PQPUSH` (R123). -/
  | pqpush (sy : Sync) (q : PQ) (ra : XReg)
  /-- `TMAP` (R230). -/
  | tmap (sy : Sync) (hd : HReg) (ra : XReg) (rb : XReg) (rights : Rights)
  /-- `TUNMAP` (R231). -/
  | tunmap (sy : Sync) (hd : HReg)
  /-- `TQUERY` (R232). -/
  | tquery (sy : Sync) (rd : XReg) (hd : HReg)
  /-- `BINIT` (R256). -/
  | binit (sy : Sync) (b : BReg)
  /-- `BEXP` (R255). -/
  | bexp (sy : Sync) (b : BReg) (ra : XReg)
  /-- `BARR` (R256). -/
  | barr (sy : Sync) (b : BReg) (ra : XReg)
  /-- `BWAIT` (R256). -/
  | bwait (sy : Sync) (b : BReg) (k : Bool)
  /-- `BTEST` (R256). -/
  | btest (sy : Sync) (pd : PReg) (b : BReg) (k : Bool)
  /-- `AMO` (R280). -/
  | amo (sy : Sync) (op : AmoOp) (dbl : Bool) (cls : Fin 16) (scope : Scope) (ret : Bool) (acq : Bool) (rel : Bool) (rd : XReg) (ra : XReg) (rb : XReg)
  /-- `CAS` (R281). -/
  | cas (sy : Sync) (dbl : Bool) (cls : Fin 16) (scope : Scope) (acq : Bool) (rel : Bool) (rd : XReg) (ra : XReg) (rb : XReg)
  /-- `RED` (R282). -/
  | red (sy : Sync) (op : RedOp) (dbl : Bool) (cls : Fin 16) (ra : XReg) (rb : XReg)
  /-- `CBR` (R296). -/
  | cbr (sy : Sync) (op : CbrOp) (hint : Bool) (p : PReg) (disp : BitVec 13)
  /-- `CBR_LEN1` (R296). -/
  | cbrLen1 (sy : Sync) (op : CbrOp) (hint : Bool) (p : PReg) (disp : BitVec 41)
  /-- `CLEAVE` (R294). -/
  | cleave (sy : Sync)
  /-- `CQUERY` (R294). -/
  | cquery (sy : Sync) (rd : XReg)
  /-- `XCOLL` (R308). -/
  | xcoll (sy : Sync) (hd : HReg) (hs : HReg) (red : RedCopy) (ty : ElemTy) (b : BReg) (src : BitVec 22) (dst : BitVec 22)
  /-- `GSIG` (R88). -/
  | gsig (sy : Sync) (ra : XReg)
  /-- `GETRATIO` (R324). -/
  | getratio (sy : Sync) (rd : XReg)
  /-- `RLOCK` (R324). -/
  | rlock (sy : Sync)
  /-- `RUNLOCK` (R324). -/
  | runlock (sy : Sync)
  /-- `AMALLOC` (R166). -/
  | amalloc (sy : Sync) (rd : XReg) (ra : XReg)
  /-- `AMFREE` (R167). -/
  | amfree (sy : Sync) (ra : XReg)
  /-- `AMFREE_DISCARD` (R167). -/
  | amfreeDiscard (sy : Sync) (ra : XReg)
  /-- `AMGRANT` (R168). -/
  | amgrant (sy : Sync) (rd : XReg) (ra : XReg) (rb : XReg)
  /-- `AMQUERY` (R169). -/
  | amquery (sy : Sync) (rd : XReg) (ra : XReg)
  /-- `VWAIT` (R209). -/
  | vwait (sy : Sync) (rd : XReg)
  /-- `VSIG` (R209). -/
  | vsig (sy : Sync) (rd : XReg)
  /-- `VSTAT` (R209). -/
  | vstat (sy : Sync) (rd : XReg)
  /-- `PREF` (R236). -/
  | pref (sy : Sync) (ra : XReg) (rb : XReg) (hint : Hint)
  /-- `WBR` (R236). -/
  | wbr (sy : Sync) (ra : XReg) (rb : XReg)
  /-- `INVR` (R236). -/
  | invr (sy : Sync) (ra : XReg) (rb : XReg)
  /-- `RINV` (R236). -/
  | rinv (sy : Sync) (ra : XReg) (rb : XReg)
  /-- `ICINV` (R236). -/
  | icinv (sy : Sync) (ra : XReg) (rb : XReg)
  /-- `SLRES` (R259). -/
  | slres (sy : Sync) (rd : XReg) (sl : SlReg)
  /-- `SLPOST` (R259). -/
  | slpost (sy : Sync) (sl : SlReg)
  /-- `SLACQ` (R259). -/
  | slacq (sy : Sync) (rd : XReg) (sl : SlReg)
  /-- `SLREL` (R259). -/
  | slrel (sy : Sync) (sl : SlReg)
  /-- `VEND` (R142). -/
  | vend (sy : Sync)
  /-- `VPQ` (R142). -/
  | vpq (sy : Sync) (vsd : VsReg)
  /-- `VSETVL` (R142). -/
  | vsetvl (sy : Sync) (vsd : VsReg) (vsa : VsReg)
  /-- `VFLGR` (R142). -/
  | vflgr (sy : Sync) (vd : VReg)
  /-- `VFLGC` (R142). -/
  | vflgc (sy : Sync)
  /-- `VVIEW` (R142). -/
  | vview (sy : Sync) (vd : VReg) (vsa : VsReg)
  /-- `VGETV` (R142). -/
  | vgetv (sy : Sync) (vsd : VsReg) (va : VReg)
  /-- `FADD` (R143). -/
  | fadd (sy : Sync) (vd : VReg) (va : VReg) (vb : VReg) (e1 : Option VExt)
  /-- `FSUB` (R143). -/
  | fsub (sy : Sync) (vd : VReg) (va : VReg) (vb : VReg) (e1 : Option VExt)
  /-- `FMUL` (R143). -/
  | fmul (sy : Sync) (vd : VReg) (va : VReg) (vb : VReg) (e1 : Option VExt)
  /-- `FMIN` (R143). -/
  | fmin (sy : Sync) (vd : VReg) (va : VReg) (vb : VReg) (e1 : Option VExt)
  /-- `FMAX` (R143). -/
  | fmax (sy : Sync) (vd : VReg) (va : VReg) (vb : VReg) (e1 : Option VExt)
  /-- `FMA` (R143). -/
  | fma (sy : Sync) (vd : VReg) (va : VReg) (vb : VReg) (e1 : VExt)
  /-- `FMS` (R143). -/
  | fms (sy : Sync) (vd : VReg) (va : VReg) (vb : VReg) (e1 : VExt)
  /-- `FNMA` (R143). -/
  | fnma (sy : Sync) (vd : VReg) (va : VReg) (vb : VReg) (e1 : VExt)
  /-- `FABS` (R144). -/
  | fabs (sy : Sync) (vd : VReg) (va : VReg) (e1 : Option VExt)
  /-- `FNEG` (R144). -/
  | fneg (sy : Sync) (vd : VReg) (va : VReg) (e1 : Option VExt)
  /-- `FRCP` (R144). -/
  | frcp (sy : Sync) (vd : VReg) (va : VReg) (e1 : Option VExt)
  /-- `FRSQ` (R144). -/
  | frsq (sy : Sync) (vd : VReg) (va : VReg) (e1 : Option VExt)
  /-- `FSQRT` (R144). -/
  | fsqrt (sy : Sync) (vd : VReg) (va : VReg) (e1 : Option VExt)
  /-- `FEXP2` (R144). -/
  | fexp2 (sy : Sync) (vd : VReg) (va : VReg) (e1 : Option VExt)
  /-- `FLOG2` (R144). -/
  | flog2 (sy : Sync) (vd : VReg) (va : VReg) (e1 : Option VExt)
  /-- `FSIN` (R144). -/
  | fsin (sy : Sync) (vd : VReg) (va : VReg) (e1 : Option VExt)
  /-- `FCOS` (R144). -/
  | fcos (sy : Sync) (vd : VReg) (va : VReg) (e1 : Option VExt)
  /-- `FRND` (R144). -/
  | frnd (sy : Sync) (vd : VReg) (va : VReg) (e1 : Option VExt)
  /-- `FEQ` (R145). -/
  | feq (sy : Sync) (pd : PReg) (va : VReg) (vb : VReg) (e1 : Option VExt)
  /-- `FNE` (R145). -/
  | fne (sy : Sync) (pd : PReg) (va : VReg) (vb : VReg) (e1 : Option VExt)
  /-- `FLT` (R145). -/
  | flt (sy : Sync) (pd : PReg) (va : VReg) (vb : VReg) (e1 : Option VExt)
  /-- `FLE` (R145). -/
  | fle (sy : Sync) (pd : PReg) (va : VReg) (vb : VReg) (e1 : Option VExt)
  /-- `FUN` (R145). -/
  | fun (sy : Sync) (pd : PReg) (va : VReg) (vb : VReg) (e1 : Option VExt)
  /-- `IADD` (R146). -/
  | iadd (sy : Sync) (vd : VReg) (va : VReg) (vb : VReg) (e1 : Option VExt)
  /-- `ISUB` (R146). -/
  | isub (sy : Sync) (vd : VReg) (va : VReg) (vb : VReg) (e1 : Option VExt)
  /-- `IMUL` (R146). -/
  | imul (sy : Sync) (vd : VReg) (va : VReg) (vb : VReg) (e1 : Option VExt)
  /-- `IMULH` (R146). -/
  | imulh (sy : Sync) (vd : VReg) (va : VReg) (vb : VReg) (e1 : Option VExt)
  /-- `IMULHU` (R146). -/
  | imulhu (sy : Sync) (vd : VReg) (va : VReg) (vb : VReg) (e1 : Option VExt)
  /-- `IMIN` (R146). -/
  | imin (sy : Sync) (vd : VReg) (va : VReg) (vb : VReg) (e1 : Option VExt)
  /-- `IMAX` (R146). -/
  | imax (sy : Sync) (vd : VReg) (va : VReg) (vb : VReg) (e1 : Option VExt)
  /-- `IMINU` (R146). -/
  | iminu (sy : Sync) (vd : VReg) (va : VReg) (vb : VReg) (e1 : Option VExt)
  /-- `IMAXU` (R146). -/
  | imaxu (sy : Sync) (vd : VReg) (va : VReg) (vb : VReg) (e1 : Option VExt)
  /-- `IAND` (R146). -/
  | iand (sy : Sync) (vd : VReg) (va : VReg) (vb : VReg) (e1 : Option VExt)
  /-- `IOR` (R146). -/
  | ior (sy : Sync) (vd : VReg) (va : VReg) (vb : VReg) (e1 : Option VExt)
  /-- `IXOR` (R146). -/
  | ixor (sy : Sync) (vd : VReg) (va : VReg) (vb : VReg) (e1 : Option VExt)
  /-- `ISHL` (R146). -/
  | ishl (sy : Sync) (vd : VReg) (va : VReg) (vb : VReg) (e1 : Option VExt)
  /-- `ISHR` (R146). -/
  | ishr (sy : Sync) (vd : VReg) (va : VReg) (vb : VReg) (e1 : Option VExt)
  /-- `ISRA` (R146). -/
  | isra (sy : Sync) (vd : VReg) (va : VReg) (vb : VReg) (e1 : Option VExt)
  /-- `IADDS` (R146). -/
  | iadds (sy : Sync) (vd : VReg) (va : VReg) (vb : VReg) (e1 : Option VExt)
  /-- `ISUBS` (R146). -/
  | isubs (sy : Sync) (vd : VReg) (va : VReg) (vb : VReg) (e1 : Option VExt)
  /-- `IABS` (R146). -/
  | iabs (sy : Sync) (vd : VReg) (va : VReg) (e1 : Option VExt)
  /-- `IEQ` (R147). -/
  | ieq (sy : Sync) (pd : PReg) (va : VReg) (vb : VReg) (e1 : Option VExt)
  /-- `INE` (R147). -/
  | ine (sy : Sync) (pd : PReg) (va : VReg) (vb : VReg) (e1 : Option VExt)
  /-- `ILT` (R147). -/
  | ilt (sy : Sync) (pd : PReg) (va : VReg) (vb : VReg) (e1 : Option VExt)
  /-- `IGE` (R147). -/
  | ige (sy : Sync) (pd : PReg) (va : VReg) (vb : VReg) (e1 : Option VExt)
  /-- `ILTU` (R147). -/
  | iltu (sy : Sync) (pd : PReg) (va : VReg) (vb : VReg) (e1 : Option VExt)
  /-- `IGEU` (R147). -/
  | igeu (sy : Sync) (pd : PReg) (va : VReg) (vb : VReg) (e1 : Option VExt)
  /-- `BFX` (R148). -/
  | bfx (sy : Sync) (vd : VReg) (va : VReg) (e1 : VExt)
  /-- `BFXU` (R148). -/
  | bfxu (sy : Sync) (vd : VReg) (va : VReg) (e1 : VExt)
  /-- `BFI` (R148). -/
  | bfi (sy : Sync) (vd : VReg) (va : VReg) (e1 : VExt)
  /-- `FSHL` (R148). -/
  | fshl (sy : Sync) (vd : VReg) (va : VReg) (vb : VReg) (e1 : Option VExt)
  /-- `FSHR` (R148). -/
  | fshr (sy : Sync) (vd : VReg) (va : VReg) (vb : VReg) (e1 : Option VExt)
  /-- `POPCV` (R148). -/
  | popcv (sy : Sync) (vd : VReg) (va : VReg) (e1 : Option VExt)
  /-- `CLZV` (R148). -/
  | clzv (sy : Sync) (vd : VReg) (va : VReg) (e1 : Option VExt)
  /-- `BREVV` (R148). -/
  | brevv (sy : Sync) (vd : VReg) (va : VReg) (e1 : Option VExt)
  /-- `CVT` (R149). -/
  | cvt (sy : Sync) (vd : VReg) (va : VReg) (e1 : Option VExt)
  /-- `QNT` (R151). -/
  | qnt (sy : Sync) (vd : VReg) (va : VReg) (vb : VReg) (e1 : Option VExt)
  /-- `DQNT` (R152). -/
  | dqnt (sy : Sync) (vd : VReg) (va : VReg) (e1 : Option VExt)
  /-- `QSCALE` (R150). -/
  | qscale (sy : Sync) (vd : VReg) (va : VReg) (e1 : Option VExt)
  /-- `VMOV` (R153). -/
  | vmov (sy : Sync) (vd : VReg) (va : VReg) (e1 : Option VExt)
  /-- `VSEL` (R153). -/
  | vsel (sy : Sync) (vd : VReg) (va : VReg) (vb : VReg) (e1 : Option VExt)
  /-- `VBCST` (R153). -/
  | vbcst (sy : Sync) (vd : VReg) (va : VReg) (vb : VReg) (e1 : Option VExt)
  /-- `VIDX` (R153). -/
  | vidx (sy : Sync) (vd : VReg) (e1 : Option VExt)
  /-- `VPERM` (R153). -/
  | vperm (sy : Sync) (vd : VReg) (va : VReg) (vb : VReg) (e1 : Option VExt)
  /-- `VCMPRS` (R153). -/
  | vcmprs (sy : Sync) (vd : VReg) (va : VReg) (e1 : Option VExt)
  /-- `VEXPND` (R153). -/
  | vexpnd (sy : Sync) (vd : VReg) (va : VReg) (e1 : Option VExt)
  /-- `VSLDN` (R153). -/
  | vsldn (sy : Sync) (vd : VReg) (va : VReg) (vb : VReg) (e1 : Option VExt)
  /-- `VSLUP` (R153). -/
  | vslup (sy : Sync) (vd : VReg) (va : VReg) (vb : VReg) (e1 : Option VExt)
  /-- `VRADD` (R154). -/
  | vradd (sy : Sync) (vd : VReg) (va : VReg) (e1 : Option VExt)
  /-- `VRFADD` (R154). -/
  | vrfadd (sy : Sync) (vd : VReg) (va : VReg) (e1 : Option VExt)
  /-- `VRMIN` (R154). -/
  | vrmin (sy : Sync) (vd : VReg) (va : VReg) (e1 : Option VExt)
  /-- `VRMAX` (R154). -/
  | vrmax (sy : Sync) (vd : VReg) (va : VReg) (e1 : Option VExt)
  /-- `VRFMIN` (R154). -/
  | vrfmin (sy : Sync) (vd : VReg) (va : VReg) (e1 : Option VExt)
  /-- `VRFMAX` (R154). -/
  | vrfmax (sy : Sync) (vd : VReg) (va : VReg) (e1 : Option VExt)
  /-- `VSCAN` (R154). -/
  | vscan (sy : Sync) (vd : VReg) (va : VReg) (e1 : Option VExt)
  /-- `VFSCAN` (R154). -/
  | vfscan (sy : Sync) (vd : VReg) (va : VReg) (e1 : Option VExt)
  /-- `VLD` (R156). -/
  | vld (sy : Sync) (vd : VReg) (vsa : VsReg) (e1 : Option VExt)
  /-- `VST` (R156). -/
  | vst (sy : Sync) (vd : VReg) (vsa : VsReg) (e1 : Option VExt)
  /-- `VGTH` (R156). -/
  | vgth (sy : Sync) (vd : VReg) (vsa : VsReg) (vb : VReg) (e1 : Option VExt)
  /-- `VSCT` (R156). -/
  | vsct (sy : Sync) (vd : VReg) (vsa : VsReg) (vb : VReg) (e1 : Option VExt)
  /-- `VLDL` (R158). -/
  | vldl (sy : Sync) (vd : VReg) (vb : VReg) (e1 : Option VExt)
  /-- `VSTL` (R158). -/
  | vstl (sy : Sync) (vd : VReg) (vb : VReg) (e1 : Option VExt)
  /-- `MCHB` (R175). -/
  | mchb (sy : Sync) (band : Band) (nb : Fin 8) (cols : Fin 64)
  /-- `MMA` (R178). -/
  | mma (sy : Sync) (va : VReg) (vb : VReg) (ta : Bool) (tb : Bool) (neg : Bool)
  /-- `MMAG` (R179). -/
  | mmag (sy : Sync) (vi : VReg) (vb : VReg) (vc : VReg)
  /-- `MTRN` (R180). -/
  | mtrn (sy : Sync) (va : VReg)
  /-- `MPERM` (R180). -/
  | mperm (sy : Sync) (va : VReg) (vb : VReg)
  /-- `MRSUM` (R180). -/
  | mrsum (sy : Sync) (va : VReg)
  /-- `MCSUM` (R180). -/
  | mcsum (sy : Sync) (va : VReg)
  /-- `MDRN` (R183). -/
  | mdrn (sy : Sync) (vd : VReg) (band : Band) (nb : Fin 8) (clear : Bool)
  /-- `MZRO` (R181). -/
  | mzro (sy : Sync) (band : Band) (nb : Fin 8)
  /-- `MLDA` (R182). -/
  | mlda (sy : Sync) (va : VReg) (band : Band) (nb : Fin 8)
  /-- `XPQ` (R246). -/
  | xpq (sy : Sync) (od : OReg)
  /-- `XSHP` (R246). -/
  | xshp (sy : Sync) (sh : ShReg)
  /-- `XCPY` (R247). -/
  | xcpy (sy : Sync) (hd : HReg) (od : OReg) (hs : HReg) (os : OReg) (b : BReg) (sh : ShReg) (red : RedCopy) (cls : Fin 16) (hint : Hint) (cmp : Bool) (zero : Bool)
  /-- `XGTH` (R250). -/
  | xgth (sy : Sync) (hd : HReg) (od : OReg) (hs : HReg) (os : OReg) (b : BReg) (hi : HReg) (sh : ShReg) (cls : Fin 16) (hint : Hint)
  /-- `XSLT_IN` (R252). -/
  | xsltIn (sy : Sync) (hs : HReg) (os : OReg) (sl : SlReg) (b : BReg) (cls : Fin 16) (hint : Hint)
  /-- `XSLT_OUT` (R252). -/
  | xsltOut (sy : Sync) (hd : HReg) (od : OReg) (sl : SlReg) (b : BReg) (cls : Fin 16) (hint : Hint)
  /-- `XFIL` (R251). -/
  | xfil (sy : Sync) (hd : HReg) (od : OReg) (b : BReg) (sh : ShReg) (fill : BitVec 8) (cls : Fin 16) (hint : Hint)
  /-- `XADO` (R246). -/
  | xado (sy : Sync) (od : OReg) (imm : BitVec 16)
  /-- `XADO_LEN1` (R246). -/
  | xadoLen1 (sy : Sync) (od : OReg) (imm : BitVec 44)
  /-- `ASYNC_TRAP_TAKEN` (R328). -/
  | asyncTrapTaken (k : CtxKey)
  /-- `VNOP` (R142). -/
  | vnop (sy : Sync)
  /-- `MNOP` (R184). -/
  | mnop (sy : Sync)
  /-- `XNOP` (R246). -/
  | xnop (sy : Sync)
  /-- `MEND` (R175). -/
  | mend (sy : Sync)
  /-- `XEND` (R246). -/
  | xend (sy : Sync)
  /-- `MCHE` (R175). -/
  | mche (sy : Sync)
  /-- `XWAIT` (R246). -/
  | xwait (sy : Sync)
  /-- `COPY_DONE` (R241). -/
  | copyDone (k : CtxKey) (cs : CopyStream) (n : BitVec 32)
  /-- `COPY_FAULT` (R245). -/
  | copyFault (k : CtxKey) (cs : CopyStream) (n : BitVec 32) (why : CopyFaultCause)
  /-- `DRAIN_VERDICT` (R189). -/
  | drainVerdict (k : CtxKey)
  /-- `NOUGAT_ARBITRATION` (R200). -/
  | nougatArbitration (k : CtxKey)
  /-- `NOUGAT_SELF_TEST` (R213). -/
  | nougatSelfTest (cl : Cluster) (pass : Bool)
  /-- `WRITE_COMPLETE_AT_HOME` (R267). -/
  | writeCompleteAtHome (line : Nat)
  /-- `FLUSH_MARKER_ANSWER` (R272). -/
  | flushMarkerAnswer (n : Nat)
  /-- `FAULT_QUEUE_REPLAY` (R237). -/
  | faultQueueReplay (die : Die) (slice : Fin 16)
  /-- `FAULT_QUEUE_WATCHDOG` (R237). -/
  | faultQueueWatchdog (die : Die) (slice : Fin 16)
  /-- `SLICE_RETIRE` (R223). -/
  | sliceRetire (die : Die) (slice : Fin 16) (target : Fin 16)
  /-- `REDUCTION_PACKET_ARRIVAL` (R287). -/
  | reductionPacketArrival (pkt : RedPacket)
  /-- `FOLD_CONTRIBUTION` (R298). -/
  | foldContribution (die : Die)
  /-- `FOLD_RESULT` (R296). -/
  | foldResult (k : CtxKey)
  /-- `DEPARTURE` (R292). -/
  | departure (grp : BitVec 16) (member : Nat)
  /-- `GROUP_TIMEOUT` (R305). -/
  | groupTimeout (k : CtxKey)
  /-- `COLLECTIVE_PACKET_ARRIVAL` (R313). -/
  | collectivePacketArrival (k : CtxKey) (hash : BitVec 32)
  /-- `XCOLL_EXCHANGE_DONE` (R312). -/
  | xcollExchangeDone (grp : BitVec 16) (seq : BitVec 16)
  /-- `LAUNCH` (R80). -/
  | evLaunch (src : RingId) (pkt : Packet)
  /-- `SIGNAL` (R84). -/
  | evSignal (src : RingId) (pkt : Packet)
  /-- `NOP_PACKET` (R84). -/
  | nopPacket (src : RingId) (pkt : Packet)
  /-- `SET` (R360). -/
  | cfgSet (src : RingId) (pkt : Packet)
  /-- `MASK` (R359). -/
  | cfgMask (src : RingId) (pkt : Packet)
  /-- `DESTROY` (R359). -/
  | cfgDestroy (src : RingId) (pkt : Packet)
  /-- `RESET` (R361). -/
  | cfgReset (src : RingId) (pkt : Packet)
  /-- `SHOOTDOWN` (R228). -/
  | cfgShootdown (src : RingId) (pkt : Packet)
  /-- `CAP` (R359). -/
  | cfgCap (src : RingId) (pkt : Packet)
  /-- `EN` (R77). -/
  | ringEn (r : RingId) (on : Bool)
  /-- `RINGBELL` (R78). -/
  | ringbell (r : RingId)
  /-- `RINGERR` (R77). -/
  | ringerr (r : RingId) (val : BitVec 32)
  /-- `NODESIG` (R77). -/
  | nodesig (r : RingId) (node : BitVec 32)
  /-- `HOSTBELL` (R77). -/
  | hostbell (r : RingId) (node : BitVec 32)
  /-- `POSTN` (R260). -/
  | postn (fn : Fn) (db : Fin 4096) (n : BitVec 32) (relaxed : Bool)
  /-- `REGISTER_WRITE` (R4). -/
  | registerWrite (fn : Fn) (off : BitVec 22) (val : BitVec 32)
  /-- `PEER_WRITE` (R276). -/
  | peerWrite (fn : PortFn) (bar : Bar) (off : Nat) (bytes : List Byte) (relaxed : Bool)
  /-- `HOST_READ` (R356). -/
  | hostRead (fn : PortFn) (bar : Bar) (off : Nat) (len : Fin 65)
  /-- `FUNCTION_LEVEL_RESET` (R361). -/
  | functionLevelReset (p : Part)
  /-- `NODE_COMPLETION` (R75). -/
  | nodeCompletion (p : Part) (node : BitVec 32)
  /-- `TEAM_PLACEMENT` (R89). -/
  | teamPlacement (choice : List CtxKey)
  /-- `AGING` (R90). -/
  | aging (p : Part) (node : BitVec 32) (team : Nat)
  /-- `TIME_SLICE_EXPIRY` (R92). -/
  | timeSliceExpiry (p : Part) (node : BitVec 32) (team : Nat)
  /-- `SAVE` (R340). -/
  | evSave (p : Part) (node : BitVec 32) (team : Nat)
  /-- `LEASE_RENEWAL` (R95). -/
  | leaseRenewal
  /-- `LEASE_LAPSE` (R95). -/
  | leaseLapse
  /-- `PRALINE_EVALUATION` (R319). -/
  | pralineEvaluation (p : Part)
  /-- `LOCK_WINDOW_EXPIRY` (R324). -/
  | lockWindowExpiry (cl : Cluster)
  /-- `LOCK_REST_END` (R324). -/
  | lockRestEnd (cl : Cluster)
  /-- `BUCKET_REFILL` (R326). -/
  | bucketRefill (die : Die)
  /-- `FLIT_RECEIVE` (R348): a frame of 8 flits on a channel, as the sender makes it up; what arrives, with the frame's parity, where errors
  on the lanes have changed it. -/
  | flitReceive (l : LinkDir) (ordered : Bool) (sent : List FlitOut) (wire : Option (List Flit × List Byte))
  /-- `REPEAT_REQUEST` (R348). -/
  | repeatRequest (l : LinkDir) (seq : BitVec 12)
  /-- `LINK_RETRAIN` (R349). -/
  | linkRetrain (l : LinkDir) (bad : Nat) (trains : Bool)
  /-- `SCALEOUT_PACKET_RECEIVE` (R362). -/
  | scaleoutPacketReceive (peer : BitVec 16) (seq : BitVec 32) (msg : ScaleMsg)
  /-- `SCALEOUT_RESEND` (R362). -/
  | scaleoutResend (peer : BitVec 16) (seq : BitVec 32)
  /-- `THERMAL_SAMPLE` (R363): a thermal sensor's reading, with those of the voltage monitors of rails. -/
  | thermalSample (die : Die) (sensor : Fin 8) (temp : Sample)
  /-- `NUMERIC_SENSOR_READ` (R363). -/
  | numericSensorRead (die : Die) (sensor : Sensor)
  /-- `NUMERIC_EFFECTER_SET` (R363). -/
  | numericEffecterSet (watts : Nat)
  /-- `LOG_MIRROR` (R364). -/
  | logMirror
  /-- `LOG_READ_CLEAR` (R364). -/
  | logReadClear
  /-- `REQUESTUPDATE` (R365). -/
  | requestUpdate
  /-- `PASSCOMPONENTTABLE` (R365). -/
  | passComponentTable
  /-- `UPDATECOMPONENT` (R365). -/
  | updateComponent (comp : Component)
  /-- `FIRMWARE_TRANSFER` (R365). -/
  | firmwareTransfer (comp : Component) (version : Nat) (sigOk : Bool)
  /-- `ACTIVATEFIRMWARE` (R365). -/
  | activateFirmware (comp : Component)
  /-- `HEARTBEAT` (R366). -/
  | heartbeat (arrived : Bool)
  /-- `VEMUND_FAILOVER` (R366). -/
  | vemundFailover
  /-- `MODULE_RESET` (R367). -/
  | moduleReset
  /-- `FREEZE` (R368). -/
  | freeze
  /-- `TAP_ACCESS` (R368). -/
  | tapAccess (what : TapTarget)
  /-- `KEY_INSTALL` (R225). -/
  | keyInstall (key : BitVec 8) (val : BitVec 512)
  /-- `KEY_REVOKE` (R225). -/
  | keyRevoke (key : BitVec 8)
  /-- `PRESENTATION_MODE_SET` (R354). -/
  | presentationModeSet (mode : Mode)
  /-- `PACKAGE_ID_SET` (R362). -/
  | packageIdSet (id : BitVec 16)
  /-- `ROUTE_TABLE_LOAD` (R362). -/
  | routeTableLoad (tbl : List Route)
  /-- `CONFIGURATION_REQUEST` (R367). -/
  | configurationRequest (fn : PortFn) (reg : CfgReg)
deriving DecidableEq, Repr

end Sys2Proof
end

