-- ==== Sys2Proof/Config.lean ====
section
/-!
DEFINITION. What an implementation fixes and the spec leaves open: free values, which nothing in Lean
can evaluate, and fixed figures of the part.
-/

namespace Sys2Proof.Config

/-- Nanoseconds that pass with step number `n` (05_control R117: how fast time runs is not stated; log
entry 9). -/
opaque elapsed : Nat → Nat

/-- Which of the two values of a fetched word or a read-only-path read is used while the L1 cache holds an
older one: true is memory's (09_memory R220, 11_ordering R268: eviction may come at any time; log entry
9). -/
opaque fetchFresh : Nat → Bool

/-- The element that wins among `k` elements of one `VSCT` or copy that meet in a byte
(06_registers R157, 10_copy R243; log entry 9). -/
opaque winner : Nat → Nat → Nat

/-- A byte the spec leaves unspecified: destination bytes after a copy fault or COLLSHAPE, save-block
bytes of discardable regions and between bands (10_copy R242, 13_collectives R313, 15_traps R341; log
entry 9). -/
opaque anyByte : Nat → Byte

/-- The outcome of a boot self-test is not stated (16_package R367): whether array `a` of core `c`, or with `a` = 2 the core itself and with
`a` = 3 its SRAMs, fails at module reset number `n` (log entry 9). -/
opaque selfTestFails : Nat → Nat → Nat → Bool

/-- Whether link `l` fails to train in either direction at module reset number `n` (16_package R349, R367; log entry 9). -/
opaque linkFails : Nat → Nat → Bool

/-- Whether HBM stack `i` fails its training or its test at module reset number `n` (16_package R367; log entry 9). -/
opaque stackFails : Nat → Nat → Bool

/-- Whether the image that Vemund boots from at module reset number `n` agrees with its signature (16_package R365, R367; log entry 9). -/
opaque imageOk : Nat → Bool

/-- Nanoseconds for which a die controller's restart number `n` pauses placement, of which at most 5 ms count (16_package R365; log entry
9). -/
opaque restartTime : Nat → Nat

/-- Lanes that retraining number `n` finds to have failed, and whether the link trains (16_package R348, R349; log entry 9). -/
opaque failedLanes : Nat → Nat
opaque trains : Nat → Bool

/-- The flits that forward error correction makes of a frame which arrived with errors: 8 flits, and the parity that followed them
(16_package R348: the parameters of the Reed-Solomon code are not stated; log entry 61). -/
opaque fecRepair : List Flit → List Byte → List Flit

/-- A 32-bit register of a function's configuration space of which no rule states the value, by function and offset (16_package R355;
log entry 62). -/
opaque cfgWord : Fn → Nat → BitVec 32

/-- Whether Nougat of cluster `c` fails its self-test number `n` (08_verification R213, 16_package R367; log entry 9). -/
opaque nougatFails : Nat → Nat → Bool

/-- The fixed cost in milliwatts that version `v` of the firmware's power table gives (14_clocks R317: no rule gives the numbers; log
entry 13). -/
opaque powerFixed : Nat → Nat

/-- The cost in milliwatts that version `v` of the power table gives domain `d` (0 MX, 1 VX, 2 NET, 3 MEM) at key `16·island + nibble`
(14_clocks R317; log entry 13). -/
opaque powerCost : Nat → Nat → Nat → Nat

/-- Whether version `v` of the power table agrees with its checksum (08_verification R213, 14_clocks R317; log entry 13). -/
opaque powerTableOk : Nat → Bool

/-- Whether the fetcher of a ring reads the slot when the ring is enabled, before a RINGBELL write: a packet written without
one may or may not be consumed (04_tasks R78; log entry 9). -/
opaque fetcherStarts : Nat → Bool

/-- Whether the slice has given up the line of a sector, so that its bytes have gone to HBM under the key that wrote them and come
back under another: the slice may evict at any time (09_memory R225; log entries 9 and 46). -/
opaque evicted : Nat → Bool

/-- Sectors of which the homes of a partition and a spill area of so many MiB hold partials (12_atomics R283: neither the room in the
slices nor the size of a partial is stated; log entry 47). -/
opaque redSectors : Nat → Nat

/-- The id of the package that a member of a group runs on: the tray's tables hold it, and no rule gives them (13_collectives R298,
16_package R362; log entry 18). -/
opaque packageOf : BitVec 16 → Nat → BitVec 16

/-- The physical address, on its own package, of byte `i` of the destination block of member `j` in exchange `seq` of a group: what
a sender on another package is told of the receiver's mapping (12_atomics R286; log entry 18): group, member, exchange, byte. -/
opaque farPlace : BitVec 16 → Nat → BitVec 16 → Nat → Nat

end Sys2Proof.Config
end

