-- ==== Sys2Proof/Decode.lean ====
section
/-!
DEFINITION. The decoder of the four opcode maps (02_encoding R21 to R37) and, after it, the encoder
written from the same tables. An instruction is at most three 32-bit words, given here as numbers.
-/

namespace Sys2Proof

/-- Element type codes (R50). -/
def ElemTy.ofCode : Nat → ElemTy
  | 0 => .int8 | 1 => .uint8 | 2 => .int16 | 3 => .int32 | 4 => .uint32 | 5 => .uint16 | 6 => .fp4
  | 7 => .e4m3 | 8 => .e5m2 | 9 => .fp16 | 10 => .bf16 | 11 => .fp32 | 12 => .e3m5 | 13 => .qs4
  | 14 => .int64 | _ => .invalid

/-- The code of an element type (R50). -/
def ElemTy.code : ElemTy → Nat
  | .int8 => 0 | .uint8 => 1 | .int16 => 2 | .int32 => 3 | .uint32 => 4 | .uint16 => 5 | .fp4 => 6
  | .e4m3 => 7 | .e5m2 => 8 | .fp16 => 9 | .bf16 => 10 | .fp32 => 11 | .e3m5 => 12 | .qs4 => 13
  | .int64 => 14 | .invalid => 15

/-- ILLEGAL subcodes (R25). -/
inductive Sub where
  | opcode | func | lenbad | extsync | operand | mbz
deriving DecidableEq, Repr

/-- The value of a subcode in TRAPVAL[39:32] (R25). -/
def Sub.code : Sub → Nat
  | .opcode => 1 | .func => 2 | .lenbad => 3 | .extsync => 4 | .operand => 5 | .mbz => 6

/-- A decode failure: its subcode and the word `k` it names (R24). -/
structure Bad where
  sub : Sub
  k : Nat
deriving DecidableEq, Repr

/-- The value of ILLEGAL's TRAPVAL: `k`, the subcode and the first word (R24). -/
def Bad.trapval (b : Bad) (w0 : Nat) : Nat := b.k * 2 ^ 40 + b.sub.code * 2 ^ 32 + w0

/-! ## Range checks on decoded fields -/

/-- The numbers of the special registers (R115). -/
def srNumbers : List Nat :=
  [0x000, 0x001, 0x002, 0x003, 0x004, 0x005, 0x006, 0x007, 0x008, 0x009, 0x00A, 0x010, 0x011, 0x012, 0x013,
    0x014, 0x015, 0x020, 0x021, 0x022, 0x023, 0x024, 0x030, 0x031, 0x040, 0x041, 0x042, 0x043, 0x044, 0x045,
    0x046, 0x047, 0x050, 0x051, 0x052, 0x053, 0x054, 0x055, 0x060, 0x070]

/-- Whether an instruction uses the rounding-mode field (R137). -/
inductive RmUse where
  | unused | rneOnly | any
deriving DecidableEq, Repr

/-- The fields of E1 and vb that an instruction uses (R137). -/
structure VxUse where
  vc : Bool := false
  rm : RmUse := .unused
  nf : Bool := false
  sat : Bool := false
  bs : Bool := false
  imm : Bool := false
  pe : Bool := true
  pz : Bool := true

/-- Binary floating forms. -/
def VxUse.floatBin : VxUse := { rm := .any, nf := true, sat := true, bs := true }
/-- Unary floating forms with a rounding mode. -/
def VxUse.floatUn : VxUse := { rm := .any, nf := true, sat := true }
/-- Unary floating forms that round by RNE only. -/
def VxUse.floatFn : VxUse := { rm := .rneOnly, nf := true, sat := true }
/-- Forms whose second source may be a scalar and that use nothing else. -/
def VxUse.scalar : VxUse := { bs := true }
/-- Forms that use no field of E1 but the predicate. -/
def VxUse.plain : VxUse := {}

/-- The fields of E1 that an instruction with an E1 word uses, and that word with the vb field of the
first word (R137, R138). -/
def vxUse : Instr → Option (VxUse × VExt × Nat)
  | .fadd _ _ _ b (some e) | .fsub _ _ _ b (some e) | .fmul _ _ _ b (some e) | .fmin _ _ _ b (some e)
  | .fmax _ _ _ b (some e) => some (.floatBin, e, b.val)
  | .fma _ _ _ b e | .fms _ _ _ b e | .fnma _ _ _ b e => some ({ VxUse.floatBin with vc := true }, e, b.val)
  | .fabs _ _ _ (some e) | .fneg _ _ _ (some e) | .frnd _ _ _ (some e) => some (.floatUn, e, 0)
  | .frcp _ _ _ (some e) | .frsq _ _ _ (some e) | .fsqrt _ _ _ (some e) | .fexp2 _ _ _ (some e)
  | .flog2 _ _ _ (some e) | .fsin _ _ _ (some e) | .fcos _ _ _ (some e) => some (.floatFn, e, 0)
  | .feq _ _ _ b (some e) | .fne _ _ _ b (some e) | .flt _ _ _ b (some e) | .fle _ _ _ b (some e)
  | .fun _ _ _ b (some e) => some (.scalar, e, b.val)
  | .iadd _ _ _ b (some e) | .isub _ _ _ b (some e) | .imul _ _ _ b (some e) | .ishl _ _ _ b (some e)
  | .iadds _ _ _ b (some e) | .isubs _ _ _ b (some e) => some ({ VxUse.scalar with sat := true }, e, b.val)
  | .imulh _ _ _ b (some e) | .imulhu _ _ _ b (some e) | .imin _ _ _ b (some e) | .imax _ _ _ b (some e)
  | .iminu _ _ _ b (some e) | .imaxu _ _ _ b (some e) | .iand _ _ _ b (some e) | .ior _ _ _ b (some e)
  | .ixor _ _ _ b (some e) | .ishr _ _ _ b (some e) | .isra _ _ _ b (some e) => some (.scalar, e, b.val)
  | .iabs _ _ _ (some e) => some ({ VxUse.plain with sat := true }, e, 0)
  | .ieq _ _ _ b (some e) | .ine _ _ _ b (some e) | .ilt _ _ _ b (some e) | .ige _ _ _ b (some e)
  | .iltu _ _ _ b (some e) | .igeu _ _ _ b (some e) => some (.scalar, e, b.val)
  | .bfx _ _ _ e | .bfxu _ _ _ e | .bfi _ _ _ e => some ({ VxUse.plain with imm := true }, e, 0)
  | .fshl _ _ _ b (some e) | .fshr _ _ _ b (some e) => some (.scalar, e, b.val)
  | .popcv _ _ _ (some e) | .clzv _ _ _ (some e) | .brevv _ _ _ (some e) => some (.plain, e, 0)
  | .cvt _ _ _ (some e) | .dqnt _ _ _ (some e) => some (.floatUn, e, 0)
  | .qnt _ _ _ b (some e) =>
      some ({ nf := true, bs := true, imm := true, pe := false, pz := false }, e, b.val)
  | .qscale _ _ _ (some e) => some ({ VxUse.plain with nf := true, pz := false }, e, 0)
  | .vmov _ _ _ (some e) | .vcmprs _ _ _ (some e) | .vexpnd _ _ _ (some e) => some (.plain, e, 0)
  | .vsel _ _ _ b (some e) => some ({ VxUse.scalar with pz := false }, e, b.val)
  | .vbcst _ _ _ b (some e) => some ({ VxUse.scalar with imm := !e.bs }, e, b.val)
  | .vidx _ _ (some e) => some ({ VxUse.plain with imm := true }, e, 0)
  | .vperm _ _ _ _ (some e) => some (.plain, e, 0)
  | .vsldn _ _ _ b (some e) | .vslup _ _ _ b (some e) => some ({ VxUse.scalar with imm := !e.bs }, e, b.val)
  | .vradd _ _ _ (some e) | .vrmin _ _ _ (some e) | .vrmax _ _ _ (some e) =>
      some ({ VxUse.plain with pz := false }, e, 0)
  | .vrfadd _ _ _ (some e) | .vrfmin _ _ _ (some e) | .vrfmax _ _ _ (some e) =>
      some ({ VxUse.floatUn with pz := false }, e, 0)
  | .vscan _ _ _ (some e) => some (.plain, e, 0)
  | .vfscan _ _ _ (some e) => some (.floatUn, e, 0)
  | .vld _ _ _ (some e) => some ({ VxUse.plain with imm := true }, e, 0)
  | .vst _ _ _ (some e) => some ({ VxUse.plain with imm := true, pz := false }, e, 0)
  | .vgth _ _ _ _ (some e) => some ({ VxUse.plain with imm := true }, e, 0)
  | .vsct _ _ _ _ (some e) => some ({ VxUse.plain with imm := true, pz := false }, e, 0)
  | .vldl _ _ _ (some e) => some (.plain, e, 0)
  | .vstl _ _ _ (some e) => some ({ VxUse.plain with pz := false }, e, 0)
  | _ => none

/-- A rounding mode out of range (R34). -/
def VxUse.operandBad (u : VxUse) (e : VExt) : Option Nat :=
  match u.rm with
  | .unused => none
  | .rneOnly => if e.rm = 0 then none else some 1
  | .any => if e.rm.val < 5 then none else some 1

/-- A nonzero field that the instruction does not use, in the lowest word that holds one (R34, R137).
The first word's vb field is checked here only for a scalar's bits [4:3]. -/
def VxUse.mbzBad (u : VxUse) (e : VExt) (vb : Nat) : Option Nat :=
  if u.bs ∧ e.bs ∧ 8 ≤ vb then some 0
  else if (¬ u.vc ∧ e.vc ≠ 0) ∨ (u.rm = .unused ∧ e.rm ≠ 0) ∨ (¬ u.nf ∧ e.nf) ∨ (¬ u.sat ∧ e.sat)
      ∨ (¬ u.bs ∧ e.bs) ∨ (¬ u.imm ∧ e.imm ≠ 0) ∨ (¬ u.pe ∧ e.pe) ∨ (¬ u.pz ∧ e.pz)
      ∨ (¬ e.pe ∧ (e.pm ≠ 0 ∨ e.pz)) then some 1
  else none

/-- A shift immediate outside 0 to 63 (R32). -/
def shiftBad {n : Nat} (imm : BitVec n) : Option Nat :=
  if (imm.signExtend 64).toNat ≤ 63 then none else some 0

/-- A band range of 0 or of more than 4 bands, or one that runs past band 31 (R36). -/
def bandBad (band : Band) (nb : Fin 8) : Option Nat :=
  if 1 ≤ nb.val ∧ nb.val ≤ 4 ∧ band.val + nb.val ≤ 32 then none else some 0

/-- The word of an operand field out of its range, if any, among those the fields' types letIn (R24). -/
def Instr.operandBad (i : Instr) : Option Nat :=
  match i with
  | .wfe _ m => if m = 0 then some 0 else none
  | .shli _ _ _ imm | .shri _ _ _ imm | .srai _ _ _ imm => shiftBad imm
  | .shliLen1 _ _ _ imm | .shriLen1 _ _ _ imm | .sraiLen1 _ _ _ imm => shiftBad imm
  | .shliLen2 _ _ _ imm | .shriLen2 _ _ _ imm | .sraiLen2 _ _ _ imm => shiftBad imm
  | .mfsr _ _ n | .mtsr _ n _ => if srNumbers.contains n.toNat then none else some 0
  | .amo _ o dbl _ _ rt aq _ _ _ _ =>
      if (dbl ∧ (o = .fadd32 ∨ o = .faddbf16x2)) ∨ (aq ∧ ¬ rt) then some 1 else none
  | .red _ o dbl _ _ _ => if dbl ∧ (o = .fadd32 ∨ o = .faddbf16x2) then some 1 else none
  | .xcoll _ _ _ _ t _ _ _ => if t = .fp4 ∨ t = .qs4 ∨ t = .invalid then some 0 else none
  | .mchb _ b n _ | .mdrn _ _ b n _ | .mzro _ b n | .mlda _ _ b n => bandBad b n
  | .bfx _ _ _ e | .bfxu _ _ _ e | .bfi _ _ _ e =>
      let w := if e.imm.toNat % 32 = 0 then 32 else e.imm.toNat % 32
      if e.imm.toNat / 32 % 32 + w ≤ 32 then none else some 1
  | i => match vxUse i with
    | some (u, e, _) => u.operandBad e
    | none => none

/-- The lowest word with a nonzero must-be-zero field among the fields the constructor holds (R24). -/
def Instr.mbzBad (i : Instr) : Option Nat :=
  match i with
  | .amo _ _ _ _ _ rt _ _ rd _ _ => if ¬ rt ∧ rd ≠ 0 then some 0 else none
  | .vbcst _ _ a b (some e) =>
      if (e.bs ∧ a ≠ 0) ∨ (¬ e.bs ∧ b ≠ 0) then some 0 else
        (({ VxUse.scalar with imm := !e.bs } : VxUse).mbzBad e b.val)
  | .vbcst _ _ _ b none => if b ≠ 0 then some 0 else none
  | .vsldn _ _ _ b (some e) | .vslup _ _ _ b (some e) =>
      if ¬ e.bs ∧ b ≠ 0 then some 0 else
        (({ VxUse.scalar with imm := !e.bs } : VxUse).mbzBad e b.val)
  | .vsldn _ _ _ b none | .vslup _ _ _ b none => if b ≠ 0 then some 0 else none
  | .bfx _ _ _ e | .bfxu _ _ _ e | .bfi _ _ _ e =>
      if 2 ^ 10 ≤ e.imm.toNat then some 1 else
        (({ VxUse.plain with imm := true } : VxUse).mbzBad e 0)
  | i => match vxUse i with
    | some (u, e, b) => u.mbzBad e b
    | none => none

/-- The field of `w` that is `width` bits wide and starts at bit `lo`. -/
def fld (w lo width : Nat) : Nat := w / 2 ^ lo % 2 ^ width

/-- An instruction's words: `n` is LEN; a word beyond `n` is 0 here (R21). -/
structure Words where
  n : Nat
  w0 : Nat
  e1 : Nat
  e2 : Nat
deriving DecidableEq, Repr

/-- The synchronisation bits WP WN SP SN of a first word (R21). -/
def syncOf (w : Nat) : Sync :=
  ⟨fld w 31 1 == 1, fld w 30 1 == 1, fld w 29 1 == 1, fld w 28 1 == 1⟩

/-- A 6-bit register field. -/
def r6 (w lo : Nat) : Fin 64 := Fin.ofNat 64 (w / 2 ^ lo)
/-- A 5-bit register field. -/
def r5 (w lo : Nat) : Fin 32 := Fin.ofNat 32 (w / 2 ^ lo)
/-- A 4-bit register field. -/
def r4 (w lo : Nat) : Fin 16 := Fin.ofNat 16 (w / 2 ^ lo)
/-- A 3-bit register field. -/
def r3 (w lo : Nat) : Fin 8 := Fin.ofNat 8 (w / 2 ^ lo)
/-- A one-bit field. -/
def r1 (w lo : Nat) : Bool := fld w lo 1 == 1

/-- What the decoder reads: an instruction. Seven forms are named here apart, because Lean's compiler
builds no value of a constructor beyond the 244th; `Fetched.instr` gives the instruction of each. -/
inductive Fetched where
  | ins (i : Instr)
  | vnop (sy : Sync)
  | mnop (sy : Sync)
  | xnop (sy : Sync)
  | mend (sy : Sync)
  | xend (sy : Sync)
  | mche (sy : Sync)
  | xwait (sy : Sync)
deriving DecidableEq, Repr

/-- The instruction that was read. -/
noncomputable def Fetched.instr : Fetched → Instr
  | .ins i => i
  | .vnop sy => .vnop sy
  | .mnop sy => .mnop sy
  | .xnop sy => .xnop sy
  | .mend sy => .mend sy
  | .xend sy => .xend sy
  | .mche sy => .mche sy
  | .xwait sy => .xwait sy

/-- The result of the decoder: an instruction, or the ILLEGAL subcode and word of R24. -/
abbrev Decoded := Except Bad Fetched

/-- An instruction was read. -/
def yes (i : Instr) : Decoded := .ok (.ins i)

/-- Goes on only when LEN is one the instruction allows (R24). -/
def len (x : Words) (allowed : List Nat) (i : Instr) : Decoded :=
  if allowed.contains x.n then yes i else .error ⟨.lenbad, 0⟩

/-- A one-word form named apart in `Fetched`. -/
def lenF (x : Words) (f : Fetched) : Decoded :=
  if x.n = 0 then .ok f else .error ⟨.lenbad, 0⟩

/-- Goes on only when LEN is allowed and the operand field of word `k` is in range (R24). -/
def lenOpd {α : Type} (x : Words) (allowed : List Nat) (k : Nat) (o : Option α) (f : α → Instr) : Decoded :=
  if allowed.contains x.n then
    match o with
    | some a => yes (f a)
    | none => .error ⟨.operand, k⟩
  else .error ⟨.lenbad, 0⟩

/-- A reserved function value (R24). -/
def badFn : Decoded := .error ⟨.func, 0⟩

/-- A reserved major opcode (R24). -/
def badOp : Decoded := .error ⟨.opcode, 0⟩

/-- cc codes (R108). -/
def Cc.ofCode : Nat → Option Cc
  | 0 => some .eq | 1 => some .ne | 2 => some .lt | 3 => some .ge | 4 => some .ltu | 5 => some .geu
  | _ => none

/-- The code of a comparison (R108). -/
def Cc.code : Cc → Nat
  | .eq => 0 | .ne => 1 | .lt => 2 | .ge => 3 | .ltu => 4 | .geu => 5

/-- Scope codes (R33, R262). -/
def Scope.ofCode : Nat → Option Scope
  | 0 => some .core | 1 => some .cluster | 2 => some .die | 3 => some .device | 4 => some .system
  | _ => none

/-- The code of a scope (R262). -/
def Scope.code : Scope → Nat
  | .core => 0 | .cluster => 1 | .die => 2 | .device => 3 | .system => 4

/-- Hint codes (R221). -/
def Hint.ofCode : Nat → Hint
  | 0 => .default | 1 => .streaming | 2 => .sticky | _ => .bypass

/-- The code of a hint (R221). -/
def Hint.code : Hint → Nat
  | .default => 0 | .streaming => 1 | .sticky => 2 | .bypass => 3

/-- Size codes (R235). -/
def Size.ofCode : Nat → Size
  | 0 => .b | 1 => .h | 2 => .w | _ => .d

/-- The code of a size (R235). -/
def Size.code : Size → Nat
  | .b => 0 | .h => 1 | .w => 2 | .d => 3

/-- Engine codes 1 to 4 (R33). -/
def Engine.ofCode : Nat → Option Engine
  | 1 => some .ld | 2 => some .mx | 3 => some .vx | 4 => some .st
  | _ => none

/-- The code of an engine (R33). -/
def Engine.code : Engine → Nat
  | .ld => 1 | .mx => 2 | .vx => 3 | .st => 4

/-- The engine field of `EWAIT`: 0 is all four (R33). -/
def ewaitOf : Nat → Option (Option Engine)
  | 0 => some none
  | k => (Engine.ofCode k).map some

/-- The engine field of `EWAIT` (R33). -/
def ewaitCode : Option Engine → Nat
  | none => 0
  | some e => e.code

/-- The engine field of `PQPUSH` (R33). -/
def PQ.ofCode : Nat → Option PQ
  | 1 => some .ld | 3 => some .vx | 4 => some .st
  | _ => none

/-- The engine field of `PQPUSH` (R33). -/
def PQ.code : PQ → Nat
  | .ld => 1 | .vx => 3 | .st => 4

/-- Rights codes (R230). -/
def Rights.ofCode : Nat → Option Rights
  | 0 => some .r | 1 => some .w | 2 => some .rw
  | _ => none

/-- The code of a right (R230). -/
def Rights.code : Rights → Nat
  | .r => 0 | .w => 1 | .rw => 2

/-- `AMO` operations (R280). -/
def AmoOp.ofCode : Nat → Option AmoOp
  | 0 => some .add | 1 => some .and | 2 => some .or | 3 => some .xor | 4 => some .min | 5 => some .max
  | 6 => some .minu | 7 => some .maxu | 8 => some .swap | 9 => some .fadd32 | 10 => some .faddbf16x2
  | _ => none

/-- The code of an `AMO` operation (R280). -/
def AmoOp.code : AmoOp → Nat
  | .add => 0 | .and => 1 | .or => 2 | .xor => 3 | .min => 4 | .max => 5
  | .minu => 6 | .maxu => 7 | .swap => 8 | .fadd32 => 9 | .faddbf16x2 => 10

/-- `RED` operations (R282). -/
def RedOp.ofCode : Nat → Option RedOp
  | 0 => some .add | 1 => some .fadd32 | 2 => some .faddbf16x2 | 3 => some .min | 4 => some .max
  | 5 => some .and | 6 => some .or | 7 => some .xor
  | _ => none

/-- The code of a `RED` operation (R282). -/
def RedOp.code : RedOp → Nat
  | .add => 0 | .fadd32 => 1 | .faddbf16x2 => 2 | .min => 3 | .max => 4 | .and => 5 | .or => 6 | .xor => 7

/-- Reduce codes of copies and exchanges (R247). -/
def RedCopy.ofCode : Nat → Option RedCopy
  | 0 => .some .none | 1 => some .addInt | 2 => some .addFp32 | 3 => some .addBf16 | 4 => some .min
  | 5 => some .max
  | _ => Option.none

/-- The code of a reduce operation (R247). -/
def RedCopy.code : RedCopy → Nat
  | .none => 0 | .addInt => 1 | .addFp32 => 2 | .addBf16 => 3 | .min => 4 | .max => 5

/-- Collective branch operations (R33). -/
def CbrOp.ofCode : Nat → Option CbrOp
  | 0 => some .any | 1 => some .all | 2 => some .maj
  | _ => none

/-- The code of a collective branch operation (R33). -/
def CbrOp.code : CbrOp → Nat
  | .any => 0 | .all => 1 | .maj => 2

/-- Element types of `XCOLL`: 6, 13 and 15 are out of range (R33). -/
def collTy (n : Nat) : Option ElemTy :=
  let t := ElemTy.ofCode n
  if t = .fp4 ∨ t = .qs4 ∨ t = .invalid then none else some t

/-- The VX extension word (R34). -/
def VExt.ofNat (e : Nat) : VExt :=
  { pm := r4 e 24, pe := r1 e 23, pz := r1 e 22, vc := r5 e 17, rm := r3 e 14
    nf := r1 e 13, sat := r1 e 12, bs := r1 e 11, imm := BitVec.ofNat 11 e }

/-- The VX extension word, if LEN is 1 (R34). -/
def vext (x : Words) : Option VExt := if x.n = 1 then some (VExt.ofNat x.e1) else none

/-- SYS (OP 0x00): R33. -/
def decSys (x : Words) : Decoded :=
  let sy := syncOf x.w0
  match fld x.w0 14 6 with
  | 0 => len x [0] (.nop sy)
  | 1 => len x [0] (.done sy)
  | 2 => len x [0] (.yield sy)
  | 3 => len x [0] (.trap sy (BitVec.ofNat 12 x.w0))
  | 4 => len x [0] (.eret sy)
  | 5 => len x [0] (.brk sy)
  | 6 => len x [0] (.wfe sy (BitVec.ofNat 6 x.w0))
  | 7 => len x [0] (.evclr sy (BitVec.ofNat 6 x.w0))
  | 8 => len x [0] (.ret sy)
  | _ => badFn

/-- The CR forms (OP 0x02 to 0x07): R31, R32. -/
def decAlu (x : Words) (op : Nat) : Decoded :=
  let sy := syncOf x.w0
  let rd := r6 x.w0 14
  let ra := r6 x.w0 8
  let rb := r6 x.w0 2
  match op, fld x.w0 0 2 with
  | 2, 0 => len x [0] (.add sy rd ra rb)
  | 2, 1 => len x [0] (.sub sy rd ra rb)
  | 2, 2 => len x [0] (.and sy rd ra rb)
  | 2, 3 => len x [0] (.or sy rd ra rb)
  | 3, 0 => len x [0] (.xor sy rd ra rb)
  | 3, 1 => len x [0] (.shl sy rd ra rb)
  | 3, 2 => len x [0] (.shr sy rd ra rb)
  | 3, 3 => len x [0] (.sra sy rd ra rb)
  | 4, 0 => len x [0] (.mul sy rd ra rb)
  | 4, 1 => len x [0] (.mulh sy rd ra rb)
  | 4, 2 => len x [0] (.mulhu sy rd ra rb)
  | 5, 0 => len x [0] (.div sy rd ra rb)
  | 5, 1 => len x [0] (.divu sy rd ra rb)
  | 5, 2 => len x [0] (.rem sy rd ra rb)
  | 5, 3 => len x [0] (.remu sy rd ra rb)
  | 6, 0 => len x [0] (.min sy rd ra rb)
  | 6, 1 => len x [0] (.max sy rd ra rb)
  | 6, 2 => len x [0] (.minu sy rd ra rb)
  | 6, 3 => len x [0] (.maxu sy rd ra rb)
  | 7, 0 => len x [0] (.mov sy rd ra)
  | 7, 1 => len x [0] (.popc sy rd ra)
  | 7, 2 => len x [0] (.clz sy rd ra)
  | 7, 3 => len x [0] (.ctz sy rd ra)
  | _, _ => badFn

/-- The CI forms (OP 0x08 to 0x10): R31, R32. -/
def decImm (x : Words) (op : Nat) : Decoded :=
  let sy := syncOf x.w0
  let rd := r6 x.w0 14
  let ra := r6 x.w0 8
  let i8 := BitVec.ofNat 8 x.w0
  let i36 := BitVec.ofNat 36 (fld x.e1 0 28 * 2 ^ 8 + fld x.w0 0 8)
  let i64 := BitVec.ofNat 64 (fld x.e2 0 28 * 2 ^ 36 + fld x.e1 0 28 * 2 ^ 8 + fld x.w0 0 8)
  match op, x.n with
  | 8, 0 => yes (.addi sy rd ra i8)
  | 8, 1 => yes (.addiLen1 sy rd ra i36)
  | 8, 2 => yes (.addiLen2 sy rd ra i64)
  | 9, 0 => yes (.andi sy rd ra i8)
  | 9, 1 => yes (.andiLen1 sy rd ra i36)
  | 9, 2 => yes (.andiLen2 sy rd ra i64)
  | 10, 0 => yes (.ori sy rd ra i8)
  | 10, 1 => yes (.oriLen1 sy rd ra i36)
  | 10, 2 => yes (.oriLen2 sy rd ra i64)
  | 11, 0 => yes (.xori sy rd ra i8)
  | 11, 1 => yes (.xoriLen1 sy rd ra i36)
  | 11, 2 => yes (.xoriLen2 sy rd ra i64)
  | 12, 0 => yes (.shli sy rd ra i8)
  | 12, 1 => yes (.shliLen1 sy rd ra i36)
  | 12, 2 => yes (.shliLen2 sy rd ra i64)
  | 13, 0 => yes (.shri sy rd ra i8)
  | 13, 1 => yes (.shriLen1 sy rd ra i36)
  | 13, 2 => yes (.shriLen2 sy rd ra i64)
  | 14, 0 => yes (.srai sy rd ra i8)
  | 14, 1 => yes (.sraiLen1 sy rd ra i36)
  | 14, 2 => yes (.sraiLen2 sy rd ra i64)
  | 15, 0 => yes (.li sy rd i8)
  | 15, 1 => yes (.liLen1 sy rd i36)
  | 15, 2 => yes (.liLen2 sy rd i64)
  | 16, 0 => yes (.muli sy rd ra i8)
  | 16, 1 => yes (.muliLen1 sy rd ra i36)
  | 16, 2 => yes (.muliLen2 sy rd ra i64)
  | _, _ => .error ⟨.lenbad, 0⟩

/-- `PLOG` (OP 0x13): R33. -/
def decPlog (x : Words) : Decoded :=
  let sy := syncOf x.w0
  let pd := r4 x.w0 16
  let pa := r4 x.w0 12
  let pb := r4 x.w0 8
  match fld x.w0 0 8 with
  | 0 => len x [0] (.pand sy pd pa pb)
  | 1 => len x [0] (.por sy pd pa pb)
  | 2 => len x [0] (.pxor sy pd pa pb)
  | 3 => len x [0] (.pandn sy pd pa pb)
  | 4 => len x [0] (.pnot sy pd pa)
  | 5 => len x [0] (.pset sy pd)
  | 6 => len x [0] (.pclr sy pd)
  | 7 => len x [0] (.pmov sy pd pa)
  | _ => badFn

/-- The CB forms (OP 0x15 to 0x19): R31, R32. -/
def decBranch (x : Words) (op : Nat) : Decoded :=
  let sy := syncOf x.w0
  let p := r4 x.w0 16
  let s := r1 x.w0 15
  let d := BitVec.ofNat 15 x.w0
  let dl := BitVec.ofNat 43 (fld x.e1 0 28 * 2 ^ 15 + fld x.w0 0 15)
  match op, x.n with
  | 21, 0 => yes (.br sy d)
  | 21, 1 => yes (.brLen1 sy dl)
  | 22, 0 => yes (.bp sy p s d)
  | 22, 1 => yes (.bpLen1 sy p s dl)
  | 23, 0 => yes (.bany sy p s d)
  | 23, 1 => yes (.banyLen1 sy p s dl)
  | 24, 0 => yes (.ball sy p s d)
  | 24, 1 => yes (.ballLen1 sy p s dl)
  | 25, 0 => yes (.call sy d)
  | 25, 1 => yes (.callLen1 sy dl)
  | _, _ => .error ⟨.lenbad, 0⟩

/-- The CM forms (OP 0x1C to 0x1F): R31, R32. -/
def decMem (x : Words) (op : Nat) : Decoded :=
  let sy := syncOf x.w0
  let rd := r6 x.w0 14
  let ra := r6 x.w0 8
  let c := r4 x.w0 4
  let h := Hint.ofCode (fld x.w0 2 2)
  let z := Size.ofCode (fld x.w0 0 2)
  let o := BitVec.ofNat 28 x.e1
  match op, x.n with
  | 28, 0 => yes (.ld sy rd ra c h z)
  | 28, 1 => yes (.ldLen1 sy rd ra c h z o)
  | 29, 0 => yes (.lds sy rd ra c h z)
  | 29, 1 => yes (.ldsLen1 sy rd ra c h z o)
  | 30, 0 => yes (.ldro sy rd ra c h z)
  | 30, 1 => yes (.ldroLen1 sy rd ra c h z o)
  | 31, 0 => yes (.st sy rd ra c h z)
  | 31, 1 => yes (.stLen1 sy rd ra c h z o)
  | _, _ => .error ⟨.lenbad, 0⟩

/-- `AMO`, `CAS` and `RED` (OP 0x2D, 0x2E, 0x38): R33, R280 to R282. A size of 0 or 1 is out of
range, and the function value of `AMO` and `RED` stands in E1. -/
def decAtomic (x : Words) (op : Nat) : Decoded :=
  let sy := syncOf x.w0
  let rd := r6 x.w0 14
  let ra := r6 x.w0 8
  let rb := r6 x.w0 2
  let c := r4 x.e1 18
  let sz : Option Bool := match fld x.e1 22 2 with | 2 => some false | 3 => some true | _ => none
  let sc := Scope.ofCode (fld x.e1 15 3)
  let both : Option (Bool × Scope) := match sz, sc with | some z, some s => some (z, s) | _, _ => none
  if op = 45 then
    match AmoOp.ofCode (fld x.e1 24 4) with
    | none => badFn
    | some o => lenOpd x [1] 1 both fun q => .amo sy o q.1 c q.2 (r1 x.e1 14) (r1 x.e1 13) (r1 x.e1 12) rd ra rb
  else if op = 46 then
    lenOpd x [1] 1 both fun q => .cas sy q.1 c q.2 (r1 x.e1 13) (r1 x.e1 12) rd ra rb
  else
    match RedOp.ofCode (fld x.e1 24 4) with
    | none => badFn
    | some o => lenOpd x [1] 1 sz fun z => .red sy o z c ra rb

/-- `CBR` (OP 0x2F): R33. -/
def decCbr (x : Words) : Decoded :=
  let sy := syncOf x.w0
  match CbrOp.ofCode (fld x.w0 14 2) with
  | none => badFn
  | some o =>
    if x.n = 1 then
      yes (.cbrLen1 sy o (r1 x.w0 13) (r4 x.w0 16) (BitVec.ofNat 41 (fld x.e1 0 28 * 2 ^ 13 + fld x.w0 0 13)))
    else len x [0] (.cbr sy o (r1 x.w0 13) (r4 x.w0 16) (BitVec.ofNat 13 x.w0))

/-- `XCOLL` (OP 0x31): R33, R308. -/
def decXcoll (x : Words) : Decoded :=
  let q : Option (RedCopy × ElemTy) :=
    match RedCopy.ofCode (fld x.w0 4 4), collTy (fld x.w0 0 4) with
    | some r, some t => some (r, t)
    | _, _ => none
  lenOpd x [2] 0 q fun q =>
    .xcoll (syncOf x.w0) (r6 x.w0 8) (r6 x.w0 14) q.1 q.2 (r6 x.e1 22) (BitVec.ofNat 22 x.e1) (BitVec.ofNat 22 x.e2)

/-- The other "own" forms of OP 0x14 to 0x2C: R33. -/
def decOwn (x : Words) (op : Nat) : Decoded :=
  let sy := syncOf x.w0
  let a := r6 x.w0 14
  let b := r6 x.w0 8
  match op with
  | 20 => len x [0] (.pcnt sy a (r4 x.w0 10))
  | 26 => len x [0] (.bri sy b)
  | 27 => len x [0] (.calli sy b)
  | 32 => len x [0] (.mfsr sy a (BitVec.ofNat 12 x.w0))
  | 33 => len x [0] (.mtsr sy (BitVec.ofNat 12 x.w0) a)
  | 34 => lenOpd x [0] 0 (Engine.ofCode (fld x.w0 17 3)) fun e => .ego sy e b
  | 35 => lenOpd x [0] 0 (ewaitOf (fld x.w0 17 3)) fun e => .ewait sy e
  | 36 => lenOpd x [0] 0 (Engine.ofCode (fld x.w0 17 3)) fun e => .estat sy b e
  | 37 => len x [0] (.fqpush sy b)
  | 38 => lenOpd x [0] 0 (PQ.ofCode (fld x.w0 17 3)) fun q => .pqpush sy q b
  | 39 => lenOpd x [0] 0 (Rights.ofCode (fld x.w0 0 2)) fun q => .tmap sy a b (r6 x.w0 2) q
  | 40 => len x [0] (.tunmap sy a)
  | 41 => len x [0] (.tquery sy b a)
  | 43 => len x [0] (.bwait sy a (r1 x.w0 0))
  | 44 => len x [0] (.btest sy (r4 x.w0 10) a (r1 x.w0 0))
  | _ => badOp

/-- The forms with a small function field: `BAR`, CGRP, RATIO, AMB, VFY, CACHE and SLOT (R33). -/
def decFn (x : Words) (op : Nat) : Decoded :=
  let sy := syncOf x.w0
  let a := r6 x.w0 14
  let b := r6 x.w0 8
  let c := r6 x.w0 2
  let sl := r3 x.w0 17
  match op with
  | 42 =>
    match fld x.w0 0 2 with
    | 0 => len x [0] (.binit sy a)
    | 1 => len x [0] (.bexp sy a b)
    | 2 => len x [0] (.barr sy a b)
    | _ => badFn
  | 48 =>
    match fld x.w0 0 2 with
    | 0 => len x [0] (.cleave sy)
    | 1 => len x [0] (.cquery sy a)
    | _ => badFn
  | 51 =>
    match fld x.w0 0 2 with
    | 0 => len x [0] (.getratio sy a)
    | 1 => len x [0] (.rlock sy)
    | 2 => len x [0] (.runlock sy)
    | _ => badFn
  | 52 =>
    match fld x.w0 0 2 with
    | 0 => len x [0] (.amalloc sy a b)
    | 1 =>
      let d : Option Bool := match fld x.w0 14 6 with | 0 => some false | 1 => some true | _ => none
      lenOpd x [0] 0 d fun d => if d then .amfreeDiscard sy b else .amfree sy b
    | 2 => len x [0] (.amgrant sy a b c)
    | _ => len x [0] (.amquery sy a b)
  | 53 =>
    match fld x.w0 0 2 with
    | 0 => len x [0] (.vwait sy a)
    | 1 => len x [0] (.vsig sy a)
    | 2 => len x [0] (.vstat sy a)
    | _ => badFn
  | 54 =>
    match fld x.w0 17 3 with
    | 0 => len x [0] (.pref sy b c (Hint.ofCode (fld x.w0 0 2)))
    | 1 => len x [0] (.wbr sy b c)
    | 2 => len x [0] (.invr sy b c)
    | 3 => len x [0] (.rinv sy b c)
    | 4 => len x [0] (.icinv sy b c)
    | _ => badFn
  | 55 =>
    match fld x.w0 0 2 with
    | 0 => len x [0] (.slres sy (r6 x.w0 11) sl)
    | 1 => len x [0] (.slpost sy sl)
    | 2 => len x [0] (.slacq sy (r6 x.w0 11) sl)
    | _ => len x [0] (.slrel sy sl)
  | _ => badOp

/-- The control stream's map (R32). -/
def candC (x : Words) : Decoded :=
  let op := fld x.w0 20 6
  if op = 0 then decSys x
  else if op = 1 then
    lenOpd x [0] 0 (Scope.ofCode (fld x.w0 1 3)) fun s =>
      .fence (syncOf x.w0) (BitVec.ofNat 16 (x.w0 / 2 ^ 4)) s (r1 x.w0 0)
  else if op ≤ 7 then decAlu x op
  else if op ≤ 16 then decImm x op
  else if op = 17 then
    lenOpd x [0] 0 (Cc.ofCode (fld x.w0 12 4)) fun c => .cmp (syncOf x.w0) (r4 x.w0 16) c (r6 x.w0 6) (r6 x.w0 0)
  else if op = 18 then
    lenOpd x [0, 1] 0 (Cc.ofCode (fld x.w0 12 4)) fun c =>
      if x.n = 0 then .cmpi (syncOf x.w0) (r4 x.w0 16) c (r6 x.w0 6) (BitVec.ofNat 6 x.w0)
      else .cmpiLen1 (syncOf x.w0) (r4 x.w0 16) c (r6 x.w0 6) (BitVec.ofNat 34 (fld x.e1 0 28 * 2 ^ 6 + fld x.w0 0 6))
  else if op = 19 then decPlog x
  else if 21 ≤ op ∧ op ≤ 25 then decBranch x op
  else if 28 ≤ op ∧ op ≤ 31 then decMem x op
  else if op = 45 ∨ op = 46 ∨ op = 56 then decAtomic x op
  else if op = 47 then decCbr x
  else if op = 49 then decXcoll x
  else if op = 50 then len x [0] (.gsig (syncOf x.w0) (r6 x.w0 8))
  else if op = 42 ∨ op = 48 ∨ (51 ≤ op ∧ op ≤ 55) then decFn x op
  else decOwn x op

/-- VSYS (OP 0x00): R35, R142. -/
def decVsys (x : Words) : Decoded :=
  let sy := syncOf x.w0
  match fld x.w0 0 5 with
  | 0 => lenF x (.vnop sy)
  | 1 => len x [0] (.vend sy)
  | 2 => len x [0] (.vpq sy (r3 x.w0 15))
  | 3 => len x [0] (.vsetvl sy (r3 x.w0 15) (r3 x.w0 10))
  | 4 => len x [0] (.vflgr sy (r5 x.w0 15))
  | 5 => len x [0] (.vflgc sy)
  | 6 => len x [0] (.vview sy (r5 x.w0 15) (r3 x.w0 10))
  | 7 => len x [0] (.vgetv sy (r3 x.w0 15) (r5 x.w0 10))
  | _ => badFn

/-- Floating-point arithmetic (R143). -/
def decV1 (x : Words) : Decoded :=
  let sy := syncOf x.w0
  let e := vext x
  match fld x.w0 0 5 with
  | 0 => len x [0, 1] (.fadd sy (r5 x.w0 15) (r5 x.w0 10) (r5 x.w0 5) e)
  | 1 => len x [0, 1] (.fsub sy (r5 x.w0 15) (r5 x.w0 10) (r5 x.w0 5) e)
  | 2 => len x [0, 1] (.fmul sy (r5 x.w0 15) (r5 x.w0 10) (r5 x.w0 5) e)
  | 3 => len x [0, 1] (.fmin sy (r5 x.w0 15) (r5 x.w0 10) (r5 x.w0 5) e)
  | 4 => len x [0, 1] (.fmax sy (r5 x.w0 15) (r5 x.w0 10) (r5 x.w0 5) e)
  | 5 => len x [1] (.fma sy (r5 x.w0 15) (r5 x.w0 10) (r5 x.w0 5) (VExt.ofNat x.e1))
  | 6 => len x [1] (.fms sy (r5 x.w0 15) (r5 x.w0 10) (r5 x.w0 5) (VExt.ofNat x.e1))
  | 7 => len x [1] (.fnma sy (r5 x.w0 15) (r5 x.w0 10) (r5 x.w0 5) (VExt.ofNat x.e1))
  | _ => badFn

/-- Floating-point unary forms (R144). -/
def decV2 (x : Words) : Decoded :=
  let sy := syncOf x.w0
  let e := vext x
  match fld x.w0 0 5 with
  | 0 => len x [0, 1] (.fabs sy (r5 x.w0 15) (r5 x.w0 10) e)
  | 1 => len x [0, 1] (.fneg sy (r5 x.w0 15) (r5 x.w0 10) e)
  | 2 => len x [0, 1] (.frcp sy (r5 x.w0 15) (r5 x.w0 10) e)
  | 3 => len x [0, 1] (.frsq sy (r5 x.w0 15) (r5 x.w0 10) e)
  | 4 => len x [0, 1] (.fsqrt sy (r5 x.w0 15) (r5 x.w0 10) e)
  | 5 => len x [0, 1] (.fexp2 sy (r5 x.w0 15) (r5 x.w0 10) e)
  | 6 => len x [0, 1] (.flog2 sy (r5 x.w0 15) (r5 x.w0 10) e)
  | 7 => len x [0, 1] (.fsin sy (r5 x.w0 15) (r5 x.w0 10) e)
  | 8 => len x [0, 1] (.fcos sy (r5 x.w0 15) (r5 x.w0 10) e)
  | 9 => len x [0, 1] (.frnd sy (r5 x.w0 15) (r5 x.w0 10) e)
  | _ => badFn

/-- Floating-point compares (R145). -/
def decV3 (x : Words) : Decoded :=
  let sy := syncOf x.w0
  let e := vext x
  match fld x.w0 0 5 with
  | 0 => len x [0, 1] (.feq sy (r4 x.w0 15) (r5 x.w0 10) (r5 x.w0 5) e)
  | 1 => len x [0, 1] (.fne sy (r4 x.w0 15) (r5 x.w0 10) (r5 x.w0 5) e)
  | 2 => len x [0, 1] (.flt sy (r4 x.w0 15) (r5 x.w0 10) (r5 x.w0 5) e)
  | 3 => len x [0, 1] (.fle sy (r4 x.w0 15) (r5 x.w0 10) (r5 x.w0 5) e)
  | 4 => len x [0, 1] (.fun sy (r4 x.w0 15) (r5 x.w0 10) (r5 x.w0 5) e)
  | _ => badFn

/-- Integer arithmetic (R146). -/
def decV4 (x : Words) : Decoded :=
  let sy := syncOf x.w0
  let e := vext x
  match fld x.w0 0 5 with
  | 0 => len x [0, 1] (.iadd sy (r5 x.w0 15) (r5 x.w0 10) (r5 x.w0 5) e)
  | 1 => len x [0, 1] (.isub sy (r5 x.w0 15) (r5 x.w0 10) (r5 x.w0 5) e)
  | 2 => len x [0, 1] (.imul sy (r5 x.w0 15) (r5 x.w0 10) (r5 x.w0 5) e)
  | 3 => len x [0, 1] (.imulh sy (r5 x.w0 15) (r5 x.w0 10) (r5 x.w0 5) e)
  | 4 => len x [0, 1] (.imulhu sy (r5 x.w0 15) (r5 x.w0 10) (r5 x.w0 5) e)
  | 5 => len x [0, 1] (.imin sy (r5 x.w0 15) (r5 x.w0 10) (r5 x.w0 5) e)
  | 6 => len x [0, 1] (.imax sy (r5 x.w0 15) (r5 x.w0 10) (r5 x.w0 5) e)
  | 7 => len x [0, 1] (.iminu sy (r5 x.w0 15) (r5 x.w0 10) (r5 x.w0 5) e)
  | 8 => len x [0, 1] (.imaxu sy (r5 x.w0 15) (r5 x.w0 10) (r5 x.w0 5) e)
  | 9 => len x [0, 1] (.iand sy (r5 x.w0 15) (r5 x.w0 10) (r5 x.w0 5) e)
  | 10 => len x [0, 1] (.ior sy (r5 x.w0 15) (r5 x.w0 10) (r5 x.w0 5) e)
  | 11 => len x [0, 1] (.ixor sy (r5 x.w0 15) (r5 x.w0 10) (r5 x.w0 5) e)
  | 12 => len x [0, 1] (.ishl sy (r5 x.w0 15) (r5 x.w0 10) (r5 x.w0 5) e)
  | 13 => len x [0, 1] (.ishr sy (r5 x.w0 15) (r5 x.w0 10) (r5 x.w0 5) e)
  | 14 => len x [0, 1] (.isra sy (r5 x.w0 15) (r5 x.w0 10) (r5 x.w0 5) e)
  | 15 => len x [0, 1] (.iadds sy (r5 x.w0 15) (r5 x.w0 10) (r5 x.w0 5) e)
  | 16 => len x [0, 1] (.isubs sy (r5 x.w0 15) (r5 x.w0 10) (r5 x.w0 5) e)
  | 17 => len x [0, 1] (.iabs sy (r5 x.w0 15) (r5 x.w0 10) e)
  | _ => badFn

/-- Integer compares (R147). -/
def decV5 (x : Words) : Decoded :=
  let sy := syncOf x.w0
  let e := vext x
  match fld x.w0 0 5 with
  | 0 => len x [0, 1] (.ieq sy (r4 x.w0 15) (r5 x.w0 10) (r5 x.w0 5) e)
  | 1 => len x [0, 1] (.ine sy (r4 x.w0 15) (r5 x.w0 10) (r5 x.w0 5) e)
  | 2 => len x [0, 1] (.ilt sy (r4 x.w0 15) (r5 x.w0 10) (r5 x.w0 5) e)
  | 3 => len x [0, 1] (.ige sy (r4 x.w0 15) (r5 x.w0 10) (r5 x.w0 5) e)
  | 4 => len x [0, 1] (.iltu sy (r4 x.w0 15) (r5 x.w0 10) (r5 x.w0 5) e)
  | 5 => len x [0, 1] (.igeu sy (r4 x.w0 15) (r5 x.w0 10) (r5 x.w0 5) e)
  | _ => badFn

/-- Bit fields and counts (R148). -/
def decV6 (x : Words) : Decoded :=
  let sy := syncOf x.w0
  let e := vext x
  match fld x.w0 0 5 with
  | 0 => len x [1] (.bfx sy (r5 x.w0 15) (r5 x.w0 10) (VExt.ofNat x.e1))
  | 1 => len x [1] (.bfxu sy (r5 x.w0 15) (r5 x.w0 10) (VExt.ofNat x.e1))
  | 2 => len x [1] (.bfi sy (r5 x.w0 15) (r5 x.w0 10) (VExt.ofNat x.e1))
  | 3 => len x [0, 1] (.fshl sy (r5 x.w0 15) (r5 x.w0 10) (r5 x.w0 5) e)
  | 4 => len x [0, 1] (.fshr sy (r5 x.w0 15) (r5 x.w0 10) (r5 x.w0 5) e)
  | 5 => len x [0, 1] (.popcv sy (r5 x.w0 15) (r5 x.w0 10) e)
  | 6 => len x [0, 1] (.clzv sy (r5 x.w0 15) (r5 x.w0 10) e)
  | 7 => len x [0, 1] (.brevv sy (r5 x.w0 15) (r5 x.w0 10) e)
  | _ => badFn

/-- Conversions and quantisation (R149 to R152). -/
def decV7 (x : Words) : Decoded :=
  let sy := syncOf x.w0
  let e := vext x
  match fld x.w0 0 5 with
  | 0 => len x [0, 1] (.cvt sy (r5 x.w0 15) (r5 x.w0 10) e)
  | 1 => len x [0, 1] (.qnt sy (r5 x.w0 15) (r5 x.w0 10) (r5 x.w0 5) e)
  | 2 => len x [0, 1] (.dqnt sy (r5 x.w0 15) (r5 x.w0 10) e)
  | 3 => len x [0, 1] (.qscale sy (r5 x.w0 15) (r5 x.w0 10) e)
  | _ => badFn

/-- Moves and permutations (R153). -/
def decV8 (x : Words) : Decoded :=
  let sy := syncOf x.w0
  let e := vext x
  match fld x.w0 0 5 with
  | 0 => len x [0, 1] (.vmov sy (r5 x.w0 15) (r5 x.w0 10) e)
  | 1 => len x [0, 1] (.vsel sy (r5 x.w0 15) (r5 x.w0 10) (r5 x.w0 5) e)
  | 2 => len x [0, 1] (.vbcst sy (r5 x.w0 15) (r5 x.w0 10) (r5 x.w0 5) e)
  | 3 => len x [0, 1] (.vidx sy (r5 x.w0 15) e)
  | 4 => len x [0, 1] (.vperm sy (r5 x.w0 15) (r5 x.w0 10) (r5 x.w0 5) e)
  | 5 => len x [0, 1] (.vcmprs sy (r5 x.w0 15) (r5 x.w0 10) e)
  | 6 => len x [0, 1] (.vexpnd sy (r5 x.w0 15) (r5 x.w0 10) e)
  | 7 => len x [0, 1] (.vsldn sy (r5 x.w0 15) (r5 x.w0 10) (r5 x.w0 5) e)
  | 8 => len x [0, 1] (.vslup sy (r5 x.w0 15) (r5 x.w0 10) (r5 x.w0 5) e)
  | _ => badFn

/-- Reductions and scans (R154). -/
def decV9 (x : Words) : Decoded :=
  let sy := syncOf x.w0
  let e := vext x
  match fld x.w0 0 5 with
  | 0 => len x [0, 1] (.vradd sy (r5 x.w0 15) (r5 x.w0 10) e)
  | 1 => len x [0, 1] (.vrfadd sy (r5 x.w0 15) (r5 x.w0 10) e)
  | 2 => len x [0, 1] (.vrmin sy (r5 x.w0 15) (r5 x.w0 10) e)
  | 3 => len x [0, 1] (.vrmax sy (r5 x.w0 15) (r5 x.w0 10) e)
  | 4 => len x [0, 1] (.vrfmin sy (r5 x.w0 15) (r5 x.w0 10) e)
  | 5 => len x [0, 1] (.vrfmax sy (r5 x.w0 15) (r5 x.w0 10) e)
  | 6 => len x [0, 1] (.vscan sy (r5 x.w0 15) (r5 x.w0 10) e)
  | 7 => len x [0, 1] (.vfscan sy (r5 x.w0 15) (r5 x.w0 10) e)
  | _ => badFn

/-- Scratchpad memory forms (R156, R158). -/
def decV10 (x : Words) : Decoded :=
  let sy := syncOf x.w0
  let e := vext x
  match fld x.w0 0 5 with
  | 0 => len x [0, 1] (.vld sy (r5 x.w0 15) (r3 x.w0 10) e)
  | 1 => len x [0, 1] (.vst sy (r5 x.w0 15) (r3 x.w0 10) e)
  | 2 => len x [0, 1] (.vgth sy (r5 x.w0 15) (r3 x.w0 10) (r5 x.w0 5) e)
  | 3 => len x [0, 1] (.vsct sy (r5 x.w0 15) (r3 x.w0 10) (r5 x.w0 5) e)
  | 4 => len x [0, 1] (.vldl sy (r5 x.w0 15) (r5 x.w0 5) e)
  | 5 => len x [0, 1] (.vstl sy (r5 x.w0 15) (r5 x.w0 5) e)
  | _ => badFn

/-- The vector stream's map (R35). -/
def candV (x : Words) : Decoded :=
  match fld x.w0 20 6 with
  | 0 => decVsys x
  | 1 => decV1 x
  | 2 => decV2 x
  | 3 => decV3 x
  | 4 => decV4 x
  | 5 => decV5 x
  | 6 => decV6 x
  | 7 => decV7 x
  | 8 => decV8 x
  | 9 => decV9 x
  | 10 => decV10 x
  | _ => badOp

/-- The matrix stream's map (R36). -/
def candM (x : Words) : Decoded :=
  let sy := syncOf x.w0
  match fld x.w0 20 6 with
  | 0 =>
    match fld x.w0 0 8 with
    | 0 => lenF x (.mnop sy)
    | 1 => lenF x (.mend sy)
    | _ => badFn
  | 1 => len x [0] (.mchb sy (r5 x.w0 15) (r3 x.w0 12) (r6 x.w0 6))
  | 2 => len x [0] (.mma sy (r5 x.w0 15) (r5 x.w0 10) (r1 x.w0 9) (r1 x.w0 8) (r1 x.w0 7))
  | 3 => len x [1] (.mmag sy (r5 x.w0 15) (r5 x.w0 10) (r5 x.e1 23))
  | 4 =>
    match fld x.w0 7 3 with
    | 0 => len x [0] (.mtrn sy (r5 x.w0 15))
    | 1 => len x [0] (.mperm sy (r5 x.w0 15) (r5 x.w0 10))
    | 2 => len x [0] (.mrsum sy (r5 x.w0 15))
    | 3 => len x [0] (.mcsum sy (r5 x.w0 15))
    | _ => badFn
  | 5 => lenF x (.mche sy)
  | 6 => len x [0] (.mdrn sy (r5 x.w0 15) (r5 x.w0 10) (r3 x.w0 7) (r1 x.w0 6))
  | 7 => len x [0] (.mzro sy (r5 x.w0 15) (r3 x.w0 12))
  | 8 => len x [0] (.mlda sy (r5 x.w0 15) (r5 x.w0 10) (r3 x.w0 7))
  | _ => badOp

/-- The copy streams' map (R37). -/
def candX (x : Words) : Decoded :=
  let sy := syncOf x.w0
  let hd := r6 x.w0 14
  let hs := r6 x.w0 8
  let od := r4 x.w0 4
  let os := r4 x.w0 0
  match fld x.w0 20 6 with
  | 0 =>
    match fld x.w0 0 8 with
    | 0 => lenF x (.xnop sy)
    | 1 => lenF x (.xend sy)
    | 2 => lenF x (.xwait sy)
    | 3 => len x [0] (.xpq sy (r4 x.w0 16))
    | _ => badFn
  | 1 => len x [0] (.xshp sy (r3 x.w0 17))
  | 2 => lenOpd x [1] 1 (RedCopy.ofCode (fld x.e1 15 4)) fun r =>
      .xcpy sy hd od hs os (r6 x.e1 22) (r3 x.e1 19) r (r4 x.e1 11) (Hint.ofCode (fld x.e1 9 2)) (r1 x.e1 8) (r1 x.e1 7)
  | 3 => len x [1] (.xgth sy hd od hs os (r6 x.e1 22) (r6 x.e1 16) (r3 x.e1 13) (r4 x.e1 9) (Hint.ofCode (fld x.e1 7 2)))
  | 4 =>
    if r1 x.e1 24 then
      len x [1] (.xsltOut sy hd od (r3 x.e1 25) (r6 x.e1 18) (r4 x.e1 14) (Hint.ofCode (fld x.e1 12 2)))
    else
      len x [1] (.xsltIn sy hs os (r3 x.e1 25) (r6 x.e1 18) (r4 x.e1 14) (Hint.ofCode (fld x.e1 12 2)))
  | 5 => len x [1] (.xfil sy hd od (r6 x.e1 22) (r3 x.e1 19) (BitVec.ofNat 8 (x.e1 / 2 ^ 11)) (r4 x.e1 7) (Hint.ofCode (fld x.e1 5 2)))
  | 6 =>
    if x.n = 1 then yes (.xadoLen1 sy (r4 x.w0 16) (BitVec.ofNat 44 (fld x.e1 0 28 * 2 ^ 16 + fld x.w0 0 16)))
    else len x [0] (.xado sy (r4 x.w0 16) (BitVec.ofNat 16 x.w0))
  | _ => badOp

/-- The map of a stream; the LD and ST streams share one (R32, R35 to R37). -/
def candidate (s : Stream) (x : Words) : Decoded :=
  match s with
  | .c => candC x
  | .vx => candV x
  | .mx => candM x
  | .ld | .st => candX x

/-! ## The encoder -/

/-- The synchronisation bits as a number, WP highest (R21). -/
def Sync.toNat (s : Sync) : Nat := bitOf s.wp * 8 + bitOf s.wn * 4 + bitOf s.sp * 2 + bitOf s.sn

/-- A first word (R21). -/
def first (sy : Sync) (n op low : Nat) : Nat := sy.toNat * 2 ^ 28 + n * 2 ^ 26 + op * 2 ^ 20 + low

/-- A one-word instruction. -/
def one (sy : Sync) (op low : Nat) : List Nat := [first sy 0 op low]

/-- A two-word instruction. -/
def two (sy : Sync) (op low e1 : Nat) : List Nat := [first sy 1 op low, e1]

/-- A CR word (R31). -/
def encCr (sy : Sync) (op fn : Nat) (rd ra rb : Nat) : List Nat :=
  one sy op (rd * 2 ^ 14 + ra * 2 ^ 8 + rb * 2 ^ 2 + fn)

/-- A CI instruction with an 8-bit immediate (R31). -/
def encCi0 (sy : Sync) (op rd ra : Nat) (imm : BitVec 8) : List Nat :=
  one sy op (rd * 2 ^ 14 + ra * 2 ^ 8 + imm.toNat)

/-- A CI instruction with a 36-bit immediate (R31). -/
def encCi1 (sy : Sync) (op rd ra : Nat) (imm : BitVec 36) : List Nat :=
  two sy op (rd * 2 ^ 14 + ra * 2 ^ 8 + imm.toNat % 2 ^ 8) (imm.toNat / 2 ^ 8)

/-- A CI instruction with a 64-bit immediate (R31). -/
def encCi2 (sy : Sync) (op rd ra : Nat) (imm : BitVec 64) : List Nat :=
  [first sy 2 op (rd * 2 ^ 14 + ra * 2 ^ 8 + imm.toNat % 2 ^ 8),
    imm.toNat / 2 ^ 8 % 2 ^ 28, imm.toNat / 2 ^ 36]

/-- A CB instruction with a 15-bit displacement (R31). -/
def encCb0 (sy : Sync) (op p : Nat) (s : Bool) (d : BitVec 15) : List Nat :=
  one sy op (p * 2 ^ 16 + bitOf s * 2 ^ 15 + d.toNat)

/-- A CB instruction with a 43-bit displacement (R31). -/
def encCb1 (sy : Sync) (op p : Nat) (s : Bool) (d : BitVec 43) : List Nat :=
  two sy op (p * 2 ^ 16 + bitOf s * 2 ^ 15 + d.toNat % 2 ^ 15) (d.toNat / 2 ^ 15)

/-- The first word's fields of a CM instruction (R31). -/
def cm (rd ra : Nat) (c : Fin 16) (h : Hint) (z : Size) : Nat :=
  rd * 2 ^ 14 + ra * 2 ^ 8 + c.val * 2 ^ 4 + h.code * 2 ^ 2 + z.code

/-- A `PLOG` word (R33). -/
def encPlog (sy : Sync) (fn pd pa pb : Nat) : List Nat :=
  one sy 0x13 (pd * 2 ^ 16 + pa * 2 ^ 12 + pb * 2 ^ 8 + fn)

/-- The size code of an atomic: 2 is W and 3 is D (R280). -/
def dblCode (d : Bool) : Nat := if d then 3 else 2

/-- The VX extension word (R34). -/
def VExt.toNat (e : VExt) : Nat :=
  e.pm.val * 2 ^ 24 + bitOf e.pe * 2 ^ 23 + bitOf e.pz * 2 ^ 22 + e.vc.val * 2 ^ 17 + e.rm.val * 2 ^ 14
    + bitOf e.nf * 2 ^ 13 + bitOf e.sat * 2 ^ 12 + bitOf e.bs * 2 ^ 11 + e.imm.toNat

/-- A VX instruction (R34). -/
def encV (sy : Sync) (op fn vd va vb : Nat) (e : Option VExt) : List Nat :=
  match e with
  | none => one sy op (vd * 2 ^ 15 + va * 2 ^ 10 + vb * 2 ^ 5 + fn)
  | some e => two sy op (vd * 2 ^ 15 + va * 2 ^ 10 + vb * 2 ^ 5 + fn) e.toNat

/-- The first word's fields of a copy command (R37). -/
def xw (hd hs od os : Nat) : Nat := hd * 2 ^ 14 + hs * 2 ^ 8 + od * 2 ^ 4 + os

set_option maxHeartbeats 1000000 in
/-- The words of an instruction, first word first; a step of the part that is no instruction has none
(R31 to R37). -/
def encode : Instr → List Nat
  | .nop sy => one sy 0 (0 * 2 ^ 14)
  | .done sy => one sy 0 (1 * 2 ^ 14)
  | .yield sy => one sy 0 (2 * 2 ^ 14)
  | .trap sy i => one sy 0 (3 * 2 ^ 14 + i.toNat)
  | .eret sy => one sy 0 (4 * 2 ^ 14)
  | .brk sy => one sy 0 (5 * 2 ^ 14)
  | .wfe sy m => one sy 0 (6 * 2 ^ 14 + m.toNat)
  | .evclr sy m => one sy 0 (7 * 2 ^ 14 + m.toNat)
  | .ret sy => one sy 0 (8 * 2 ^ 14)
  | .fence sy c s ro => one sy 1 (c.toNat * 2 ^ 4 + s.code * 2 + bitOf ro)
  | .add sy d a b => encCr sy 2 0 d.val a.val b.val
  | .sub sy d a b => encCr sy 2 1 d.val a.val b.val
  | .and sy d a b => encCr sy 2 2 d.val a.val b.val
  | .or sy d a b => encCr sy 2 3 d.val a.val b.val
  | .xor sy d a b => encCr sy 3 0 d.val a.val b.val
  | .shl sy d a b => encCr sy 3 1 d.val a.val b.val
  | .shr sy d a b => encCr sy 3 2 d.val a.val b.val
  | .sra sy d a b => encCr sy 3 3 d.val a.val b.val
  | .mul sy d a b => encCr sy 4 0 d.val a.val b.val
  | .mulh sy d a b => encCr sy 4 1 d.val a.val b.val
  | .mulhu sy d a b => encCr sy 4 2 d.val a.val b.val
  | .div sy d a b => encCr sy 5 0 d.val a.val b.val
  | .divu sy d a b => encCr sy 5 1 d.val a.val b.val
  | .rem sy d a b => encCr sy 5 2 d.val a.val b.val
  | .remu sy d a b => encCr sy 5 3 d.val a.val b.val
  | .min sy d a b => encCr sy 6 0 d.val a.val b.val
  | .max sy d a b => encCr sy 6 1 d.val a.val b.val
  | .minu sy d a b => encCr sy 6 2 d.val a.val b.val
  | .maxu sy d a b => encCr sy 6 3 d.val a.val b.val
  | .mov sy d a => encCr sy 7 0 d.val a.val 0
  | .popc sy d a => encCr sy 7 1 d.val a.val 0
  | .clz sy d a => encCr sy 7 2 d.val a.val 0
  | .ctz sy d a => encCr sy 7 3 d.val a.val 0
  | .addi sy d a i => encCi0 sy 8 d.val a.val i
  | .addiLen1 sy d a i => encCi1 sy 8 d.val a.val i
  | .addiLen2 sy d a i => encCi2 sy 8 d.val a.val i
  | .andi sy d a i => encCi0 sy 9 d.val a.val i
  | .andiLen1 sy d a i => encCi1 sy 9 d.val a.val i
  | .andiLen2 sy d a i => encCi2 sy 9 d.val a.val i
  | .ori sy d a i => encCi0 sy 10 d.val a.val i
  | .oriLen1 sy d a i => encCi1 sy 10 d.val a.val i
  | .oriLen2 sy d a i => encCi2 sy 10 d.val a.val i
  | .xori sy d a i => encCi0 sy 11 d.val a.val i
  | .xoriLen1 sy d a i => encCi1 sy 11 d.val a.val i
  | .xoriLen2 sy d a i => encCi2 sy 11 d.val a.val i
  | .shli sy d a i => encCi0 sy 12 d.val a.val i
  | .shliLen1 sy d a i => encCi1 sy 12 d.val a.val i
  | .shliLen2 sy d a i => encCi2 sy 12 d.val a.val i
  | .shri sy d a i => encCi0 sy 13 d.val a.val i
  | .shriLen1 sy d a i => encCi1 sy 13 d.val a.val i
  | .shriLen2 sy d a i => encCi2 sy 13 d.val a.val i
  | .srai sy d a i => encCi0 sy 14 d.val a.val i
  | .sraiLen1 sy d a i => encCi1 sy 14 d.val a.val i
  | .sraiLen2 sy d a i => encCi2 sy 14 d.val a.val i
  | .li sy d i => encCi0 sy 15 d.val 0 i
  | .liLen1 sy d i => encCi1 sy 15 d.val 0 i
  | .liLen2 sy d i => encCi2 sy 15 d.val 0 i
  | .muli sy d a i => encCi0 sy 16 d.val a.val i
  | .muliLen1 sy d a i => encCi1 sy 16 d.val a.val i
  | .muliLen2 sy d a i => encCi2 sy 16 d.val a.val i
  | .cmp sy p c a b => one sy 0x11 (p.val * 2 ^ 16 + c.code * 2 ^ 12 + a.val * 2 ^ 6 + b.val)
  | .cmpi sy p c a i => one sy 0x12 (p.val * 2 ^ 16 + c.code * 2 ^ 12 + a.val * 2 ^ 6 + i.toNat)
  | .cmpiLen1 sy p c a i => two sy 0x12 (p.val * 2 ^ 16 + c.code * 2 ^ 12 + a.val * 2 ^ 6 + i.toNat % 2 ^ 6) (i.toNat / 2 ^ 6)
  | .pand sy d a b => encPlog sy 0 d.val a.val b.val
  | .por sy d a b => encPlog sy 1 d.val a.val b.val
  | .pxor sy d a b => encPlog sy 2 d.val a.val b.val
  | .pandn sy d a b => encPlog sy 3 d.val a.val b.val
  | .pnot sy d a => encPlog sy 4 d.val a.val 0
  | .pset sy d => encPlog sy 5 d.val 0 0
  | .pclr sy d => encPlog sy 6 d.val 0 0
  | .pmov sy d a => encPlog sy 7 d.val a.val 0
  | .pcnt sy d a => one sy 0x14 (d.val * 2 ^ 14 + a.val * 2 ^ 10)
  | .br sy d => encCb0 sy 21 0 false d
  | .brLen1 sy d => encCb1 sy 21 0 false d
  | .bp sy p s d => encCb0 sy 22 p.val s d
  | .bpLen1 sy p s d => encCb1 sy 22 p.val s d
  | .bany sy p s d => encCb0 sy 23 p.val s d
  | .banyLen1 sy p s d => encCb1 sy 23 p.val s d
  | .ball sy p s d => encCb0 sy 24 p.val s d
  | .ballLen1 sy p s d => encCb1 sy 24 p.val s d
  | .call sy d => encCb0 sy 25 0 false d
  | .callLen1 sy d => encCb1 sy 25 0 false d
  | .bri sy a => one sy 0x1A (a.val * 2 ^ 8)
  | .calli sy a => one sy 0x1B (a.val * 2 ^ 8)
  | .ld sy d a c h z => one sy 28 (cm d.val a.val c h z)
  | .ldLen1 sy d a c h z o => two sy 28 (cm d.val a.val c h z) o.toNat
  | .lds sy d a c h z => one sy 29 (cm d.val a.val c h z)
  | .ldsLen1 sy d a c h z o => two sy 29 (cm d.val a.val c h z) o.toNat
  | .ldro sy d a c h z => one sy 30 (cm d.val a.val c h z)
  | .ldroLen1 sy d a c h z o => two sy 30 (cm d.val a.val c h z) o.toNat
  | .st sy d a c h z => one sy 31 (cm d.val a.val c h z)
  | .stLen1 sy d a c h z o => two sy 31 (cm d.val a.val c h z) o.toNat
  | .mfsr sy d n => one sy 0x20 (d.val * 2 ^ 14 + n.toNat)
  | .mtsr sy n a => one sy 0x21 (a.val * 2 ^ 14 + n.toNat)
  | .ego sy e a => one sy 0x22 (e.code * 2 ^ 17 + a.val * 2 ^ 8)
  | .ewait sy e => one sy 0x23 (ewaitCode e * 2 ^ 17)
  | .estat sy d e => one sy 0x24 (e.code * 2 ^ 17 + d.val * 2 ^ 8)
  | .fqpush sy a => one sy 0x25 (a.val * 2 ^ 8)
  | .pqpush sy q a => one sy 0x26 (q.code * 2 ^ 17 + a.val * 2 ^ 8)
  | .tmap sy h a b q => encCr sy 0x27 q.code h.val a.val b.val
  | .tunmap sy h => one sy 0x28 (h.val * 2 ^ 14)
  | .tquery sy d h => one sy 0x29 (h.val * 2 ^ 14 + d.val * 2 ^ 8)
  | .binit sy b => encCr sy 0x2A 0 b.val 0 0
  | .bexp sy b a => encCr sy 0x2A 1 b.val a.val 0
  | .barr sy b a => encCr sy 0x2A 2 b.val a.val 0
  | .bwait sy b k => one sy 0x2B (b.val * 2 ^ 14 + bitOf k)
  | .btest sy p b k => one sy 0x2C (b.val * 2 ^ 14 + p.val * 2 ^ 10 + bitOf k)
  | .amo sy o z c s ret acq rel d a b => two sy 0x2D (d.val * 2 ^ 14 + a.val * 2 ^ 8 + b.val * 2 ^ 2)
      (o.code * 2 ^ 24 + dblCode z * 2 ^ 22 + c.val * 2 ^ 18 + s.code * 2 ^ 15 + bitOf ret * 2 ^ 14 + bitOf acq * 2 ^ 13
        + bitOf rel * 2 ^ 12)
  | .cas sy z c s acq rel d a b => two sy 0x2E (d.val * 2 ^ 14 + a.val * 2 ^ 8 + b.val * 2 ^ 2)
      (dblCode z * 2 ^ 22 + c.val * 2 ^ 18 + s.code * 2 ^ 15 + bitOf acq * 2 ^ 13 + bitOf rel * 2 ^ 12)
  | .red sy o z c a b => two sy 0x38 (a.val * 2 ^ 8 + b.val * 2 ^ 2)
      (o.code * 2 ^ 24 + dblCode z * 2 ^ 22 + c.val * 2 ^ 18)
  | .cbr sy o h p d => one sy 0x2F (p.val * 2 ^ 16 + o.code * 2 ^ 14 + bitOf h * 2 ^ 13 + d.toNat)
  | .cbrLen1 sy o h p d => two sy 0x2F (p.val * 2 ^ 16 + o.code * 2 ^ 14 + bitOf h * 2 ^ 13 + d.toNat % 2 ^ 13) (d.toNat / 2 ^ 13)
  | .cleave sy => encCr sy 0x30 0 0 0 0
  | .cquery sy d => encCr sy 0x30 1 d.val 0 0
  | .xcoll sy hd hs r t b s d => [first sy 2 0x31 (hs.val * 2 ^ 14 + hd.val * 2 ^ 8 + r.code * 2 ^ 4 + t.code),
      b.val * 2 ^ 22 + s.toNat, d.toNat]
  | .gsig sy a => one sy 0x32 (a.val * 2 ^ 8)
  | .getratio sy d => encCr sy 0x33 0 d.val 0 0
  | .rlock sy => encCr sy 0x33 1 0 0 0
  | .runlock sy => encCr sy 0x33 2 0 0 0
  | .amalloc sy d a => encCr sy 0x34 0 d.val a.val 0
  | .amfree sy a => encCr sy 0x34 1 0 a.val 0
  | .amfreeDiscard sy a => encCr sy 0x34 1 1 a.val 0
  | .amgrant sy d a b => encCr sy 0x34 2 d.val a.val b.val
  | .amquery sy d a => encCr sy 0x34 3 d.val a.val 0
  | .vwait sy d => encCr sy 0x35 0 d.val 0 0
  | .vsig sy d => encCr sy 0x35 1 d.val 0 0
  | .vstat sy d => encCr sy 0x35 2 d.val 0 0
  | .pref sy a b h => one sy 0x36 (a.val * 2 ^ 8 + b.val * 2 ^ 2 + h.code)
  | .wbr sy a b => one sy 0x36 (1 * 2 ^ 17 + a.val * 2 ^ 8 + b.val * 2 ^ 2)
  | .invr sy a b => one sy 0x36 (2 * 2 ^ 17 + a.val * 2 ^ 8 + b.val * 2 ^ 2)
  | .rinv sy a b => one sy 0x36 (3 * 2 ^ 17 + a.val * 2 ^ 8 + b.val * 2 ^ 2)
  | .icinv sy a b => one sy 0x36 (4 * 2 ^ 17 + a.val * 2 ^ 8 + b.val * 2 ^ 2)
  | .slres sy d l => one sy 0x37 (l.val * 2 ^ 17 + d.val * 2 ^ 11)
  | .slpost sy l => one sy 0x37 (l.val * 2 ^ 17 + 1)
  | .slacq sy d l => one sy 0x37 (l.val * 2 ^ 17 + d.val * 2 ^ 11 + 2)
  | .slrel sy l => one sy 0x37 (l.val * 2 ^ 17 + 3)
  | .asyncTrapTaken _ => []
  | .vnop sy => encV sy 0 0 0 0 0 none
  | .vend sy => encV sy 0 1 0 0 0 none
  | .vpq sy d => encV sy 0 2 d.val 0 0 none
  | .vsetvl sy d a => encV sy 0 3 d.val a.val 0 none
  | .vflgr sy d => encV sy 0 4 d.val 0 0 none
  | .vflgc sy => encV sy 0 5 0 0 0 none
  | .vview sy d a => encV sy 0 6 d.val a.val 0 none
  | .vgetv sy d a => encV sy 0 7 d.val a.val 0 none
  | .fadd sy d a b e => encV sy 1 0 d.val a.val b.val e
  | .fsub sy d a b e => encV sy 1 1 d.val a.val b.val e
  | .fmul sy d a b e => encV sy 1 2 d.val a.val b.val e
  | .fmin sy d a b e => encV sy 1 3 d.val a.val b.val e
  | .fmax sy d a b e => encV sy 1 4 d.val a.val b.val e
  | .fma sy d a b e => encV sy 1 5 d.val a.val b.val (some e)
  | .fms sy d a b e => encV sy 1 6 d.val a.val b.val (some e)
  | .fnma sy d a b e => encV sy 1 7 d.val a.val b.val (some e)
  | .fabs sy d a e => encV sy 2 0 d.val a.val 0 e
  | .fneg sy d a e => encV sy 2 1 d.val a.val 0 e
  | .frcp sy d a e => encV sy 2 2 d.val a.val 0 e
  | .frsq sy d a e => encV sy 2 3 d.val a.val 0 e
  | .fsqrt sy d a e => encV sy 2 4 d.val a.val 0 e
  | .fexp2 sy d a e => encV sy 2 5 d.val a.val 0 e
  | .flog2 sy d a e => encV sy 2 6 d.val a.val 0 e
  | .fsin sy d a e => encV sy 2 7 d.val a.val 0 e
  | .fcos sy d a e => encV sy 2 8 d.val a.val 0 e
  | .frnd sy d a e => encV sy 2 9 d.val a.val 0 e
  | .feq sy d a b e => encV sy 3 0 d.val a.val b.val e
  | .fne sy d a b e => encV sy 3 1 d.val a.val b.val e
  | .flt sy d a b e => encV sy 3 2 d.val a.val b.val e
  | .fle sy d a b e => encV sy 3 3 d.val a.val b.val e
  | .fun sy d a b e => encV sy 3 4 d.val a.val b.val e
  | .iadd sy d a b e => encV sy 4 0 d.val a.val b.val e
  | .isub sy d a b e => encV sy 4 1 d.val a.val b.val e
  | .imul sy d a b e => encV sy 4 2 d.val a.val b.val e
  | .imulh sy d a b e => encV sy 4 3 d.val a.val b.val e
  | .imulhu sy d a b e => encV sy 4 4 d.val a.val b.val e
  | .imin sy d a b e => encV sy 4 5 d.val a.val b.val e
  | .imax sy d a b e => encV sy 4 6 d.val a.val b.val e
  | .iminu sy d a b e => encV sy 4 7 d.val a.val b.val e
  | .imaxu sy d a b e => encV sy 4 8 d.val a.val b.val e
  | .iand sy d a b e => encV sy 4 9 d.val a.val b.val e
  | .ior sy d a b e => encV sy 4 10 d.val a.val b.val e
  | .ixor sy d a b e => encV sy 4 11 d.val a.val b.val e
  | .ishl sy d a b e => encV sy 4 12 d.val a.val b.val e
  | .ishr sy d a b e => encV sy 4 13 d.val a.val b.val e
  | .isra sy d a b e => encV sy 4 14 d.val a.val b.val e
  | .iadds sy d a b e => encV sy 4 15 d.val a.val b.val e
  | .isubs sy d a b e => encV sy 4 16 d.val a.val b.val e
  | .iabs sy d a e => encV sy 4 17 d.val a.val 0 e
  | .ieq sy d a b e => encV sy 5 0 d.val a.val b.val e
  | .ine sy d a b e => encV sy 5 1 d.val a.val b.val e
  | .ilt sy d a b e => encV sy 5 2 d.val a.val b.val e
  | .ige sy d a b e => encV sy 5 3 d.val a.val b.val e
  | .iltu sy d a b e => encV sy 5 4 d.val a.val b.val e
  | .igeu sy d a b e => encV sy 5 5 d.val a.val b.val e
  | .bfx sy d a e => encV sy 6 0 d.val a.val 0 (some e)
  | .bfxu sy d a e => encV sy 6 1 d.val a.val 0 (some e)
  | .bfi sy d a e => encV sy 6 2 d.val a.val 0 (some e)
  | .fshl sy d a b e => encV sy 6 3 d.val a.val b.val e
  | .fshr sy d a b e => encV sy 6 4 d.val a.val b.val e
  | .popcv sy d a e => encV sy 6 5 d.val a.val 0 e
  | .clzv sy d a e => encV sy 6 6 d.val a.val 0 e
  | .brevv sy d a e => encV sy 6 7 d.val a.val 0 e
  | .cvt sy d a e => encV sy 7 0 d.val a.val 0 e
  | .qnt sy d a b e => encV sy 7 1 d.val a.val b.val e
  | .dqnt sy d a e => encV sy 7 2 d.val a.val 0 e
  | .qscale sy d a e => encV sy 7 3 d.val a.val 0 e
  | .vmov sy d a e => encV sy 8 0 d.val a.val 0 e
  | .vsel sy d a b e => encV sy 8 1 d.val a.val b.val e
  | .vbcst sy d a b e => encV sy 8 2 d.val a.val b.val e
  | .vidx sy d e => encV sy 8 3 d.val 0 0 e
  | .vperm sy d a b e => encV sy 8 4 d.val a.val b.val e
  | .vcmprs sy d a e => encV sy 8 5 d.val a.val 0 e
  | .vexpnd sy d a e => encV sy 8 6 d.val a.val 0 e
  | .vsldn sy d a b e => encV sy 8 7 d.val a.val b.val e
  | .vslup sy d a b e => encV sy 8 8 d.val a.val b.val e
  | .vradd sy d a e => encV sy 9 0 d.val a.val 0 e
  | .vrfadd sy d a e => encV sy 9 1 d.val a.val 0 e
  | .vrmin sy d a e => encV sy 9 2 d.val a.val 0 e
  | .vrmax sy d a e => encV sy 9 3 d.val a.val 0 e
  | .vrfmin sy d a e => encV sy 9 4 d.val a.val 0 e
  | .vrfmax sy d a e => encV sy 9 5 d.val a.val 0 e
  | .vscan sy d a e => encV sy 9 6 d.val a.val 0 e
  | .vfscan sy d a e => encV sy 9 7 d.val a.val 0 e
  | .vld sy d a e => encV sy 10 0 d.val a.val 0 e
  | .vst sy d a e => encV sy 10 1 d.val a.val 0 e
  | .vgth sy d a b e => encV sy 10 2 d.val a.val b.val e
  | .vsct sy d a b e => encV sy 10 3 d.val a.val b.val e
  | .vldl sy d b e => encV sy 10 4 d.val 0 b.val e
  | .vstl sy d b e => encV sy 10 5 d.val 0 b.val e
  | .mnop sy => one sy 0 0
  | .mend sy => one sy 0 1
  | .mchb sy b n c => one sy 1 (b.val * 2 ^ 15 + n.val * 2 ^ 12 + c.val * 2 ^ 6)
  | .mma sy a b ta tb g => one sy 2 (a.val * 2 ^ 15 + b.val * 2 ^ 10 + bitOf ta * 2 ^ 9 + bitOf tb * 2 ^ 8 + bitOf g * 2 ^ 7)
  | .mmag sy i b c => two sy 3 (i.val * 2 ^ 15 + b.val * 2 ^ 10) (c.val * 2 ^ 23)
  | .mtrn sy a => one sy 4 (a.val * 2 ^ 15)
  | .mperm sy a b => one sy 4 (a.val * 2 ^ 15 + b.val * 2 ^ 10 + 1 * 2 ^ 7)
  | .mrsum sy a => one sy 4 (a.val * 2 ^ 15 + 2 * 2 ^ 7)
  | .mcsum sy a => one sy 4 (a.val * 2 ^ 15 + 3 * 2 ^ 7)
  | .mche sy => one sy 5 0
  | .mdrn sy d b n c => one sy 6 (d.val * 2 ^ 15 + b.val * 2 ^ 10 + n.val * 2 ^ 7 + bitOf c * 2 ^ 6)
  | .mzro sy b n => one sy 7 (b.val * 2 ^ 15 + n.val * 2 ^ 12)
  | .mlda sy a b n => one sy 8 (a.val * 2 ^ 15 + b.val * 2 ^ 10 + n.val * 2 ^ 7)
  | .xnop sy => one sy 0 0
  | .xend sy => one sy 0 1
  | .xwait sy => one sy 0 2
  | .xpq sy d => one sy 0 (d.val * 2 ^ 16 + 3)
  | .xshp sy s => one sy 1 (s.val * 2 ^ 17)
  | .xcpy sy hd od hs os b sh r c h cmp z => two sy 2 (xw hd.val hs.val od.val os.val)
      (b.val * 2 ^ 22 + sh.val * 2 ^ 19 + r.code * 2 ^ 15 + c.val * 2 ^ 11 + h.code * 2 ^ 9 + bitOf cmp * 2 ^ 8 + bitOf z * 2 ^ 7)
  | .xgth sy hd od hs os b hi sh c h => two sy 3 (xw hd.val hs.val od.val os.val)
      (b.val * 2 ^ 22 + hi.val * 2 ^ 16 + sh.val * 2 ^ 13 + c.val * 2 ^ 9 + h.code * 2 ^ 7)
  | .xsltIn sy hs os l b c h => two sy 4 (xw 0 hs.val 0 os.val) (l.val * 2 ^ 25 + b.val * 2 ^ 18 + c.val * 2 ^ 14 + h.code * 2 ^ 12)
  | .xsltOut sy hd od l b c h => two sy 4 (xw hd.val 0 od.val 0) (l.val * 2 ^ 25 + 1 * 2 ^ 24 + b.val * 2 ^ 18 + c.val * 2 ^ 14 + h.code * 2 ^ 12)
  | .xfil sy hd od b sh f c h => two sy 5 (xw hd.val 0 od.val 0)
      (b.val * 2 ^ 22 + sh.val * 2 ^ 19 + f.toNat * 2 ^ 11 + c.val * 2 ^ 7 + h.code * 2 ^ 5)
  | .xado sy d i => one sy 6 (d.val * 2 ^ 16 + i.toNat)
  | .xadoLen1 sy d i => two sy 6 (d.val * 2 ^ 16 + i.toNat % 2 ^ 16) (i.toNat / 2 ^ 16)
  | .copyDone _ _ _ => []
  | .copyFault _ _ _ _ => []
  | .drainVerdict _ => []
  | .nougatArbitration _ => []
  | .nougatSelfTest _ _ => []
  | .writeCompleteAtHome _ => []
  | .flushMarkerAnswer _ => []
  | .faultQueueReplay _ _ => []
  | .faultQueueWatchdog _ _ => []
  | .sliceRetire _ _ _ => []
  | .reductionPacketArrival _ => []
  | .foldContribution _ => []
  | .foldResult _ => []
  | .departure _ _ => []
  | .groupTimeout _ => []
  | .collectivePacketArrival _ _ => []
  | .xcollExchangeDone _ _ => []
  | .evLaunch _ _ => []
  | .evSignal _ _ => []
  | .nopPacket _ _ => []
  | .cfgSet _ _ => []
  | .cfgMask _ _ => []
  | .cfgDestroy _ _ => []
  | .cfgReset _ _ => []
  | .cfgShootdown _ _ => []
  | .cfgCap _ _ => []
  | .ringEn _ _ => []
  | .ringbell _ => []
  | .ringerr _ _ => []
  | .nodesig _ _ => []
  | .hostbell _ _ => []
  | .postn _ _ _ _ => []
  | .registerWrite _ _ _ => []
  | .peerWrite _ _ _ _ _ => []
  | .hostRead _ _ _ _ => []
  | .functionLevelReset _ => []
  | .nodeCompletion _ _ => []
  | .teamPlacement _ => []
  | .aging _ _ _ => []
  | .timeSliceExpiry _ _ _ => []
  | .evSave _ _ _ => []
  | .leaseRenewal  => []
  | .leaseLapse  => []
  | .pralineEvaluation _ => []
  | .lockWindowExpiry _ => []
  | .lockRestEnd _ => []
  | .bucketRefill _ => []
  | .flitReceive _ _ _ _ => []
  | .repeatRequest _ _ => []
  | .linkRetrain _ _ _ => []
  | .scaleoutPacketReceive _ _ _ => []
  | .scaleoutResend _ _ => []
  | .thermalSample _ _ _ => []
  | .numericSensorRead _ _ => []
  | .numericEffecterSet _ => []
  | .logMirror  => []
  | .logReadClear  => []
  | .requestUpdate  => []
  | .passComponentTable  => []
  | .updateComponent _ => []
  | .firmwareTransfer _ _ _ => []
  | .activateFirmware _ => []
  | .heartbeat _ => []
  | .vemundFailover  => []
  | .moduleReset  => []
  | .freeze  => []
  | .tapAccess _ => []
  | .keyInstall _ _ => []
  | .keyRevoke _ => []
  | .presentationModeSet _ => []
  | .packageIdSet _ => []
  | .routeTableLoad _ => []
  | .configurationRequest _ _ => []

/-! ## Decoding -/

/-- The words of what was read. -/
def Fetched.words : Fetched → List Nat
  | .ins i => encode i
  | .vnop sy => encV sy 0 0 0 0 0 none
  | .mnop sy => one sy 0 0
  | .xnop sy => one sy 0 0
  | .mend sy => one sy 0 1
  | .xend sy => one sy 0 1
  | .mche sy => one sy 5 0
  | .xwait sy => one sy 0 2

/-- `Instr.operandBad` of what was read. -/
def Fetched.operandBad : Fetched → Option Nat
  | .ins i => i.operandBad
  | _ => none

/-- `Instr.mbzBad` of what was read. -/
def Fetched.mbzBad : Fetched → Option Nat
  | .ins i => i.mbzBad
  | _ => none

/-- The words of an instruction that were fetched. -/
def Words.list (x : Words) : List Nat :=
  match x.n with
  | 0 => [x.w0]
  | 1 => [x.w0, x.e1]
  | _ => [x.w0, x.e1, x.e2]

/-- The lowest word in which the two lists of words differ: there a field that the instruction does
not use is nonzero (R24, R25). -/
def differAt : List Nat → List Nat → Nat → Option Nat
  | [], _, _ => none
  | _, [], _ => none
  | a :: as, b :: bs, k => if a = b then differAt as bs (k + 1) else some k

/-- The lower of two word indexes. -/
def lowest : Option Nat → Option Nat → Option Nat
  | none, b => b
  | a, none => a
  | some a, some b => some (min a b)

/-- Decodes fetched words whose LEN is not 3 and whose extension words carry no bits [31:28]: OPCODE,
FUNC, LENBAD, OPERAND, MBZ in that order (R24). -/
def decodeWords (s : Stream) (x : Words) : Decoded :=
  match candidate s x with
  | .error b => .error b
  | .ok f =>
    match f.operandBad with
    | some k => .error ⟨.operand, k⟩
    | none =>
      match lowest (differAt f.words x.list 0) f.mbzBad with
      | some k => .error ⟨.mbz, k⟩
      | none => .ok f

/-- All of R24's checks on words that are there: LENBAD for LEN 3, EXTSYNC, then the map. -/
def decode (s : Stream) (w0 e1 e2 : Nat) : Decoded :=
  let n := fld w0 26 2
  if n = 3 then .error ⟨.lenbad, 0⟩
  else if 1 ≤ n ∧ fld e1 28 4 ≠ 0 then .error ⟨.extsync, 1⟩
  else if 2 ≤ n ∧ fld e2 28 4 ≠ 0 then .error ⟨.extsync, 2⟩
  else decodeWords s ⟨n, w0, if 1 ≤ n then e1 else 0, if 2 ≤ n then e2 else 0⟩

/-- `decode`, answering the instruction itself. -/
noncomputable def decodeInstr (s : Stream) (w0 e1 e2 : Nat) : Except Bad Instr :=
  match decode s w0 e1 e2 with
  | .error b => .error b
  | .ok f => .ok f.instr

/-- Decodes a list of words, absent words reading 0. -/
def decodeList (s : Stream) (l : List Nat) : Decoded :=
  decode s (l.getD 0 0) (l.getD 1 0) (l.getD 2 0)

/-- The little-endian 32-bit word at the front of four bytes (R2). -/
def wordOfBytes (a b c d : Byte) : Nat := a.toNat + b.toNat * 2 ^ 8 + c.toNat * 2 ^ 16 + d.toNat * 2 ^ 24

/-- The little-endian bytes of a 32-bit word (R2). -/
def bytesOfWord (w : Nat) : List Byte :=
  [BitVec.ofNat 8 w, BitVec.ofNat 8 (w / 2 ^ 8), BitVec.ofNat 8 (w / 2 ^ 16), BitVec.ofNat 8 (w / 2 ^ 24)]

/-- The three words of a number whose bits count on from the first word. -/
def tableWords (nbits w : Nat) : List Nat :=
  let w := w % 2 ^ nbits
  [w % 2 ^ 32, w / 2 ^ 32 % 2 ^ 32, w / 2 ^ 64 % 2 ^ 32]

/-- The streams in whose maps the table's words are looked up, the control stream first: the maps of
the four streams overlap, and a bare word does not say its stream (log entry 6). -/
def tableStreams : List Stream := [.c, .vx, .mx, .ld]

/-- The stream that a bare word of the table is taken for: the first whose map accepts it, and the
control stream where none does (log entry 6). -/
def tableStream (nbits w : Nat) : Stream :=
  (tableStreams.find? fun s =>
    match decodeList s (tableWords nbits w) with
    | .ok _ => true
    | .error _ => false).getD .c

/-- The instruction that the decoder reads from a bare word of the table (log entry 6). The forms that
`Fetched` names apart never arise here: their words stand in an earlier map too (`NOP`, `VEND`, `DIV`
and `VPQ`). -/
def decodeTableWord (nbits w : Nat) : Option Instr :=
  match decodeList (tableStream nbits w) (tableWords nbits w) with
  | .ok (.ins i) => some i
  | _ => none

end Sys2Proof
end

