-- ==== Sys2Proof/Machine/Map.lean ====
section
/-!
DEFINITION. Sparse tables in one canonical form: pairs of a key and a value, keys strictly rising, and
no value equal to what an unlisted key holds. Memory is such a table of bytes whose unlisted
addresses read 0 (log entry 2).
-/

namespace Sys2Proof.Machine

/-- A sparse table. -/
abbrev Table (α : Type) := List (Nat × α)

/-- The value at key `k`; `d` is the value of an unlisted key. -/
def Table.get {α : Type} (d : α) : Table α → Nat → α
  | [], _ => d
  | (a, v) :: t, k => if a = k then v else if k < a then d else Table.get d t k

/-- The table with the value `v` at key `k`; the value of an unlisted key is not listed. -/
def Table.set {α : Type} [DecidableEq α] (d : α) : Table α → Nat → α → Table α
  | [], k, v => if v = d then [] else [(k, v)]
  | (a, w) :: t, k, v =>
    if a = k then (if v = d then t else (k, v) :: t)
    else if k < a then (if v = d then (a, w) :: t else (k, v) :: (a, w) :: t)
    else (a, w) :: Table.set d t k v

/-- Changes every listed value. -/
def Table.mapVals {α : Type} [DecidableEq α] (d : α) (f : α → α) (t : Table α) : Table α :=
  t.filterMap fun e => if f e.2 = d then none else some (e.1, f e.2)

/-- Every key of the table is above `lo` and keys rise strictly from there, and no value is `d`. -/
def Table.okFrom {α : Type} [DecidableEq α] (d : α) : Nat → Table α → Bool
  | _, [] => true
  | lo, (a, v) :: t => decide (lo ≤ a) && decide (v ≠ d) && Table.okFrom d (a + 1) t

/-- The canonical form. -/
def Table.wf {α : Type} [DecidableEq α] (d : α) (t : Table α) : Bool := Table.okFrom d 0 t

/-- The bytes of the package's storage by physical address, and the register space of the cores above
the physical map (01_lanrok R12, 09_memory R216; log entries 2 and 3). -/
abbrev Memory := List Host.Cell

/-- What a byte that nothing has written reads as (log entry 2). -/
abbrev Memory.unlisted : Byte := 0

/-- One byte. -/
def Memory.get (m : Memory) (a : Nat) : Byte := Table.get Memory.unlisted m a

/-- Writes one byte. -/
def Memory.set (m : Memory) (a : Nat) (b : Byte) : Memory := Table.set Memory.unlisted m a b

/-- The canonical form of memory. -/
def Memory.wf (m : Memory) : Bool := Table.wf Memory.unlisted m

/-- `n` bytes from `a` upward. -/
def Memory.getBytes (m : Memory) (a : Nat) : Nat → List Byte
  | 0 => []
  | n + 1 => m.get a :: Memory.getBytes m (a + 1) n

/-- Writes bytes from `a` upward. -/
def Memory.setBytes (m : Memory) (a : Nat) : List Byte → Memory
  | [] => m
  | b :: bs => Memory.setBytes (m.set a b) (a + 1) bs

/-- The little-endian value of bytes (00_scope R2). -/
def leValue : List Byte → Nat
  | [] => 0
  | b :: bs => b.toNat + 256 * leValue bs

/-- The little-endian bytes of a value (00_scope R2). -/
def leBytes : Nat → Nat → List Byte
  | 0, _ => []
  | n + 1, v => BitVec.ofNat 8 v :: leBytes n (v / 256)

/-- The value of `n` bytes. -/
def Memory.getLe (m : Memory) (a n : Nat) : Nat := leValue (m.getBytes a n)

/-- Writes a value of `n` bytes. -/
def Memory.setLe (m : Memory) (a n v : Nat) : Memory := m.setBytes a (leBytes n v)

end Sys2Proof.Machine
end

