-- ==== Sys2Proof/Machine/State.lean ====
section
/-!
DEFINITION. The state of the package: plain data that holds every piece of state the spec gives it, one
home for each. Rules are cited beside the fields.
-/

namespace Sys2Proof.Machine

/-! ## Dependence and epochs -/

/-- Which open epochs a value, token or stream depends on (R194, R301). -/
structure Dep where
  ver : Bool
  spec : Bool
deriving DecidableEq, Repr

/-- Depends on no epoch. -/
def Dep.clean : Dep := ⟨false, false⟩

/-- What an instruction reads: what its queue entries and shared registers depend on, the byte ranges of the RS window, and the
scalar registers (R194, R210). -/
structure Reads where
  dep : Dep
  rs : List (Nat × Nat)
  xs : List (Fin 64)
deriving DecidableEq, Repr

/-- Reads nothing that an epoch taints or a residue covers. -/
def Reads.none : Reads := ⟨.clean, [], []⟩

/-- What a sync push waits for before it is made (R28). -/
inductive Need where
  /-- Nothing but room and its turn. -/
  | now
  /-- DONESEQ of the stream reaching this command (R241). -/
  | copies (n : BitVec 32)
  /-- The verdict of the context's drain (R193). -/
  | verdict
  /-- The result of the context's fold (R296). -/
  | fold
  /-- The registration at its home of the `RED` with a serial number (R282). -/
  | home (n : Nat)
deriving DecidableEq, Repr

/-- A sync push not yet made: to the previous and the next stream (R26, R28). -/
structure Push where
  need : Need
  toPrev : Bool
  toNext : Bool
  dep : Dep
deriving DecidableEq, Repr

/-- A stream of a context (R22, R120, R332, R337). -/
structure StreamSt where
  pc : Word
  busy : Bool
  /-- The recorded fault: its cause, its value and the address of its instruction. -/
  fault : Option (BitVec 8 × Word × Word)
  /-- Stopped by a trap entry until the pause ends (R332). -/
  paused : Bool
  /-- The pops that the instruction at `pc` took and keeps: from the previous and from the next stream,
  with what they depended on (R30). -/
  held : Option (Bool × Bool × Dep)
  /-- The reference a faulted `XCPY` with cmp keeps (R247). -/
  ref : Option Word
  /-- A fault or trap of a dependent instruction, held until the verdict (R194, R302). -/
  late : Option (BitVec 8 × Word)
  /-- Pushes not yet made, oldest first (R28). -/
  pushes : List Push
  /-- Instructions that have completed on the stream: the model's own count, by which a slot is known to have been used (log entry 1). -/
  count : Nat
deriving DecidableEq, Repr

/-- An idle stream. -/
def StreamSt.idle : StreamSt :=
  { pc := 0, busy := false, fault := none, paused := false, held := none, ref := none, late := none, pushes := [], count := 0 }

/-- A queue of 64-bit entries: the format queue (32) or a parameter queue (16). All entries keep their
words; `deps` says for each entry present, oldest first, what its push depended on (R122). -/
structure Queue where
  slots : List Word
  head : Nat
  count : Nat
  deps : List Dep
deriving DecidableEq, Repr

/-- An empty queue of `n` entries. -/
def Queue.empty (n : Nat) : Queue := { slots := List.replicate n 0, head := 0, count := 0, deps := [] }

/-! ## A context's registers -/

/-- The C stream's own registers (R102, R113, R96, R330, R331, R100). -/
structure CRegs where
  x : Vector Word 64
  /-- Registers whose stored value disagrees with its residue, as a mask (R102, R210). The part makes none; they are physical
  errors that a state is given. -/
  badX : BitVec 64
  /-- The hardware entries of the return stack, oldest first, at most 16. -/
  stack : List Word
  stackbase : Word
  trapcause : Word
  trappc : Word
  trapval : Word
  trapvec : Word
  trapstream : Word
  yielding : Bool
  /-- A `WFE` or a `DONE` at the pc has waited (R100). -/
  sleeping : Bool
  /-- `XCOLL` and `CBR` folds started, and whether the member departed (R294, R296). -/
  foldSeq : BitVec 16
  left : Bool
  /-- DRAINS when the `VWAIT` or `VSIG` at the pc issued: the drains that it waits for (R209). -/
  vwait : Option (BitVec 32)
deriving DecidableEq, Repr

/-- Other special registers of the context (R96, R191, R192, R219, R253, R258, R322). -/
structure SysRegs where
  evt : BitVec 6
  evtmask : BitVec 6
  integCount : BitVec 24
  lastVerdict : BitVec 4
  drains : BitVec 32
  verdicts : BitVec 32
  swz : Vector Word 8
  barbase : Word
  slbase : Word
  ratiogrant : Word
  /-- The package's number as it stood when the context started or resumed the task (R5, R115, R362). -/
  pkgid : BitVec 16
deriving DecidableEq, Repr

/-- The VX stream's registers (R129, R134 to R136). -/
structure VRegs where
  v : Vector Word 32
  vs : Vector Word 8
  vl : Nat
  flags : Vector (BitVec 5) 128
deriving DecidableEq, Repr

/-- An open chain: its band range and column count (R175). -/
structure Chain where
  band : Nat
  nb : Nat
  cols : Nat
deriving DecidableEq, Repr

/-- One journalled row: its number in the window, and each byte it still restores (R196). -/
structure JRow where
  row : Nat
  cells : List (Nat × Byte)
  /-- It has an uncorrectable error: what it restores is poisoned (R211). -/
  bad : Bool
deriving DecidableEq, Repr

/-- An adding command of the span log: the instruction, its views, its format word, the chain it ran
in, and where that chain's bands stand (R190). -/
structure SpanCmd where
  cmd : Instr
  va : Word
  vb : Word
  vc : Word
  fmt : Word
  chain : Chain
  /-- The bands of the chain that have not been freed since. -/
  bands : BitVec 32
deriving DecidableEq, Repr

/-- A write of `size` bits at a bit offset of the RS window. -/
structure BitWrite where
  bit : Nat
  size : Nat
  val : Nat
deriving DecidableEq, Repr

/-- A drain whose verdict is awaited: the tile each array produced, as element writes in row-major order, with its flags and
the signature that the array folded over the tile's bytes (R189, R193, R203). -/
structure Drain where
  vd : Word
  band : Nat
  nb : Nat
  clear : Bool
  /-- RS was written at issue: forward mode (R193). -/
  forward : Bool
  main : List BitWrite
  shadow : List BitWrite
  /-- The writes of a forward drain that found the journal full and wait for the verdict (R196). -/
  rest : List BitWrite
  mainSig : Word
  shadowSig : Word
  mainFlags : BitVec 6
  shadowFlags : BitVec 6
  /-- Its format word, with what the word's push depended on: a fault gives it back (R186). -/
  word : Word × Dep
  /-- MXFLAGS before the drain. -/
  flagsBefore : BitVec 6
  pc : Word
  sy : Sync
  dep : Dep
deriving DecidableEq, Repr

/-- What Nougat was asked to settle: the drain or an implicit point (R200). -/
inductive Dispute where
  | drain
  /-- A verification point on these bands, taken by a stream that depends on the speculation or not (R205). -/
  | point (bands : List Nat) (spec : Bool)
deriving DecidableEq, Repr

/-- The MX stream's registers and its span (R185, R175, R190, R200, R209). -/
structure MRegs where
  mxflags : BitVec 6
  chain : Option Chain
  /-- The order number at which the context took the engine for its open chain (R94, R175). -/
  chainAt : Nat
  drain : Option Drain
  dispute : Option Dispute
  /-- The adding commands since the last verification point, oldest first (R190). -/
  spanLog : List SpanCmd
  /-- Products added in the span to each slot, by band and position. -/
  spanProducts : Table Nat
  /-- Bands the span touches, as a mask. -/
  spanBands : BitVec 32
  /-- RS rows that logged commands read, and the operand entries of the journal (R196). -/
  opRows : List Nat
  opJournal : List JRow
  signature : Word
  /-- The arbitration of a save's implicit point failed, so that the save goes on without one (R207, R346). -/
  pointFailed : Bool
deriving DecidableEq, Repr

/-- A run of a mapping: an offset in the handle, its length, the physical address, the key and MTYPE
(R229). -/
structure Run where
  off : Nat
  len : Nat
  pa : Nat
  key : BitVec 8
  device : Bool
deriving DecidableEq, Repr

/-- A handle's mapping (R229, R230). -/
structure Mapping where
  base : Word
  extent : Nat
  rights : Rights
  zero : Bool
  runs : List Run
  /-- Pages pinned, as virtual page starts with their sizes. -/
  pins : List (Nat × Nat)
  /-- A serial number that tells this mapping from others of the same handle. -/
  serial : Nat
deriving DecidableEq, Repr

/-- What a bound handle is to a copy: a mapping, or one of the four fixed windows (R229, R233). -/
inductive Bound where
  | rs | sp | clusterSp | dsp
  | map (h : Nat) (m : Mapping)
  /-- The slot of a ring: its bytes' physical address, and their number (R252). -/
  | slot (pa n : Nat)
deriving DecidableEq, Repr

/-- A pending release: the handle, its old mapping (R231). -/
structure Release where
  h : Nat
  m : Mapping
deriving DecidableEq, Repr

/-- What a copy command moves (R247, R250 to R252). -/
inductive CopyKind where
  | copy (red : RedCopy) (ref : Option Word) (zero : Bool)
  | gather (idx : Bound)
  | fill (b : Byte)
  | slotIn
  | slotOut
deriving DecidableEq, Repr

/-- A copy command whose bytes are moving: units not read yet, units read and not written, the bytes read, by unit, and the sectors read
as zeros (R240, R245). -/
structure Moving where
  todo : List Nat
  flying : List (Nat × List Byte)
  got : List (Nat × List Byte)
  bad : List Nat
deriving DecidableEq, Repr

/-- A copy command in flight (R241, R242). Addresses are those bound at issue: byte `i` is read at
`src[i]` and written at `dst[i]` of the bound handles' offsets, generated from the shape. -/
structure CopyCmd where
  seq : BitVec 32
  kind : CopyKind
  pc : Word
  dst : Bound
  dstOff : Int
  dstStride : Int
  src : Bound
  srcOff : Int
  srcStride : Int
  /-- Bytes per row, rows, and the element size code (R240). -/
  run : Nat
  rows : Nat
  esz : Nat
  /-- Gathered row offsets at the source (R250). -/
  rowsAt : List Int
  cls : Fin 16
  /-- The sync bits of the instruction, whose pops a fault keeps (R30). -/
  sy : Sync
  /-- Physical address of the barrier descriptor, and of the ring descriptor with the slot number. -/
  barAddr : Nat
  ringAddr : Nat
  slot : Nat
  hd : Nat
  /-- The slot of a dependent command is not reserved at its ring before the verdict (R195, R261). -/
  owes : Bool
  /-- The command is done, in all but the order of DONESEQ. -/
  done : Bool
  /-- Its bytes are in the commit buffer: it is counted at the verdict (R195). -/
  heldBytes : Bool
  dep : Dep
  /-- Index sectors read as zeros at issue (R250). -/
  zeroed : Nat
  /-- Tokens that its requests to each die's stacks still have to pay (R325). -/
  due : List Nat
  /-- Its retention hint (R221). -/
  hint : Hint
  /-- Its bytes, once some of them have moved and others have not. -/
  moving : Option Moving
  /-- The stream's registers when it issued, and what later instructions of the stream have popped since: tokens by counter, and
  words of the parameter queue. A fault of the command gives them back, so that the stream stops before it (R328; log entry 45). -/
  o : Vector Word 16
  sh : Vector (Word × Word) 8
  tokens : List (Fin 10 × Dep)
  words : List (Word × Dep)
deriving DecidableEq, Repr

/-- The registers of a copy stream (R239). -/
structure CopySt where
  o : Vector Word 16
  sh : Vector (Word × Word) 8
  issued : BitVec 32
  doneseq : BitVec 32
  flight : List CopyCmd
  /-- Commands that were done when a fault of an earlier one took the stream back before them, as number and address: they do not move
  or count again (R328; log entry 45). -/
  early : List (BitVec 32 × Word)
  /-- Requests for the index bytes of the `XGTH` at an address that have still to leave the port, by die (R250, R325). -/
  indexDue : Option (Word × List Nat)
deriving DecidableEq, Repr

/-! ## Epochs (R194 to R199, R301 to R304) -/

/-- A stream's checkpoint: its state and the registers it owns. `at` orders checkpoints. -/
inductive SnapRegs where
  | c (r : CRegs) (sys : SysRegs)
  | copy (r : CopySt)
  | mx (r : MRegs)
  | vx (r : VRegs)
deriving DecidableEq, Repr

/-- A checkpoint (R194, R301). -/
structure Snap where
  serial : Nat
  st : StreamSt
  regs : SnapRegs
deriving DecidableEq, Repr

/-- A band's state and slots kept for undoing (R303). -/
structure Slot where
  s : Int
  nan : Bool
  pinf : Bool
  ninf : Bool
  clamp : Bool
  /-- Its word in this store has an uncorrectable error (R206, R211); a slot written whole has none. -/
  bad : Bool
deriving DecidableEq, Repr

/-- A zero slot with all flags clear (R60). -/
def Slot.zero : Slot := ⟨0, false, false, false, false, false⟩

/-- Kind of a band's slots (R163). -/
inductive BandKind where
  | none | narrow | wide
deriving DecidableEq, Repr

/-- State of a band (R163). -/
structure BandSt where
  kind : BandKind
  anchor : Int
  discard : Bool
deriving DecidableEq, Repr

/-- A free or zeroed band. -/
def BandSt.zero : BandSt := ⟨.none, 0, false⟩

/-- One accumulator store: slots by band·1024 + row·64 + column, and the band states (R162, R163). -/
structure Store where
  slots : Table Slot
  bands : Table BandSt
deriving DecidableEq, Repr

/-- A zeroed store. -/
def Store.empty : Store := ⟨[], []⟩

/-- A band kept for undoing: both stores and the base tags. `full`: it holds the 64 journal entries of an
overwritten band, else the one of a band that was added to (R303). -/
structure BandImage where
  band : Nat
  full : Bool
  main : Store
  shadow : Store
  tags : Table (Nat × BitVec 4)
deriving DecidableEq, Repr

/-- An open epoch (R194, R301). -/
structure Epoch where
  /-- Checkpoint of each dependent stream, in the order C, LD, MX, VX, ST. -/
  snaps : Vector (Option Snap) 5
  rows : List JRow
  /-- Tainted granules of 128 bytes, by number in the RS window (R197). -/
  taint : List Nat
  /-- Predicates that a dependent instruction wrote, with the value to restore. -/
  preds : List (Nat × BitVec 1024)
  /-- VL or views were written by a dependent instruction. -/
  vlTaint : Bool
  viewTaint : Bool
  /-- Clean tokens and queue entries that dependent streams popped: counters in the order of R26, then
  the format queue and the LD, VX and ST parameter queues. -/
  popped : Vector Nat 10
  qpopped : Vector Nat 4
  /-- Bands as they stood before dependent commands touched them, in both stores (R303). -/
  bands : List BandImage
  /-- Tile commands issued in the epoch (R303). -/
  tiles : Nat
deriving DecidableEq, Repr

/-- An epoch that has just opened. -/
def Epoch.fresh : Epoch :=
  { snaps := Vector.replicate 5 none, rows := [], taint := [], preds := [], vlTaint := false, viewTaint := false
    popped := Vector.replicate 10 0, qpopped := Vector.replicate 4 0, bands := [], tiles := 0 }

/-- A commit-buffer entry: the physical block of 128 bytes, the bytes held, whose verdict it awaits and
the classes of its stores, each with its widest scope (R198; log entry 51). -/
structure CbEntry where
  block : Nat
  /-- The bytes held, each with the class of the store that it is of. -/
  cells : List (Nat × Byte × Fin 16)
  dep : Dep
  classes : List (Fin 16 × Scope)
  /-- It has an uncorrectable error: what reads it finds poison (R211). -/
  bad : Bool
  /-- The key of its page, whether that is a device page, and the address of its first byte as the task names it. -/
  pageKey : BitVec 8
  device : Bool
  va : Word
  /-- The retention hint of its latest store (R221). -/
  hint : Hint
deriving DecidableEq, Repr

/-! ## Collective state of a member (R294, R296, R300, R308) -/

/-- Site of a fold: kind (0 to 2 `CBR` by op, 3 `XCOLL`) and pc[15:0] (R297). -/
abbrev Site := BitVec 18

/-- What a fold answers a member: the result with the departed count, or a trap (R296, R305). -/
inductive FoldRes where
  | result (taken : Bool) (departed : Nat)
  | trap (cause : BitVec 8) (val : Word)
deriving DecidableEq, Repr

/-- The member's fold that awaits its result (R296, R308). -/
structure Fold where
  seq : BitVec 16
  site : Site
  pc : Word
  target : Word
  fall : Word
  /-- The prediction, when speculating (R300). -/
  guess : Option Bool
  /-- NSTIME of the contribution (R305). -/
  since : Nat
  /-- The exchange the fold starts, for `XCOLL` (R308). -/
  coll : Option (BitVec 16)
  /-- What the fold answered, not yet taken by the instruction that waits for it. -/
  res : Option FoldRes
deriving DecidableEq, Repr

/-- An `XCOLL` in flight (R308, R310, R312). -/
structure Exchange where
  seq : BitVec 16
  site : Site
  hash : BitVec 32
  /-- Layout descriptors and operands. -/
  srcDesc : List Byte
  dstDesc : List Byte
  red : RedCopy
  ty : ElemTy
  src : Bound
  dst : Bound
  /-- Physical address of the barrier descriptor. -/
  barAddr : Nat
  /-- The member's step counter at the exchange's first step. -/
  step : BitVec 16
  /-- The fold returned and the bytes are moving. -/
  moving : Bool
  /-- NSTIME of the issue. -/
  since : Nat
  /-- Tokens still to pay, by die (R325). -/
  due : List Nat
  /-- What other members have sent for bytes of the destination block: the member, the place in the block, the byte (R312). -/
  far : List (Nat × Nat × Byte)
  /-- The source block as it was read, with the number of its sectors read as zeros, and the members of this package to whom packets of
  it have still to go. -/
  block : Option (List Byte × Nat)
  out : List Nat
deriving DecidableEq, Repr

/-- Collective registers of a member (R294, R300, R312). -/
structure CollSt where
  fold : Option Fold
  /-- Result, departed count and site of the last completed fold. -/
  last : Bool
  departed : Nat
  site : BitVec 16
  /-- Prediction entries by index: tag and outcome (R300). -/
  predict : List (Nat × BitVec 6 × Bool)
  step : BitVec 16
  exchanges : List Exchange
deriving DecidableEq, Repr

/-- No fold, no exchange. -/
def CollSt.empty : CollSt :=
  { fold := none, last := false, departed := 0, site := 0, predict := [], step := 0, exchanges := [] }

/-! ## Launch packets, tasks and contexts -/

/-- The fields of an accepted LAUNCH packet (R80). -/
structure Launch where
  priority : Nat
  /-- Flags: time slice, POLL delivery, speculation, forward-on-drain. -/
  slice : Bool
  poll : Bool
  spec : Bool
  forward : Bool
  count : Nat
  team : Nat
  node : BitVec 32
  entry : Word
  args : Word
  rsBytes : Nat
  spBytes : Nat
  amBanks : Nat
  cap : Nat
  journal : Nat
  /-- Ratio request and floors (0x2C), weights (0x30). -/
  ratio : BitVec 32
  weights : BitVec 16
  degrade : Bool
  fill : Byte
  dependence : Nat
  group : BitVec 16
  /-- Group timeout in nanoseconds. -/
  timeout : Nat
  members : Nat
  firstMember : Nat
  mask : Nat
  saveArea : Word
  discards : List (Nat × Nat)
  cplAddr : Word
  cplValue : BitVec 32
deriving DecidableEq, Repr

/-- No packet: every field zero. -/
def Launch.none : Launch :=
  { priority := 0, slice := false, poll := false, spec := false, forward := false, count := 0, team := 0
    node := 0, entry := 0, args := 0, rsBytes := 0, spBytes := 0, amBanks := 0, cap := 0, journal := 0
    ratio := 0, weights := 0, degrade := false, fill := 0, dependence := 0, group := 0, timeout := 0
    members := 0, firstMember := 0, mask := 0, saveArea := 0, discards := [], cplAddr := 0, cplValue := 0 }

/-- Who the task is (R74, R291): partition, acceptance number, instance. -/
structure Ident where
  part : Part
  seq : BitVec 32
  inst : BitVec 32
deriving DecidableEq, Repr

/-- The windows of the task on its core: core offsets and sizes (R127, R217, R196). -/
structure Windows where
  rsBase : Nat
  rsSize : Nat
  spBase : Nat
  spSize : Nat
  jBase : Nat
  jSize : Nat
deriving DecidableEq, Repr

/-- A trap that waits in the pending list: cause word, value and stream word as trap entry would write
them (R333, R342). -/
structure Pend where
  cause : Word
  val : Word
  stream : Word
deriving DecidableEq, Repr

/-- What trap entry writes (R332). -/
structure TrapRec where
  cause : Word
  pc : Word
  val : Word
  stream : Word
deriving DecidableEq, Repr

/-- A grant between instances of a node that does not stand on a core now, because one of the two is swapped out: the other
instance, the bands as a mask, and whether this instance made it (R168, R187). -/
structure Owed where
  inst : Nat
  bands : Nat
  made : Bool
deriving DecidableEq, Repr

/-- A posted access that a home or a bank has dropped: what its report says, its class and the die of its home (R237, R289). -/
structure Dropped where
  cause : BitVec 8
  va : Word
  cls : Fin 16
  die : Nat
deriving DecidableEq, Repr

/-- What a fetch that had to wait has got: the stream, the word's address, and the word, or the cause of its fault (R237). -/
structure FetchAnswer where
  stream : Stream
  va : Word
  word : Option Nat
  cause : BitVec 8
deriving DecidableEq, Repr

/-- The posted requests and pending home writes of a context, per class (R267, R272). -/
structure OrderSt where
  /-- Sectors pending at their homes that the context wrote or read, with the class. -/
  sectors : List (Nat × Nat)
  /-- Posted accesses dropped from a home fault queue, to be reported (R237). -/
  dropped : List Dropped
  /-- The access that a waiting instruction had parked was dropped: cause and address (R237). -/
  answer : Option (BitVec 8 × Word)
  /-- What the access of the waiting instruction has read, now that it has performed (R289). -/
  result : Option Nat
  /-- Serial numbers of `RED`s that no home has registered yet (R282). -/
  unregistered : List Nat
  /-- What fetches that waited have got (R237, R325). -/
  fetched : List FetchAnswer
deriving DecidableEq, Repr

/-- Nothing outstanding. -/
def OrderSt.none : OrderSt := { sectors := [], dropped := [], answer := Option.none, result := Option.none, unregistered := [], fetched := [] }

/-- A hardware context. -/
structure Ctx where
  key : CtxKey
  /-- A task holds the context. -/
  live : Bool
  ident : Ident
  launch : Launch
  win : Windows
  c : CRegs
  sys : SysRegs
  p : Vector (BitVec 1024) 16
  vx : VRegs
  mx : MRegs
  ld : CopySt
  st : CopySt
  streams : Vector StreamSt 5
  /-- The ten token counters in the order of R26, each token with what its push depended on. -/
  tok : Vector (List Dep) 10
  /-- Format queue, then the LD, VX and ST parameter queues. -/
  queues : Vector Queue 4
  handles : Vector (Option Mapping) 60
  releases : List Release
  ver : Option Epoch
  spec : Option Epoch
  cb : List CbEntry
  coll : CollSt
  pend : List Pend
  order : OrderSt
  /-- A double trap whose end of the task waits for a verdict (R334). -/
  ending : Option TrapRec
  /-- Grants with instances that are swapped out. -/
  owed : List Owed
deriving DecidableEq, Repr

/-! ## Cores -/

/-- A line of a cache: its number, its way, and whether its hint is sticky (R221). -/
structure CLine where
  line : Nat
  way : Nat
  sticky : Bool
deriving DecidableEq, Repr

/-- A cache: by set, its lines with the most recently used first (R12, R221). -/
abbrev Cache := Table (List CLine)

/-- A sector in the commutative-update state at one level: its key and the exact contributions held there, each at an address with
its bytes; `below` is who of the next lower level has registered: cores at a die, dies at the home (R283, R284). -/
structure RedSector where
  sector : Nat
  op : RedOp
  dbl : Bool
  terms : List (Nat × List Byte)
  below : List Nat
deriving DecidableEq, Repr

/-- A physical error of an array's adder: what it adds besides the products to the sum of an output element of a chain, in units of
the sum's last place (R372). -/
structure Stuck where
  shadow : Bool
  row : Nat
  col : Nat
  err : Int
deriving DecidableEq, Repr

/-- A core of the package (R8, R162, R164, R190, R191, R210, R220, R272, R283). -/
structure Core where
  main : Store
  shadow : Store
  /-- Owner of each band not free, as (band, context). -/
  owner : List (Nat × Nat)
  /-- Drain rights: (band, owner, grantee). -/
  grants : List (Nat × Nat × Nat)
  /-- Base tags of slots: residue and flags (R190). -/
  tags : Table (Nat × BitVec 4)
  mainFailed : Bool
  shadowFailed : Bool
  /-- Stuck digits of the two arrays' adders. The part makes none; they are physical errors that a state is given (R372; log entry
  8). -/
  stuck : List Stuck
  /-- A residue failure or the boot self-test has marked it: no new team is placed on it (R210, R367). -/
  degraded : Bool
  /-- Read-only-path sectors with the bytes they hold (R220). -/
  roLines : List (Nat × List Byte)
  /-- Words of the L1 instruction cache by physical address (R220). -/
  icache : List (Nat × Nat)
  /-- C TLB: partition, virtual base and size of the page, and its leaf (R228). -/
  tlb : List (Part × Nat × Nat × Nat)
  /-- Slices and dies posted to per class since the last flush: (class, die, slice) (R272). -/
  posted : List (Nat × Nat × Nat)
  /-- For each context's streams that are ready, by 5·context + stream, the number of the slot since which they are (R94). -/
  readySince : Table Nat
  /-- Lines of the L1 data cache, by set (R12, R221), and the sectors that it holds coherently (R220). -/
  l1d : Cache
  l1s : List Nat
  /-- The reduction buffer, most recently used first (R283). -/
  red : List RedSector
deriving DecidableEq, Repr

/-- A core at module reset (log entry 4). -/
def Core.init : Core :=
  { main := .empty, shadow := .empty, owner := [], grants := [], tags := [], mainFailed := false
    shadowFailed := false, stuck := [], degraded := false, roLines := [], icache := [], tlb := [], posted := [], readySince := [], l1d := [], l1s := [], red := [] }

/-! ## Partitions, rings, nodes and teams -/

/-- A partition (R358 to R360). -/
structure Partition where
  p : Part
  /-- Clusters owned, as a 96-bit mask. -/
  clusters : Nat
  device : Nat
  quantumMs : Nat
  ways : BitVec 16
  hbmBase : Nat
  hbmSize : Nat
  powerShare : Nat
  firstKey : Nat
  keyCount : Nat
  root : Nat
  spill : Nat
  spillSize : Nat
  shares : List Nat
  dspBase : List Nat
  dspSize : List Nat
  /-- Cluster masks of launch selectors 1 to 15, empty where not listed. -/
  masks : Table Nat
  /-- Acceptance sequence number of the next LAUNCH (R74). -/
  nextSeq : BitVec 32
  /-- Pre-arrival credits by node id, at most 1,024 ids (R87). -/
  credits : Table Nat
deriving DecidableEq, Repr

/-- A submission ring (R77, R78). -/
structure Ring where
  base : Word
  en : Bool
  logsize : Nat
  head : BitVec 32
  err : BitVec 32
  index : Nat
  phase : Bool
  /-- The fetcher runs until it finds no packet. -/
  awake : Bool
deriving DecidableEq, Repr

/-- A ring at reset (R77). -/
def Ring.init : Ring :=
  { base := 0, en := false, logsize := 0, head := 0, err := 0, index := 0, phase := false, awake := false }

/-- A doorbell whose owner is swapped out: its number, the SP window offset of the ring's descriptor, where its slot array
stood, data writes that peers lost, and the counts held (R260). -/
structure Bell where
  db : Nat
  desc : Nat
  arrayPa : Nat
  arrayLen : Nat
  lost : Nat
  posts : List Nat
deriving DecidableEq, Repr

/-- What a swapped-out member keeps beside its save block (R238, R260, R314): its mappings, what its ports and folds hold,
pushes that wait for room, bound doorbells, and for its placement the bands it owned and the instances that it shared
grants with (R187). -/
structure Keep where
  handles : Vector (Option Mapping) 60
  releases : List Release
  order : OrderSt
  coll : CollSt
  pushes : Vector (List Push) 5
  bells : List Bell
  bands : List Nat
  partners : List Nat
  /-- The signature that `VSIG` reads (R209). -/
  signature : Word
  /-- The physical address of the SP window, and NSTIME, at the save: timers stand still from then on (R305, R314). -/
  spAt : Nat
  savedAt : Nat
deriving DecidableEq, Repr

/-- Where a member of a team is (R71, R73, R75, R344). -/
inductive MemberSt where
  | waiting
  | resident (k : CtxKey)
  | saved (keep : Keep)
  | ended
deriving DecidableEq, Repr

/-- A team of a node: its members in instance order (R72, R73). -/
structure Team where
  members : List MemberSt
  /-- It waits in a queue. -/
  queued : Bool
  /-- Place in its queue: order of entry, and NSTIME since it waits (R89, R90). -/
  order : Nat
  since : Nat
  /-- Its node's members start with EVT.GRAPH set (R86). -/
  graph : Bool
  /-- Order of placement and NSTIME at which the slice began (R91, R92). -/
  placed : Nat
  sliceAt : Nat
  /-- NSTIME at which the preemption was decided, if it was (R91, R92). -/
  preempt : Option Nat
  /-- Its streams have stopped for the save (R340). -/
  stopping : Bool
  /-- Effective priority levels gained by aging (R90). -/
  aged : Nat
  /-- Its grant of four nibbles (R319). -/
  grant : BitVec 16
deriving DecidableEq, Repr

/-- A node of a partition (R72, R86). -/
structure Node where
  part : Part
  id : BitVec 32
  launch : Launch
  seq : BitVec 32
  pending : Nat
  extra : Nat
  admitted : Bool
  teams : List Team
  /-- Where its packet came from, for a failed completion (R81): ring and packet index. -/
  ring : RingId
  index : BitVec 32
deriving DecidableEq, Repr

/-! ## Groups and folds (R292, R298) -/

/-- A contribution that waits at its die's fold unit (R298). -/
structure Vote where
  member : Nat
  die : Nat
  val : Bool
  site : Site
  /-- The shape hash of an `XCOLL` (R313). -/
  hash : BitVec 32
deriving DecidableEq, Repr

/-- One open fold instance of a group, as the package knows it (R297, R298). -/
structure FoldInst where
  seq : BitVec 16
  /-- Site and hash received first. -/
  site : Site
  hash : BitVec 32
  /-- Contributions as (member, value) that the package unit counted, and those still at their die. -/
  votes : List (Nat × Bool)
  atDie : List Vote
  /-- Contributions that other packages' partials are made of. -/
  far : List (Nat × Bool)
  /-- Members whose contributions went on to the package of member 0. -/
  sent : List Nat
  /-- Packages that sent partials and await the result. -/
  peers : List (BitVec 16)
  /-- The result, once every member contributed or departed, with the departed count. -/
  result : Option (Bool × Nat)
deriving DecidableEq, Repr

/-- What ends an exchange for members that have not yet taken it (R312 to R314). -/
inductive ExchangeEnd where
  | poison | timer
  /-- With the hash of a member whose exchange is over already. -/
  | shape (hash : BitVec 32)
deriving DecidableEq, Repr

/-- A group's entry in the package (R292, R293). -/
structure Group where
  part : Part
  id : BitVec 16
  size : Nat
  /-- The package holds member 0, so that folds complete here (R298). -/
  first : Bool
  departed : List Nat
  /-- Departed members that the group's other packages know, and whether they know that a member here stands still. -/
  told : List Nat
  toldStill : Bool
  /-- Packages on which a member stood still when they last sent a fold message (R305). -/
  still : List (BitVec 16)
  /-- Exchanges that have ended, and the members that have still to take it. -/
  ended : List (BitVec 16 × List Nat × ExchangeEnd)
  broken : Bool
  /-- The fold whose sites mismatched, with the site first received, and the fold whose shape hashes mismatched (R297, R313). -/
  badSite : Option (BitVec 16 × Site)
  badShape : Option (BitVec 16)
  folds : List FoldInst
  /-- Result, departed count and sequence number of the last completed fold. -/
  last : Option (BitVec 16 × Bool × Nat)
deriving DecidableEq, Repr

/-! ## Memory side (R220 to R224, R237, R267, R272, R284, R287) -/

/-- A replica of a sector on a die; `old` is what it still holds while a write is pending at the home. -/
structure Replica where
  die : Nat
  sector : Nat
  old : Option (List Byte)
deriving DecidableEq, Repr

/-- A flush marker not yet answered: the core and context that wait, the class, the die and slice. -/
structure Marker where
  serial : Nat
  core : Nat
  /-- Sent for DEVICE or SYSTEM scope: answered only after the writes have completed at their homes. -/
  wide : Bool
  cls : Nat
  die : Nat
  slice : Nat
deriving DecidableEq, Repr

/-- Whose requests a port holds together: a copy command's, those for the index bytes of the `XGTH` at a stream's pc, or an
exchange's. -/
inductive Payer where
  | copy (t : CopyStream) (seq : BitVec 32)
  | index (t : CopyStream)
  | exchange (seq : BitVec 16)
deriving DecidableEq, Repr

/-- What a request does when it performs. -/
inductive ReqKind where
  /-- A read of `n` bytes that an instruction waits for, by the read-only path or not. -/
  | load (n : Nat) (ro : Bool)
  /-- A read of a word of code that a stream waits for. -/
  | fetch (t : Stream)
  /-- A merge of a reduction sector that an instruction waits for (R284, R289). -/
  | merge
  /-- The place of a copy command's or an exchange's requests in the order of its port: how many they are stands with it (R325). -/
  | dues (p : Payer)
  /-- Bytes of an exchange, read or written (R310). -/
  | xbytes (seq : BitVec 16) (reads : Bool)
  /-- A posted write of bytes, each at its physical address. -/
  | store (cells : List (Nat × Byte))
  /-- An atomic of `n` bytes with operand `v`, whose old value an instruction waits for or not. -/
  | amo (op : AmoOp) (n v : Nat) (ret : Bool)
  /-- A compare of `n` bytes with `e` and a write of `v`. -/
  | cas (n e v : Nat)
  /-- A contribution. -/
  | red (op : RedOp) (dbl : Bool) (v : Nat)
  /-- Bytes of a copy command, or index bytes of the one that is next to issue: read, or written, where it may combine. -/
  | copy (t : CopyStream) (seq : BitVec 32) (reads comb : Bool)
deriving DecidableEq, Repr

/-- A request on its way to its home: held at its core's port, or parked in the home's fault queue (R237, R289, R325). -/
structure Parked where
  serial : Nat
  die : Nat
  slice : Nat
  part : Part
  addr : Nat
  va : Word
  pageKey : BitVec 8
  /-- It came through a device page (R226), and its retention hint (R221). -/
  device : Bool
  hint : Hint
  /-- The instruction that sent it has been rolled back: nobody takes its answer (R327). -/
  gone : Bool
  /-- NSTIME at which it was held or parked. -/
  since : Nat
  /-- The context that issued it. -/
  key : CtxKey
  cls : Fin 16
  /-- It met a poisoned line. -/
  poison : Bool
  kind : ReqKind
deriving DecidableEq, Repr

/-- An entry of a duplicate table (R287), with the task whose step it serves: partition, node and member. -/
structure DupEntry where
  part : Part
  /-- Which packet of its source for the sector it is, where more than one is needed (log entry 52). -/
  packet : Nat
  node : BitVec 32
  inst : Nat
  unit : Nat
  collective : BitVec 16
  step : BitVec 16
  sector : Nat
  source : BitVec 32
deriving DecidableEq, Repr

/-- A die's slice map and L2 settings (R222, R224). -/
structure SliceMap where
  map : Vector Nat 64
  gen : BitVec 16
  remways : Nat
  sticky : BitVec 32
  retired : List Nat
  /-- Entries of the map that are being moved, each with its new slice: what reaches them is parked (R237, R289). -/
  moving : List (Nat × Nat)
  /-- Lines of the die's slices, by 256·slice + set (R12, R221, R222). -/
  l2 : Cache
deriving DecidableEq, Repr

/-- Memory-side state. -/
structure MemSide where
  poisoned : List Nat
  /-- Sectors with a correctable error not yet met (R211). -/
  weak : List Nat
  /-- 32-bit words of register spaces, by physical address, whose value disagrees with its residue (R210). -/
  badWords : List Nat
  replicas : List Replica
  pending : List Nat
  markers : List Marker
  parked : List Parked
  /-- Requests held at their cores' ports, in order (R325, R327). -/
  held : List Parked
  /-- The key under which HBM holds each sector, where it is not plaintext (R225). -/
  sealed : Table (Option (BitVec 512))
  maps : Vector SliceMap 6
  /-- Reduction sectors at their homes, and partials at the die level: die, slice, partial, oldest first (R283). -/
  red : List RedSector
  redDie : List (Nat × Nat × RedSector)
  dups : List DupEntry
  dupCount : Vector Nat 6
  /-- Doorbells bound: partition, number, physical address of the ring descriptor, its owner (R260). -/
  doorbells : List (Part × Nat × Nat × CtxKey)
deriving DecidableEq, Repr

/-! ## Power and bandwidth (R315 to R327) -/

/-- Praline's power table in milliwatts: a fixed cost, the cost of MX and VX of cluster c at nibble n under key
16·c + n, and of NET and MEM of die d under 16·d + n (R317). -/
structure PowerTable where
  fixed : Nat
  mx : Table Nat
  vx : Table Nat
  net : Table Nat
  mem : Table Nat
deriving DecidableEq, Repr

/-- A cluster's island (R315, R322, R324). -/
structure Island where
  mx : BitVec 4
  vx : BitVec 4
  gen : BitVec 8
  /-- Lock window: NSTIME at which it opened. -/
  lock : Option Nat
  holders : List CtxKey
  /-- NSTIME at which the rest after a lock ends. -/
  restUntil : Option Nat
  /-- NSTIME of the last evaluation. -/
  evalAt : Nat
  /-- VX cycles counted before NSTIME `since`. -/
  cycles : Nat
  since : Nat
deriving DecidableEq, Repr

/-- An island at module reset. -/
def Island.init : Island :=
  { mx := 0, vx := 0, gen := 0, lock := none, holders := [], restUntil := none, evalAt := 0, cycles := 0, since := 0 }

/-- Bucket state of a partition on a die (R325 to R327). -/
structure Bucket where
  balance : Nat
  allot : Nat
  sectors : Nat
  throttled : Nat
  bonus : Nat
  /-- It held a request for lack of a token in the current period. -/
  starved : Bool
deriving DecidableEq, Repr

/-- An empty bucket. -/
def Bucket.zero : Bucket := ⟨0, 0, 0, 0, 0, false⟩

/-- Power and bandwidth state. -/
structure PowerSt where
  cap : Nat
  table : PowerTable
  islands : Table Island
  /-- NET and MEM nibbles per die. -/
  net : Vector (BitVec 4) 6
  mem : Vector (BitVec 4) 6
  /-- Thermal limit per die, percent of its full-ratio cost. -/
  limit : Vector (Option Nat) 6
  /-- Buckets by partition·6 + die; refills per die. -/
  buckets : Table Bucket
  periods : Vector Nat 6
  /-- Eighths of NET cycles counted before NSTIME `netAt`, per die (R326). -/
  netEighths : Vector Nat 6
  netAt : Vector Nat 6
  /-- Partitions with an evaluation due (R320). -/
  due : List Part
  /-- The floors of the resident teams do not fit: every team has its floors until the saves are done (R320). -/
  shed : Bool
deriving DecidableEq, Repr

/-! ## Links and management (R348 to R368) -/

/-- A flit that a link carries: its channel, its payload, and the die that it is bound for where it has come by a detour (R350). -/
structure Transit where
  ordered : Bool
  payload : List Byte
  dest : Option Nat
deriving DecidableEq, Repr

/-- One direction of a link (R348, R349). -/
structure LinkSt where
  up : Bool
  /-- Lanes in use, and spares left. -/
  lanes : Nat
  spares : Nat
  /-- Next sequence number to send, and the lowest not yet delivered. -/
  nextSend : BitVec 12
  nextRecv : BitVec 12
  /-- The sender's unacknowledged flits by number; numbers and contents of flits that the receiver holds; numbers of flits delivered before
  an earlier one. -/
  replay : List (BitVec 12 × Transit)
  heldFlits : List (BitVec 12 × Transit)
  early : List (BitVec 12)
  /-- What has been delivered, newest last; flits of a link that went down, which wait to be sent on this one (R350). -/
  delivered : List Transit
  queue : List Transit
  /-- Flits asked for again, with their failures in a row, and those resent. -/
  wanted : List (BitVec 12 × Nat)
  resent : List (BitVec 12)
deriving DecidableEq, Repr

/-- A direction after training. -/
def LinkSt.init : LinkSt :=
  { up := true, lanes := 64, spares := 2, nextSend := 0, nextRecv := 0, replay := [], heldFlits := [], early := []
    delivered := [], queue := [], wanted := [], resent := [] }

/-- Source of a log entry (R364). -/
inductive LogSource where
  | ecc | naming | residue | lane | link | duplicate | watchdog | doubleTrap | thermal | saveFault | failover
  | cplFault | signature
deriving DecidableEq, Repr

/-- An entry of the error log, with 32 bytes of detail (R364). -/
structure LogEntry where
  nstime : Nat
  die : Nat
  core : Nat
  source : LogSource
  detail : List Byte
deriving DecidableEq, Repr

/-- Stage of a firmware update (R365). -/
inductive UpdateStage where
  | idle | requested | tablePassed
  | updating (c : Component)
  | verified (c : Component) (version : Nat)
deriving DecidableEq, Repr

/-- A restart of the die controllers on a new image: the followers that have still to restart, the die that restarts with NSTIME at which it
is done, the followers done, and whether the leader's turn has come (R365). -/
structure Restart where
  version : Nat
  left : List Nat
  now : Option (Nat × Nat)
  updated : List Nat
  leader : Bool
deriving DecidableEq, Repr

/-- What a configuration request got: Configuration Request Retry Status, or a value (R355, R367). -/
inductive CfgAnswer where
  | retry
  | value (v : Nat)
deriving DecidableEq, Repr

/-- Vemund and the part's management state (R354, R362 to R368). -/
structure MgmtSt where
  mode : Mode
  pkgid : BitVec 16
  routes : List Route
  /-- Keys installed, as (index, value). -/
  keys : List (BitVec 8 × BitVec 512)
  activeDie : Nat
  missed : Nat
  log : List LogEntry
  /-- Entries already mirrored to flash. -/
  flash : List LogEntry
  /-- Readings of the thermal sensors, by 8·die + sensor, and of the voltage monitors, by rail. -/
  temps : Table Int
  volts : Table Int
  lastRead : Option Int
  /-- What the host's last read of the log, the firmware's last read of an L2REMOTE register (R4) and the last TAP access got. -/
  logRead : List LogEntry
  remoteRead : Option Word
  tapRead : Option Nat
  update : UpdateStage
  /-- Active version of each component: Vemund, die controllers, power table, Nougat. -/
  versions : Vector Nat 4
  /-- Images that wait for their moment, by component, and a restart of the die controllers. -/
  pendingVersions : Vector (Option Nat) 4
  restart : Option Restart
  /-- Interrupts raised, as (function, vector), and completions of host reads. -/
  msix : List (Nat × Nat)
  hostData : Option (List Byte)
  /-- What the last configuration request got (R367). -/
  cfgAnswer : Option CfgAnswer
  /-- The MSI-X tables, as 32-bit words by 8·function + word; `none` is a word not written (R356). -/
  msixTable : Table (Option (BitVec 32))
  /-- A PARTITION-CONFIG packet that has been accepted and not completed: its ring, index and bytes (R228, R360). -/
  waiting : Option (RingId × BitVec 32 × Packet)
  /-- Clusters whose Nougat failed its self-test, and the second of NSTIME of the last self-test (R213). -/
  nougatBad : List Nat
  testedAt : Nat
  /-- Nougat's queue per cluster is in arrival order: contexts awaiting arbitration. -/
  nougat : List CtxKey
  lease : Nat
  leaseUntil : Nat
  deadDies : List Nat
  /-- HBM stacks that failed their training or test, and whether the part's ports and stacks are trained (R367, R368). -/
  badStacks : List Nat
  trained : Bool
  booted : Bool
  poweredOff : Bool
  frozen : Bool
deriving DecidableEq, Repr

/-- A scale-out peer (R362). -/
structure Peer where
  id : BitVec 16
  nextSend : BitVec 32
  nextRecv : BitVec 32
  /-- Packets sent and not acknowledged, with the NSTIME of the last sending. -/
  unacked : List (BitVec 32 × Nat × ScaleMsg)
deriving DecidableEq, Repr

/-- A scale-out frame handed to a port: the port, the frame's type, the peer package, the packet's number and what it carries (R362). -/
structure Frame where
  port : Fin 12
  etherType : BitVec 16
  peer : BitVec 16
  seq : BitVec 32
  msg : ScaleMsg
deriving DecidableEq, Repr

/-- What the package has heard of a group for which it has no entry: messages with their senders, kept until it has one; the group's size,
where the package had an entry before (R292, R293, R298; log entry 60). -/
structure Absent where
  id : BitVec 16
  size : Option Nat
  heard : List (BitVec 16 × ScaleMsg)
deriving DecidableEq, Repr

/-- Network state. -/
structure NetSt where
  links : Vector LinkSt 14
  /-- LFSRs of injection ports that have shifted since module reset; the others hold their seeds (R352). -/
  lfsr : Table (BitVec 16)
  peers : List Peer
  /-- Frames sent, newest last, and the type that they have (R362). -/
  frames : List Frame
  etherType : BitVec 16
  absent : List Absent
deriving DecidableEq, Repr

/-- A move of the interleaving: one instruction of a stream, or a step of the part (log entry 1). -/
inductive Move where
  | run (k : CtxKey) (s : Stream)
  /-- One step of a copy command: a unit of its bytes moves (R241). -/
  | copy (k : CtxKey) (t : CopyStream) (n : BitVec 32)
  | ev (i : Instr)
  /-- Privileged firmware writes REMWAYS of a die, or reads its L2REMOTE (R4, R224). -/
  | remways (die : Nat) (v : BitVec 4)
  | readRemote (die : Nat)
deriving DecidableEq, Repr

/-- The package. -/
structure State where
  /-- The context whose instruction runs, and its stream (log entry 1). -/
  ctx : Ctx
  stream : Stream
  /-- The other contexts that hold a task, or have held one: the registers of a context stay until its next task (R375). -/
  others : List Ctx
  cores : Table Core
  mem : Memory
  ms : MemSide
  parts : List Partition
  rings : List (RingId × Ring)
  nodes : List Node
  groups : List Group
  pw : PowerSt
  net : NetSt
  mg : MgmtSt
  nstime : Nat
  /-- Counter of free values used (log entry 9). -/
  fresh : Nat
  /-- Order counter of queue entries, placements, checkpoints and mappings. -/
  serial : Nat
  /-- Moves fixed from outside, taken first; `turn` rotates among the others (log entry 1). -/
  agenda : List Move
  turn : Nat
deriving DecidableEq, Repr

/-! ## Reset -/

/-- A context's C registers while no task holds it (log entry 4). -/
def CRegs.init : CRegs :=
  { x := Vector.replicate 64 0, badX := 0, stack := [], stackbase := 0, trapcause := 0, trappc := 0, trapval := 0, trapvec := 0
    trapstream := 0, yielding := false, sleeping := false, foldSeq := 0, left := false, vwait := none }

/-- Launch values of the other special registers (R96, R253, R258). -/
def SysRegs.init : SysRegs :=
  { evt := 0, evtmask := 0x3F, integCount := 0, lastVerdict := 0, drains := 0, verdicts := 0
    swz := Vector.replicate 8 0, barbase := 0x00FF000000000000, slbase := 0x00FF000000000800, ratiogrant := 0
    pkgid := 0xFFFF }

/-- Launch values of the vector registers (R71, R129, R134 to R136). -/
def VRegs.init : VRegs :=
  { v := Vector.replicate 32 0, vs := Vector.replicate 8 0, vl := 0, flags := Vector.replicate 128 0 }

/-- Launch values of the matrix registers (R185). -/
def MRegs.init : MRegs :=
  { mxflags := 0, chain := none, chainAt := 0, drain := none, dispute := none, spanLog := [], spanProducts := [], spanBands := 0
    opRows := [], opJournal := [], signature := 0, pointFailed := false }

/-- Launch values of a copy stream's registers (R239). -/
def CopySt.init : CopySt :=
  { o := Vector.replicate 16 0, sh := Vector.replicate 8 (0, 0), issued := 0, doneseq := 0, flight := [], early := [], indexDue := none }

/-- The four queues, empty (R122). -/
def Queue.all : Vector Queue 4 := #v[Queue.empty 32, Queue.empty 16, Queue.empty 16, Queue.empty 16]

/-- A context with no task (log entry 4). -/
def Ctx.idle (k : CtxKey) : Ctx :=
  { key := k, live := false, ident := ⟨0, 0, 0⟩, launch := .none, win := ⟨0, 0, 0, 0, 0, 0⟩, c := .init, sys := .init
    p := Vector.replicate 16 0, vx := .init, mx := .init, ld := .init, st := .init
    streams := Vector.replicate 5 .idle, tok := Vector.replicate 10 [], queues := Queue.all
    handles := Vector.replicate 60 none, releases := [], ver := none, spec := none, cb := [], coll := .empty
    pend := [], order := .none, ending := none, owed := [] }

/-- A die's slice map at reset: entry `i` names slice `i mod 16` (R224; log entry 12). -/
def SliceMap.init : SliceMap :=
  { map := Vector.ofFn fun i : Fin 64 => i.val % 16, gen := 0, remways := 4, sticky := 0, retired := [], moving := [], l2 := [] }

/-- Memory-side state at reset. -/
def MemSide.init : MemSide :=
  { poisoned := [], weak := [], badWords := [], replicas := [], pending := [], markers := [], parked := [], held := [], sealed := []
    maps := Vector.replicate 6 .init, red := [], redDie := [], dups := [], dupCount := Vector.replicate 6 0, doorbells := [] }

/-- The power table at module reset: no cost until boot loads one (log entry 13). -/
def PowerTable.zero : PowerTable :=
  { fixed := 0, mx := [], vx := [], net := [], mem := [] }

/-- Power state at reset: the cap is 4.0 kW and every island runs at nibble 0 (R15, R315). -/
def PowerSt.init : PowerSt :=
  { cap := 4000, table := .zero, islands := [], net := Vector.replicate 6 0, mem := Vector.replicate 6 0
    limit := Vector.replicate 6 none, buckets := [], periods := Vector.replicate 6 0
    netEighths := Vector.replicate 6 0, netAt := Vector.replicate 6 0, due := [], shed := false }

/-- Management state right after module reset, before boot (R367; log entry 14). -/
def MgmtSt.init : MgmtSt :=
  { mode := .mode1, pkgid := 0xFFFF, routes := [], keys := [], activeDie := 0, missed := 0, log := [], flash := []
    temps := [], volts := [], lastRead := none, logRead := [], remoteRead := none, tapRead := none, update := .idle
    versions := Vector.replicate 4 0, pendingVersions := Vector.replicate 4 none, restart := none
    msix := [], hostData := none, cfgAnswer := none, msixTable := [], waiting := none, nougatBad := [], testedAt := 0, nougat := []
    lease := 0, leaseUntil := 5000000, deadDies := [], badStacks := [], trained := false
    booted := false, poweredOff := false, frozen := false }

/-- Network state at reset: links up at full width once they train (R352, R367). -/
def NetSt.init : NetSt := { links := Vector.replicate 14 .init, lfsr := [], peers := [], frames := [], etherType := 0x88B5, absent := [] }

/-- The package right after module reset: no partition, no task, memory with nothing listed, boot to come (R367; log
entries 2, 4 and 14). -/
def State.reset : State :=
  { ctx := .idle ⟨0, 0⟩, stream := .c, others := [], cores := [], mem := [], ms := .init, parts := [], rings := []
    nodes := [], groups := [], pw := .init, net := .init, mg := .init, nstime := 0, fresh := 0, serial := 0
    agenda := [], turn := 0 }

/-! ## How a step stops -/

/-- Why a step faults. -/
inductive Fault where
  /-- Raised by `step` when FREEZE has stopped every clock or a thermal shutdown has removed power: a
  frozen part leaves only through module reset (R363, R368). Safe: the hardware does nothing either. -/
  | stopped
deriving DecidableEq, Repr

/-- Why a step is refused. -/
inductive Refusal where
  /-- Raised by `exec` for an instruction that has no meaning in this model. Safe: nothing is claimed of it. -/
  | notModelled (mnemonic : String)
deriving DecidableEq, Repr

end Sys2Proof.Machine
end

