-- ==== Sys2Proof/Machine/Basic.lean ====
section
/-!
DEFINITION. Named operations over the registers of a context, its streams, tokens and queues.
-/

namespace Sys2Proof

/-- The index of a stream in the order C, LD, MX, VX, ST (R342). -/
def Stream.ix : Stream → Fin 5
  | .c => 0 | .ld => 1 | .mx => 2 | .vx => 3 | .st => 4

/-- The previous stream of the ring (R1, R26). -/
def Stream.prev : Stream → Stream
  | .c => .st | .ld => .c | .mx => .ld | .vx => .mx | .st => .vx

/-- The next stream of the ring (R1, R26). -/
def Stream.next : Stream → Stream
  | .c => .ld | .ld => .mx | .mx => .vx | .vx => .st | .st => .c

/-- The counter of the tokens that a stream pushes to the next one, in the order of R26. -/
def Stream.forth : Stream → Fin 10
  | .c => 0 | .ld => 2 | .mx => 4 | .vx => 6 | .st => 8

/-- The counter of the tokens that the next stream pushes back to this one, in the order of R26. -/
def Stream.back : Stream → Fin 10
  | .c => 1 | .ld => 3 | .mx => 5 | .vx => 7 | .st => 9

/-- The parameter queue of a copy stream: 1 LD, 3 ST. -/
def CopyStream.queue : CopyStream → Fin 4
  | .ld => 1
  | .st => 3

/-- All streams in the order of the ring. -/
def Stream.all : List Stream := [.c, .ld, .mx, .vx, .st]

end Sys2Proof

namespace Sys2Proof.Machine

/-! ## Contexts -/

/-- Changes the acting context. -/
def State.mapCtx (s : State) (f : Ctx → Ctx) : State := { s with ctx := f s.ctx }

/-- Changes the acting context's C registers. -/
def State.mapC (s : State) (f : CRegs → CRegs) : State := s.mapCtx fun c => { c with c := f c.c }

/-- Changes the acting context's other special registers. -/
def State.mapSys (s : State) (f : SysRegs → SysRegs) : State := s.mapCtx fun c => { c with sys := f c.sys }

/-- Changes the acting context's vector registers. -/
def State.mapVx (s : State) (f : VRegs → VRegs) : State := s.mapCtx fun c => { c with vx := f c.vx }

/-- Changes the acting context's matrix registers. -/
def State.mapMx (s : State) (f : MRegs → MRegs) : State := s.mapCtx fun c => { c with mx := f c.mx }

/-- Changes the acting context's collective state. -/
def State.mapColl (s : State) (f : CollSt → CollSt) : State := s.mapCtx fun c => { c with coll := f c.coll }

/-- Changes the acting context's ordering state. -/
def State.mapOrder (s : State) (f : OrderSt → OrderSt) : State := s.mapCtx fun c => { c with order := f c.order }

/-- Changes the management state. -/
def State.mapMg (s : State) (f : MgmtSt → MgmtSt) : State := { s with mg := f s.mg }

/-- Changes the memory-side state. -/
def State.mapMs (s : State) (f : MemSide → MemSide) : State := { s with ms := f s.ms }

/-- Changes the power state. -/
def State.mapPw (s : State) (f : PowerSt → PowerSt) : State := { s with pw := f s.pw }

/-- Every context that holds a task or has held one, and the acting one. -/
def State.contexts (s : State) : List Ctx := s.ctx :: s.others

/-- Every context that holds a task. -/
def State.resident (s : State) : List Ctx := s.contexts.filter (·.live)

/-- Changes every context. -/
def State.mapAll (s : State) (f : Ctx → Ctx) : State :=
  { s with ctx := f s.ctx, others := s.others.map f }

/-- Changes the context with a key. -/
def State.mapKey (s : State) (k : CtxKey) (f : Ctx → Ctx) : State :=
  s.mapAll fun c => if c.key = k then f c else c

/-- The context with a key, if it holds a task. -/
def State.find (s : State) (k : CtxKey) : Option Ctx := s.resident.find? fun c => c.key = k

/-- Makes the context with a key the acting one; `none` when it holds no task. -/
def State.focus (s : State) (k : CtxKey) : Option State :=
  if s.ctx.key = k then (if s.ctx.live then some s else none)
  else
    match s.others.find? (fun c => c.key = k) with
    | none => none
    | some c =>
      if c.live then
        let rest := s.others.filter fun d => d.key ≠ k
        some { s with ctx := c, others := s.ctx :: rest }
      else none

/-- Runs an operation on the context with a key and comes back to the acting one. -/
def State.on (s : State) (k : CtxKey) (f : State → State) : State :=
  match s.focus k with
  | none => s
  | some t =>
    let t := f t
    match t.focus s.ctx.key with
    | some u => u
    | none => t

/-- Uses one free value: its number, and the state with the counter advanced (log entry 9). -/
def State.draw (s : State) : Nat × State := (s.fresh, { s with fresh := s.fresh + 1 })

/-- Uses one order number. -/
def State.tick (s : State) : State := { s with serial := s.serial + 1 }

/-! ## Cores -/

/-- The core with a number. -/
def State.core (s : State) (c : Nat) : Core := Table.get Core.init s.cores c

/-- Changes the core with a number. -/
def State.mapCore (s : State) (c : Nat) (f : Core → Core) : State :=
  { s with cores := Table.set Core.init s.cores c (f (s.core c)) }

/-- The acting context's core number. -/
def State.coreNo (s : State) : Nat := s.ctx.key.core.val

/-- The die of a core (R8). -/
def dieOfCore (c : Nat) : Nat := c / 128

/-- The cluster of a core (R8). -/
def clusterOfCore (c : Nat) : Nat := c / 8

/-- The acting context's die. -/
def State.dieNo (s : State) : Nat := dieOfCore s.coreNo

/-! ## Scalar registers and predicates (R102, R104) -/

/-- `xr`; `x0` reads zero. -/
def State.x (s : State) (r : XReg) : Word := if r = 0 then 0 else s.ctx.c.x[r]

/-- Writes `xr`, whose residue is then right; a write to `x0` is discarded (R102). -/
def State.setX (s : State) (r : XReg) (v : Word) : State :=
  if r = 0 then s else s.mapC fun c => { c with x := c.x.set r v, badX := c.badX &&& ~~~(1#64 <<< r.val) }

/-- `p[r]`. -/
def State.pr (s : State) (r : PReg) : BitVec 1024 := s.ctx.p[r]

/-- The bits of elements 0 to `vl − 1` (R105). -/
def activeMask (vl : Nat) : BitVec 1024 := BitVec.ofNat 1024 (2 ^ vl - 1)

/-- One bits among the lowest `n`. -/
def popcount {w : Nat} (v : BitVec w) : Nat → Nat
  | 0 => 0
  | n + 1 => popcount v n + bitOf (v.getLsbD n)

/-- All ones or all zeros. -/
def fillPred (b : Bool) : BitVec 1024 := if b then BitVec.allOnes 1024 else 0

/-- The active elements' bits of a predicate (R105). -/
def State.active (s : State) (r : PReg) : BitVec 1024 := s.pr r &&& activeMask s.ctx.vx.vl

/-! ## Streams -/

/-- A stream of the acting context. -/
def State.str (s : State) (t : Stream) : StreamSt := s.ctx.streams[t.ix]

/-- Changes a stream of the acting context. -/
def State.mapStr (s : State) (t : Stream) (f : StreamSt → StreamSt) : State :=
  s.mapCtx fun c => { c with streams := c.streams.set t.ix (f c.streams[t.ix]) }

/-- The registers of a copy stream. -/
def State.cp (s : State) (t : CopyStream) : CopySt :=
  match t with
  | .ld => s.ctx.ld
  | .st => s.ctx.st

/-- Changes the registers of a copy stream. -/
def State.mapCp (s : State) (t : CopyStream) (f : CopySt → CopySt) : State :=
  match t with
  | .ld => s.mapCtx fun c => { c with ld := f c.ld }
  | .st => s.mapCtx fun c => { c with st := f c.st }

/-- The copy stream that a copy instruction runs in: ST when the acting stream is ST, else LD. -/
def State.copySide (s : State) : CopyStream := if s.stream = .st then .st else .ld

/-! ## Dependence (R194, R301) -/

/-- Either dependence. -/
def Dep.or (a b : Dep) : Dep := ⟨a.ver || b.ver, a.spec || b.spec⟩

/-- Whether a stream of the context is dependent on its open epochs. -/
def Ctx.dep (c : Ctx) (t : Stream) : Dep :=
  ⟨c.ver.any fun e => e.snaps[t.ix].isSome, c.spec.any fun e => e.snaps[t.ix].isSome⟩

/-- Whether a stream of the acting context is dependent. -/
def State.dep (s : State) (t : Stream) : Dep := s.ctx.dep t

/-- A dependence that names no closed epoch. -/
def Ctx.clampDep (c : Ctx) (d : Dep) : Dep := ⟨d.ver && c.ver.isSome, d.spec && c.spec.isSome⟩

/-- The checkpoint of a stream as it stands (R194, R301). -/
def Ctx.snap (c : Ctx) (t : Stream) (serial : Nat) : Snap :=
  { serial := serial, st := c.streams[t.ix]
    regs := match t with
      | .c => .c c.c c.sys
      | .ld => .copy c.ld
      | .mx => .mx c.mx
      | .vx => .vx c.vx
      | .st => .copy c.st }

/-- An epoch with a checkpoint of the stream, unless it has one. -/
def Epoch.take (e : Epoch) (t : Stream) (n : Snap) : Epoch :=
  if e.snaps[t.ix].isSome then e else { e with snaps := e.snaps.set t.ix (some n) }

/-- The stream becomes dependent on the named epochs that are open: it takes its checkpoint (R194, R301). -/
def State.depend (s : State) (t : Stream) (d : Dep) : State :=
  let n := s.ctx.snap t s.serial
  { s.tick with ctx := { s.ctx with
      ver := if d.ver then s.ctx.ver.map (·.take t n) else s.ctx.ver
      spec := if d.spec then s.ctx.spec.map (·.take t n) else s.ctx.spec } }

/-- Changes the epochs that a dependence names. -/
def Ctx.mapEpochs (c : Ctx) (d : Dep) (f : Epoch → Epoch) : Ctx :=
  { c with ver := if d.ver then c.ver.map f else c.ver, spec := if d.spec then c.spec.map f else c.spec }

/-- Writes `p[r]` as stream `t`: a dependent write keeps the value to restore, a clean write makes the
register clean (R103, R194). -/
def State.setP (s : State) (t : Stream) (r : PReg) (v : BitVec 1024) : State :=
  let d := s.dep t
  let old := s.pr r
  let keep : Epoch → Epoch := fun e =>
    if e.preds.any (·.1 = r.val) then e else { e with preds := (r.val, old) :: e.preds }
  let drop : Epoch → Epoch := fun e => { e with preds := e.preds.filter (·.1 ≠ r.val) }
  s.mapCtx fun c =>
    let c := c.mapEpochs d keep
    let c := c.mapEpochs ⟨!d.ver, !d.spec⟩ drop
    { c with p := c.p.set r v }

/-- What reading a predicate depends on (R194). -/
def State.predDep (s : State) (r : PReg) : Dep :=
  ⟨s.ctx.ver.any fun e => e.preds.any (·.1 = r.val), s.ctx.spec.any fun e => e.preds.any (·.1 = r.val)⟩

/-- What reading VL depends on (R194). -/
def State.vlDep (s : State) : Dep := ⟨s.ctx.ver.any (·.vlTaint), s.ctx.spec.any (·.vlTaint)⟩

/-- What reading a view depends on (R194). -/
def State.viewDep (s : State) : Dep := ⟨s.ctx.ver.any (·.viewTaint), s.ctx.spec.any (·.viewTaint)⟩

/-! ## Residues (R102, R210) -/

/-- TRAPVAL of RESIDUE for a scalar register. -/
def residueX (r : XReg) : Word := BitVec.ofNat 64 (2 ^ 63 + r.val)

/-- The first of the registers read whose value disagrees with its residue. -/
def State.badReg (s : State) (xs : List XReg) : Option Word :=
  if s.ctx.c.badX = 0 then none else (xs.find? fun r => decide (r ≠ 0) && s.ctx.c.badX.getLsbD r.val).map residueX

/-! ## Token counters (R26 to R30) -/

/-- The counters that the pops of a first word's sync bits read: previous, then next (R26). -/
def popsOf (t : Stream) (sy : Sync) : List (Fin 10) :=
  (if sy.wp then [t.prev.forth] else []) ++ (if sy.wn then [t.back] else [])

/-- Whether every counter that the instruction pops is nonzero (R27). -/
def State.canPop (s : State) (t : Stream) (sy : Sync) : Bool :=
  (popsOf t sy).all fun k => !(s.ctx.tok[k]).isEmpty

/-- What the tokens to be popped depend on (R194). -/
def State.popDep (s : State) (t : Stream) (sy : Sync) : Dep :=
  (popsOf t sy).foldl (fun d k => d.or ((s.ctx.tok[k]).headD .clean)) .clean

/-- Counts a clean token or entry that a dependent stream popped. -/
def Epoch.countPop (e : Epoch) (k : Fin 10) : Epoch := { e with popped := e.popped.set k (e.popped[k] + 1) }

/-- Pops one token as a stream of dependence `d` (R27). -/
def Ctx.pop1 (c : Ctx) (d : Dep) (k : Fin 10) : Ctx :=
  match c.tok[k] with
  | [] => c
  | g :: rest =>
    let c := { c with tok := c.tok.set k rest }
    c.mapEpochs ⟨d.ver && !g.ver, d.spec && !g.spec⟩ (·.countPop k)

/-- Takes an instruction's pops (R27). -/
def State.pop (s : State) (t : Stream) (sy : Sync) : State :=
  let d := s.dep t
  s.mapCtx fun c => (popsOf t sy).foldl (fun c k => c.pop1 d k) c

/-- Room for a push: the counter is below 15 (R28). -/
def Ctx.room (c : Ctx) (k : Fin 10) : Bool := decide ((c.tok[k]).length < 15)

/-- One push, if there is room. -/
def Ctx.push1 (c : Ctx) (k : Fin 10) (d : Dep) : Option Ctx :=
  if c.room k then some { c with tok := c.tok.set k (c.tok[k] ++ [c.clampDep d]) } else none

/-- Sequence number `n` has been reached by `done`, both modulo 2^32 (R241). -/
def reached (done n : BitVec 32) : Bool := decide ((done - n).toNat < 2 ^ 31)

/-- What a push waits for has come (R28). -/
def Ctx.ready (c : Ctx) (t : Stream) (n : Need) : Bool :=
  match n with
  | .now => true
  | .copies k => reached (if t = .st then c.st.doneseq else c.ld.doneseq) k
  | .verdict => c.mx.drain.isNone
  | .fold => c.coll.fold.isNone
  | .home k => !c.order.unregistered.contains k

/-- Makes the pushes of a stream that can be made, in order (R28): the context, and those that stay. -/
def Ctx.drainPushes (t : Stream) : Ctx → List Push → Ctx × List Push
  | c, [] => (c, [])
  | c, p :: ps =>
    if c.ready t p.need then
      let (c, toPrev) := if p.toPrev then
          (match c.push1 t.prev.back p.dep with | some c => (c, false) | none => (c, true)) else (c, false)
      let (c, toNext) := if p.toNext then
          (match c.push1 t.forth p.dep with | some c => (c, false) | none => (c, true)) else (c, false)
      if toPrev || toNext then (c, { p with need := .now, toPrev := toPrev, toNext := toNext } :: ps)
      else Ctx.drainPushes t c ps
    else (c, p :: ps)

/-- Makes every push of one stream that can be made. -/
def Ctx.settle1 (c : Ctx) (t : Stream) : Ctx :=
  match (c.streams[t.ix]).pushes with
  | [] => c
  | ps =>
    let (c, rest) := Ctx.drainPushes t c ps
    { c with streams := c.streams.set t.ix { c.streams[t.ix] with pushes := rest } }

/-- Makes every push of the context that can be made (R28). -/
def Ctx.settle (c : Ctx) : Ctx := Stream.all.foldl Ctx.settle1 c

/-- A push of the stream waits for room, so that the stream issues nothing (R28). -/
def Ctx.pushBlocked (c : Ctx) (t : Stream) : Bool :=
  match (c.streams[t.ix]).pushes with
  | [] => false
  | p :: _ => c.ready t p.need

/-- The stream that pushes into a counter (R26). -/
def pusherOf (k : Fin 10) : Stream := (Stream.all.find? fun t => t.forth = k ∨ t.prev.back = k).getD .c

/-- The push of one token into a counter, as the stream that makes it would have it wait for room. -/
def pushInto (k : Fin 10) (d : Dep) : Push := { need := .now, toPrev := decide (k.val % 2 = 1), toNext := decide (k.val % 2 = 0), dep := d }

/-- Puts tokens into a counter by something other than a push. The counter holds 0 to 15 (R26): newer tokens that find no room wait,
as pushes of the stream that pushes them, until it falls below 15 (log entry 36). -/
def Ctx.fill (c : Ctx) (k : Fin 10) (l : List Dep) : Ctx :=
  let t := pusherOf k
  let more := (l.drop 15).map (pushInto k)
  { c with tok := c.tok.set k (l.take 15)
           streams := if more.isEmpty then c.streams
             else c.streams.set t.ix { c.streams[t.ix] with pushes := more ++ (c.streams[t.ix]).pushes } }

/-! ## Queues (R122 to R124) -/

/-- Entries that a queue holds at most. -/
def Queue.cap (q : Queue) : Nat := q.slots.length

/-- The entry at the head. -/
def Queue.peek (q : Queue) : Option Word :=
  if q.count = 0 then none else q.slots[q.head % q.cap]?

/-- The entry after the head. -/
def Queue.peek2 (q : Queue) : Option Word :=
  if q.count < 2 then none else q.slots[(q.head + 1) % q.cap]?

/-- Takes the entry at the head away. -/
def Queue.pop (q : Queue) : Queue :=
  { q with head := (q.head + 1) % q.cap, count := q.count - 1, deps := q.deps.tail }

/-- Appends an entry; the caller has checked that there is room. -/
def Queue.push (q : Queue) (w : Word) (d : Dep) : Queue :=
  { q with slots := q.slots.set ((q.head + q.count) % q.cap) w, count := q.count + 1, deps := q.deps ++ [d] }

/-- What popping the head of a queue depends on (R194). -/
def State.queueDep (s : State) (k : Fin 4) : Dep := (s.ctx.queues[k]).deps.headD .clean

/-- Counts an entry that a dependent stream popped. -/
def Epoch.countQ (e : Epoch) (k : Fin 4) : Epoch := { e with qpopped := e.qpopped.set k (e.qpopped[k] + 1) }

/-- Pops the head of a queue as stream `t`. -/
def State.popQ (s : State) (t : Stream) (k : Fin 4) : State :=
  let d := s.dep t
  let g := s.queueDep k
  s.mapCtx fun c =>
    let c := { c with queues := c.queues.set k (c.queues[k]).pop }
    c.mapEpochs ⟨d.ver && !g.ver, d.spec && !g.spec⟩ (·.countQ k)

/-- Entries of a queue that the fault of a copy command in flight, or of a drain whose verdict is awaited, would give back. -/
def Ctx.lentQ (c : Ctx) (k : Fin 4) : Nat :=
  let most (x : CopySt) : Nat := x.flight.foldl (fun n q => max n q.words.length) 0
  if k = 0 then bitOf c.mx.drain.isSome else if k = 1 then most c.ld else if k = 3 then most c.st else 0

/-- Room in a queue: entries that a rollback or a fault would return keep their places. -/
def Ctx.roomQ (c : Ctx) (k : Fin 4) : Bool :=
  let back := (c.ver.elim 0 fun e => e.qpopped[k]) + (c.spec.elim 0 fun e => e.qpopped[k]) + c.lentQ k
  decide ((c.queues[k]).count + back < (c.queues[k]).cap)

/-- Words go back to the head of their queue. -/
def Queue.unpop (q : Queue) (l : List (Word × Dep)) : Queue :=
  l.foldr (fun e q =>
    let h := (q.head + q.cap - 1) % q.cap
    { q with slots := q.slots.set h e.1, head := h, count := q.count + 1, deps := e.2 :: q.deps }) q

/-- Appends an entry to a queue as stream `t`. -/
def State.pushQ (s : State) (t : Stream) (k : Fin 4) (w : Word) : State :=
  let d := s.dep t
  s.mapCtx fun c => { c with queues := c.queues.set k ((c.queues[k]).push w d) }

/-! ## Events (R96) -/

/-- Records an event bit under the recording mask. -/
def Ctx.event (c : Ctx) (bit : BitVec 6) : Ctx :=
  { c with sys := { c.sys with evt := c.sys.evt ||| (bit &&& c.sys.evtmask) } }

/-- EVT.RATIO -/
def evRatio : BitVec 6 := 1
/-- EVT.GRAPH -/
def evGraph : BitVec 6 := 2
/-- EVT.SLOT -/
def evSlot : BitVec 6 := 4
/-- EVT.PREEMPT -/
def evPreempt : BitVec 6 := 8
/-- EVT.HOSTBELL -/
def evHostbell : BitVec 6 := 16
/-- EVT.INTEG -/
def evInteg : BitVec 6 := 32

/-! ## Cause codes (R329) -/

/-- ILLEGAL -/
def cILLEGAL : BitVec 8 := 0x01
/-- ALIGN -/
def cALIGN : BitVec 8 := 0x03
/-- XLATE -/
def cXLATE : BitVec 8 := 0x04
/-- PROT -/
def cPROT : BitVec 8 := 0x05
/-- HANDLE -/
def cHANDLE : BitVec 8 := 0x06
/-- FQUNDER -/
def cFQUNDER : BitVec 8 := 0x07
/-- FMTKIND -/
def cFMTKIND : BitVec 8 := 0x08
/-- AMBANK -/
def cAMBANK : BitVec 8 := 0x09
/-- VIEW -/
def cVIEW : BitVec 8 := 0x0A
/-- BAROVER -/
def cBAROVER : BitVec 8 := 0x0B
/-- POISON -/
def cPOISON : BitVec 8 := 0x0C
/-- RESIDUE -/
def cRESIDUE : BitVec 8 := 0x0D
/-- VERIFY -/
def cVERIFY : BitVec 8 := 0x0E
/-- COLLSITE -/
def cCOLLSITE : BitVec 8 := 0x0F
/-- COLLSHAPE -/
def cCOLLSHAPE : BitVec 8 := 0x10
/-- COLLTIMEOUT -/
def cCOLLTIMEOUT : BitVec 8 := 0x11
/-- COLLLAYOUT -/
def cCOLLLAYOUT : BitVec 8 := 0x12
/-- TRAPINSN -/
def cTRAPINSN : BitVec 8 := 0x13
/-- BRK -/
def cBRK : BitVec 8 := 0x14
/-- STACK -/
def cSTACK : BitVec 8 := 0x15
/-- ENGFAULT -/
def cENGFAULT : BitVec 8 := 0x16
/-- WATCHDOG -/
def cWATCHDOG : BitVec 8 := 0x17
/-- SLOTOVR -/
def cSLOTOVR : BitVec 8 := 0x18

/-- `HandleVal(sub, h, off)` (R230). -/
def handleVal (sub h : Nat) (off : Int) : Word :=
  BitVec.ofNat 64 (sub * 2 ^ 56 + h * 2 ^ 48) ||| (BitVec.ofInt 64 off &&& 0xFFFFFFFFFFFF)

/-! ## What binds a mapping (R231, R233) -/

/-- A binding names a mapping. -/
def Bound.names (b : Bound) (serial : Nat) : Bool :=
  match b with
  | .map _ m => decide (m.serial = serial)
  | _ => false

/-- A command in flight bound a mapping (R231, R233). -/
def CopyCmd.binds (q : CopyCmd) (serial : Nat) : Bool :=
  q.dst.names serial || q.src.names serial ||
    (match q.kind with
     | .gather i => i.names serial
     | _ => false)

/-- An exchange bound a mapping. -/
def Exchange.binds (x : Exchange) (serial : Nat) : Bool := x.src.names serial || x.dst.names serial

/-- A mapping is bound by something in flight of the context. -/
def Ctx.bound (c : Ctx) (serial : Nat) : Bool :=
  c.ld.flight.any (·.binds serial) || c.st.flight.any (·.binds serial) || c.coll.exchanges.any (·.binds serial)

/-- Pending releases whose commands have ended go (R231). -/
def Ctx.dropReleases (c : Ctx) : Ctx := { c with releases := c.releases.filter fun r => c.bound r.m.serial }

/-- Inserts a number into a rising list. -/
def insertNat (a : Nat) : List Nat → List Nat
  | [] => [a]
  | b :: l => if a ≤ b then a :: b :: l else b :: insertNat a l

/-- A list in rising order. -/
def sortNat (l : List Nat) : List Nat := l.foldr insertNat []

end Sys2Proof.Machine
end

