-- ==== Sys2Proof/Machine/Aes.lean ====
section
/-!
DEFINITION. AES-256-XTS as the HBM controllers apply it to a sector (09_memory R225; the cipher itself is that of FIPS 197
and IEEE 1619, log entry 46).
-/

namespace Sys2Proof.Machine

/-! ## The field of AES -/

/-- The product with `x` in the field of AES. -/
def aesDouble (a : Nat) : Nat := if 128 ≤ a then (2 * a) ^^^ 0x11B else 2 * a

/-- The product of two bytes in the field of AES: `fuel` bits of `b`. -/
def aesMul : Nat → Nat → Nat → Nat
  | 0, _, _ => 0
  | fuel + 1, a, b => (if b % 2 = 1 then a else 0) ^^^ aesMul fuel (aesDouble a) (b / 2)

/-- The square of a byte. -/
def aesSquare (a : Nat) : Nat := aesMul 8 a a

/-- The inverse of a byte, its power 254; 0 stays 0. -/
def aesInv (a : Nat) : Nat :=
  let p := (List.range 7).foldl (fun (s : Nat × Nat) _ => let q := aesSquare s.1; (q, aesMul 8 s.2 q)) (a, 1)
  p.2

/-- A byte rotated left by `n` bits. -/
def rotByte (a n : Nat) : Nat := (a * 2 ^ n) % 256 + a * 2 ^ n / 256

/-- The S-box, computed. -/
def aesSub (a : Nat) : Nat :=
  let i := aesInv a
  i ^^^ rotByte i 1 ^^^ rotByte i 2 ^^^ rotByte i 3 ^^^ rotByte i 4 ^^^ 0x63

/-- The S-box as a table. -/
def aesBox : List Nat := (List.range 256).map aesSub

/-- The inverse S-box as a table. -/
def aesUnbox : List Nat := (List.range 256).map fun v => (aesBox.findIdx? (· = v)).getD 0

/-! ## Rounds: a block is 16 bytes, column by column -/

/-- The sum of two blocks. -/
def xorBytes (a b : List Nat) : List Nat := List.zipWith (· ^^^ ·) a b

/-- `ShiftRows` (`k` = 1) and its inverse (`k` = 3). -/
def aesShift (k : Nat) (b : List Nat) : List Nat :=
  (List.range 16).map fun i => b.getD ((i / 4 + k * (i % 4)) % 4 * 4 + i % 4) 0

/-- Every column times a circulant matrix whose first row is `m`. -/
def aesMix (m : List Nat) (b : List Nat) : List Nat :=
  (List.range 16).map fun i =>
    (List.range 4).foldl (fun s j => s ^^^ aesMul 8 (b.getD (i / 4 * 4 + j) 0) (m.getD ((j + 4 - i % 4) % 4) 0)) 0

/-- The words of the key schedule beyond the first eight, newest first. -/
def aesWords (box : List Nat) : Nat → List (List Nat) → List (List Nat)
  | 0, w => w
  | n + 1, w =>
    let i := w.length
    let prev := w.headD []
    let rcon := (List.range (i / 8 - 1)).foldl (fun r _ => aesDouble r) 1
    let sub (l : List Nat) : List Nat := l.map fun v => box.getD v 0
    let t := if i % 8 = 0 then xorBytes (sub (prev.drop 1 ++ prev.take 1)) [rcon, 0, 0, 0]
      else if i % 8 = 4 then sub prev else prev
    aesWords box n (xorBytes (w.getD 7 []) t :: w)

/-- The fifteen round keys of a 32-byte key. -/
def aesKeys (box : List Nat) (key : List Nat) : List (List Nat) :=
  let w := (aesWords box 52 ((List.range 8).map fun i => (key.drop (4 * i)).take 4).reverse).reverse
  (List.range 15).map fun r => ((w.drop (4 * r)).take 4).flatten

/-- Encrypts a block under round keys. -/
def aesEncrypt (box : List Nat) (ks : List (List Nat)) (b : List Nat) : List Nat :=
  let sub (l : List Nat) : List Nat := l.map fun v => box.getD v 0
  let mid := ((ks.drop 1).take 13).foldl (fun b k => xorBytes (aesMix [2, 3, 1, 1] (aesShift 1 (sub b))) k) (xorBytes b (ks.headD []))
  xorBytes (aesShift 1 (sub mid)) (ks.getD 14 [])

/-- Decrypts a block under round keys; `unbox` is the inverse S-box. -/
def aesDecrypt (unbox : List Nat) (ks : List (List Nat)) (b : List Nat) : List Nat :=
  let sub (l : List Nat) : List Nat := l.map fun v => unbox.getD v 0
  let mid := (((ks.drop 1).take 13).reverse).foldl
    (fun b k => aesMix [14, 11, 13, 9] (xorBytes (sub (aesShift 3 b)) k)) (xorBytes b (ks.getD 14 []))
  xorBytes (sub (aesShift 3 mid)) (ks.headD [])

/-! ## XTS -/

/-- The little-endian bytes of a number as naturals. -/
def natBytes (n v : Nat) : List Nat := (List.range n).map fun i => v / 2 ^ (8 * i) % 256

/-- The number that little-endian bytes hold. -/
def bytesNat (l : List Nat) : Nat := l.foldr (fun b v => b + 256 * v) 0

/-- The tweak of the next block. -/
def xtsNext (t : Nat) : Nat := if t.testBit 127 then (2 * t % 2 ^ 128) ^^^ 0x87 else 2 * t

/-- Whitens each block of a data unit around a cipher `f`. -/
def xtsBlocks (f : List Nat → List Nat) : Nat → Nat → List Nat → List Nat
  | 0, _, _ => []
  | n + 1, t, b =>
    let w := natBytes 16 t
    xorBytes (f (xorBytes (b.take 16) w)) w ++ xtsBlocks f n (xtsNext t) (b.drop 16)

/-- A sector under a key of 512 bits: encrypted, or decrypted. The tweak is PA[51:7] (R225). -/
def xtsSector (key : BitVec 512) (sec : Nat) (decrypt : Bool) (b : List Byte) : List Byte :=
  let box := aesBox
  let k1 := aesKeys box (natBytes 32 (key.toNat % 2 ^ 256))
  let k2 := aesKeys box (natBytes 32 (key.toNat / 2 ^ 256))
  let t := bytesNat (aesEncrypt box k2 (natBytes 16 (sec % 2 ^ 45)))
  let f := if decrypt then aesDecrypt aesUnbox k1 else aesEncrypt box k1
  (xtsBlocks f 8 t (b.map (·.toNat))).map (BitVec.ofNat 8)

end Sys2Proof.Machine
end

