-- ==== Sys2Proof/Machine/Numeric.lean ====
section
/-!
DEFINITION. Number formats, the one rounding function, the accumulators, exact sums, the signature fold
and the CRC (03_numbers R45 to R70). Values are exact rationals.
-/

namespace Sys2Proof.Machine

/-- An exact value: NaN, an infinity, a zero with its sign, or a nonzero rational (R52). -/
inductive Val where
  | nan
  | inf (neg : Bool)
  | zero (neg : Bool)
  | num (q : Rat)
deriving DecidableEq, Repr

/-- The value of a rational; zero is +0. -/
def Val.ofRat (q : Rat) : Val := if q = 0 then .zero false else .num q

/-- The sign. -/
def Val.neg : Val → Bool
  | .nan => false
  | .inf n => n
  | .zero n => n
  | .num q => decide (q < 0)

/-- The rational value; the special values count as 0. -/
def Val.toRat : Val → Rat
  | .num q => q
  | _ => 0

/-- The value with its sign changed. -/
def Val.negate : Val → Val
  | .nan => .nan
  | .inf n => .inf !n
  | .zero n => .zero !n
  | .num q => .num (-q)

/-- The magnitude. -/
def Val.abs : Val → Val
  | .nan => .nan
  | .inf _ => .inf false
  | .zero _ => .zero false
  | .num q => .num (if q < 0 then -q else q)

/-! ## Types -/

/-- Bits per element (R50). -/
def bitsOf : ElemTy → Nat
  | .int8 | .uint8 | .e4m3 | .e5m2 | .e3m5 => 8
  | .int16 | .uint16 | .fp16 | .bf16 => 16
  | .int32 | .uint32 | .fp32 => 32
  | .int64 => 64
  | .fp4 | .qs4 => 4
  | .invalid => 0

/-- Class I of R141. -/
def isInt : ElemTy → Bool
  | .int8 | .uint8 | .int16 | .uint16 | .int32 | .uint32 | .int64 => true
  | _ => false

/-- Class F of R141. -/
def isFloat : ElemTy → Bool
  | .fp4 | .e4m3 | .e5m2 | .fp16 | .bf16 | .fp32 => true
  | _ => false

/-- Signed integer types (R45). -/
def isSigned : ElemTy → Bool
  | .int8 | .int16 | .int32 | .int64 => true
  | _ => false

/-- The layout of a floating-point or scale format: exponent and fraction widths, bias, the code of the
largest finite value, and whether there is a sign (R46, R48). -/
structure Layout where
  ebits : Nat
  fbits : Nat
  bias : Nat
  maxCode : Nat
  signed : Bool

/-- Layouts of R46 and R48; an integer type has none. -/
def layoutOf : ElemTy → Layout
  | .fp32 => ⟨8, 23, 127, 0x7F7FFFFF, true⟩
  | .fp16 => ⟨5, 10, 15, 0x7BFF, true⟩
  | .bf16 => ⟨8, 7, 127, 0x7F7F, true⟩
  | .e4m3 => ⟨4, 3, 7, 0x7E, true⟩
  | .e5m2 => ⟨5, 2, 15, 0x7B, true⟩
  | .fp4 | .qs4 => ⟨2, 1, 1, 7, true⟩
  | _ => ⟨3, 5, 3, 0xFF, false⟩

/-- FP32, FP16, BF16 and E5M2, which have infinities (R46). -/
def hasInf : ElemTy → Bool
  | .fp32 | .fp16 | .bf16 | .e5m2 => true
  | _ => false

/-- The default NaN of a format; 0 where it has none (R47). -/
def defaultNaN : ElemTy → Nat
  | .fp32 => 0x7FC00000
  | .fp16 => 0x7E00
  | .bf16 => 0x7FC0
  | .e4m3 => 0x7F
  | .e5m2 => 0x7E
  | _ => 0

/-- Formats with a NaN (R47). -/
def hasNaN : ElemTy → Bool
  | .fp32 | .fp16 | .bf16 | .e4m3 | .e5m2 => true
  | _ => false

/-- `2 ^ e` for an integer `e`. -/
def pow2 (e : Int) : Rat := if 0 ≤ e then ((2 ^ e.toNat : Nat) : Rat) else 1 / ((2 ^ (-e).toNat : Nat) : Rat)

/-- The value of a finite magnitude code (R46, R48). -/
def magValue (l : Layout) (code : Nat) : Rat :=
  let e := code / 2 ^ l.fbits
  let f := code % 2 ^ l.fbits
  if e = 0 then (f : Rat) * pow2 (1 - l.bias - l.fbits)
  else ((2 ^ l.fbits + f : Nat) : Rat) * pow2 (e - l.bias - l.fbits)

/-- The value of an encoding (R45 to R49). -/
def valueOf (t : ElemTy) (bits : Nat) : Val :=
  if isInt t then
    let w := bitsOf t
    let b := bits % 2 ^ w
    Val.ofRat (if isSigned t ∧ 2 ^ (w - 1) ≤ b then ((b : Int) - 2 ^ w : Int) else ((b : Int) : Int))
  else if t = .e3m5 then Val.ofRat (magValue (layoutOf t) (bits % 256))
  else if t = .invalid then .nan
  else
    let l := layoutOf t
    let w := bitsOf t
    let neg := decide (2 ^ (w - 1) ≤ bits % 2 ^ w)
    let code := bits % 2 ^ (w - 1)
    if hasInf t ∧ code = l.maxCode + 1 then .inf neg
    else if l.maxCode < code then .nan
    else if code = 0 then .zero neg
    else .num (if neg then -(magValue l code) else magValue l code)

/-! ## Flags (R55) -/

/-- NV -/
def fNV : BitVec 5 := 16
/-- DZ -/
def fDZ : BitVec 5 := 8
/-- OF -/
def fOF : BitVec 5 := 4
/-- UF -/
def fUF : BitVec 5 := 2
/-- NX -/
def fNX : BitVec 5 := 1

/-! ## Rounding (R51 to R54) -/

/-- The rounding mode of a field value (R51). The values 5 to 7, which decoding and `VVIEW` refuse, come only with a view of an edited save
block, and round as RNA (log entry 54). -/
def Rm.ofField (n : Nat) : Rm :=
  match n with
  | 0 => .rne | 1 => .rtz | 2 => .rup | 3 => .rdn | _ => .rna

/-- Rounds the magnitude `n / d` to an integer under `rm` with the sign `neg`; the second result says
whether it was inexact (R51). -/
def roundMag (rm : Rm) (neg : Bool) (n d : Nat) : Nat × Bool :=
  let q := n / d
  let r := n % d
  let up := match rm with
    | .rne => decide (d < 2 * r) || (decide (2 * r = d) && decide (q % 2 = 1))
    | .rtz => false
    | .rup => decide (r ≠ 0) && !neg
    | .rdn => decide (r ≠ 0) && neg
    | .rna => decide (r ≠ 0) && decide (d ≤ 2 * r)
  (if up then q + 1 else q, decide (r ≠ 0))

/-- `floor(log2 (n / d))` of a positive rational. -/
def floorLog2 (n d : Nat) : Int :=
  let e : Int := (Nat.log2 n : Int) - (Nat.log2 d : Int)
  -- 2^e ≤ n/d ?
  let ok := if 0 ≤ e then decide (2 ^ e.toNat * d ≤ n) else decide (d ≤ n * 2 ^ (-e).toNat)
  if ok then e else e - 1

/-- The sign bit of a format. -/
def signBit (t : ElemTy) (neg : Bool) : Nat :=
  if neg ∧ (layoutOf t).signed ∧ ¬ isInt t then 2 ^ (bitsOf t - 1) else 0

/-- Largest and smallest integer of a type (R45). -/
def intMax (t : ElemTy) : Int := if isSigned t then 2 ^ (bitsOf t - 1) - 1 else 2 ^ bitsOf t - 1

/-- Smallest integer of a type (R45). -/
def intMin (t : ElemTy) : Int := if isSigned t then -2 ^ (bitsOf t - 1) else 0

/-- An integer's bits in a type (R45). -/
def intBits (t : ElemTy) (n : Int) : Nat := (n % 2 ^ bitsOf t).toNat

/-- An integer clamped to a type's range. -/
def clampInt (t : ElemTy) (n : Int) : Int :=
  if n < intMin t then intMin t else if intMax t < n then intMax t else n

/-- The integer nearest to a rational under `rm`, and whether it differs (R54). -/
def roundRat (rm : Rm) (q : Rat) : Int × Bool :=
  let neg := decide (q < 0)
  let (m, x) := roundMag rm neg q.num.natAbs q.den
  (if neg then -(m : Int) else m, x)

/-- `RoundToInt` (R54). -/
def roundToInt (v : Val) (t : ElemTy) (rm : Rm) (sat : Bool) : Nat × BitVec 5 :=
  match v with
  | .nan => (0, fNV)
  | .inf false => (intBits t (intMax t), fNV)
  | .inf true => (intBits t (intMin t), fNV)
  | v =>
    let (n, x) := roundRat rm v.toRat
    let fl := if x then fNX else 0
    if intMin t ≤ n ∧ n ≤ intMax t then (intBits t n, fl)
    else if sat then (intBits t (clampInt t n), fl ||| fNV)
    else (intBits t n, fl ||| fNV)

/-- Overflow of a rounded magnitude (R53). -/
def overflow (t : ElemTy) (neg : Bool) (rm : Rm) (sat : Bool) (fl : BitVec 5) : Nat × BitVec 5 :=
  let l := layoutOf t
  let fl := fl ||| fOF ||| fNX
  let toInf : Bool := match rm with
    | .rne | .rna => true
    | .rtz => false
    | .rup => !neg
    | .rdn => neg
  if decide (t = .fp4) || decide (t = .e3m5) || sat || !toInf then (signBit t neg + l.maxCode, fl)
  else (signBit t neg + (l.maxCode + 1), fl)

/-- `SpecialInto`: an infinity or NaN into a floating or scale format (R53). -/
def specialInto (v : Val) (t : ElemTy) (sat : Bool) : Nat × BitVec 5 :=
  let l := layoutOf t
  match v with
  | .inf neg =>
    if t = .e3m5 then (if neg then 0 else 0xFF, fNV)
    else if t = .fp4 then (signBit t neg + l.maxCode, fNV)
    else if t = .e4m3 then (signBit t neg + (if sat then l.maxCode else l.maxCode + 1), fNV)
    else if sat then (signBit t neg + l.maxCode, fNV)
    else (signBit t neg + (l.maxCode + 1), 0)
  | _ => (defaultNaN t, if hasNaN t then 0 else fNV)

/-- `RoundToFormat` (R52). -/
def roundToFormat (v : Val) (t : ElemTy) (rm : Rm) (sat : Bool) : Nat × BitVec 5 :=
  if isInt t then roundToInt v t rm sat
  else
    match v with
    | .nan => specialInto .nan t sat
    | .inf n => specialInto (.inf n) t sat
    | .zero n => (signBit t n, 0)
    | .num q =>
      let neg := decide (q < 0)
      if t = .e3m5 ∧ neg then (0, fNV)
      else
        let l := layoutOf t
        let n := q.num.natAbs
        let d := q.den
        let emin : Int := if t = .e3m5 then -2 else 1 - (l.bias : Int)
        let e0 := floorLog2 n d
        let e := if e0 < emin then emin else e0
        let sh : Int := (l.fbits : Int) - e
        let (m, x) := if 0 ≤ sh then roundMag rm neg (n * 2 ^ sh.toNat) d else roundMag rm neg n (d * 2 ^ (-sh).toNat)
        let fl : BitVec 5 := if x then (if e0 < emin then fNX ||| fUF else fNX) else 0
        let code := (e - emin).toNat * 2 ^ l.fbits + m
        if l.maxCode < code then overflow t neg rm sat fl
        else (signBit t neg + code, fl)

/-! ## Arithmetic on exact values -/

/-- The sign of a product. -/
def Val.signMul (a b : Val) : Bool := a.neg != b.neg

/-- A product with the flags of R143: 0·∞ is NaN with NV. -/
def Val.mul (a b : Val) : Val × BitVec 5 :=
  match a, b with
  | .nan, _ => (.nan, 0)
  | _, .nan => (.nan, 0)
  | .inf _, .zero _ => (.nan, fNV)
  | .zero _, .inf _ => (.nan, fNV)
  | .inf _, _ => (.inf (a.signMul b), 0)
  | _, .inf _ => (.inf (a.signMul b), 0)
  | .zero _, _ => (.zero (a.signMul b), 0)
  | _, .zero _ => (.zero (a.signMul b), 0)
  | .num p, .num q => (.num (p * q), 0)

/-- A sum with the zero rules and flags of R143 under `rm`. -/
def Val.add (a b : Val) (rm : Rm) : Val × BitVec 5 :=
  match a, b with
  | .nan, _ => (.nan, 0)
  | _, .nan => (.nan, 0)
  | .inf m, .inf n => if m = n then (.inf m, 0) else (.nan, fNV)
  | .inf m, _ => (.inf m, 0)
  | _, .inf n => (.inf n, 0)
  | .zero m, .zero n => (.zero (if m = n then m else decide (rm = .rdn)), 0)
  | .zero _, .num q => (.num q, 0)
  | .num p, .zero _ => (.num p, 0)
  | .num p, .num q => if p + q = 0 then (.zero (decide (rm = .rdn)), 0) else (.num (p + q), 0)

/-- Below, with −0 below +0; neither is NaN (R143). -/
def Val.lessZ (a b : Val) : Bool :=
  match a, b with
  | .inf m, .inf n => m && !n
  | .inf m, _ => m
  | _, .inf n => !n
  | .zero m, .zero n => m && !n
  | a, b => decide (a.toRat < b.toRat)

/-- `FMIN` and `FMAX` (R143). -/
def Val.minmax (max : Bool) (a b : Val) : Val :=
  match a, b with
  | .nan, b => b
  | a, .nan => a
  | a, b => if max then (if a.lessZ b then b else a) else (if b.lessZ a then b else a)

/-- Numeric equality, −0 equal to +0, NaN equal to nothing (R145). -/
def Val.eqN (a b : Val) : Bool :=
  match a, b with
  | .nan, _ => false
  | _, .nan => false
  | .inf m, .inf n => decide (m = n)
  | .inf _, _ => false
  | _, .inf _ => false
  | a, b => decide (a.toRat = b.toRat)

/-- Numeric less-than (R145). -/
def Val.ltN (a b : Val) : Bool :=
  match a, b with
  | .nan, _ => false
  | _, .nan => false
  | .inf m, .inf n => m && !n
  | .inf m, _ => m
  | _, .inf n => !n
  | a, b => decide (a.toRat < b.toRat)

/-- `FADD` of two encodings of one format by RNE without saturation, flags discarded: the adder of
atomics and reducing copies (R247, R280). -/
def fpAdd (t : ElemTy) (a b : Nat) : Nat :=
  (roundToFormat ((valueOf t a).add (valueOf t b) .rne).1 t .rne false).1

/-- `ExactSum` (R68). -/
def exactSum (l : List Val) (t : ElemTy) (rm : Rm) (sat : Bool) : Nat × BitVec 5 :=
  let nan := l.any fun v => decide (v = .nan)
  let pos := l.any fun v => decide (v = .inf false)
  let neg := l.any fun v => decide (v = .inf true)
  if nan ∨ (pos ∧ neg) then
    ((specialInto .nan t sat).1, (if nan then 0 else fNV) ||| (specialInto .nan t sat).2)
  else if pos then roundToFormat (.inf false) t rm sat
  else if neg then roundToFormat (.inf true) t rm sat
  else
    let v := l.foldl (fun a v => a + v.toRat) (0 : Rat)
    if v = 0 then roundToFormat (.zero false) t rm sat else roundToFormat (.num v) t rm sat

/-! ## Accumulators (R60 to R66) -/

/-- A sum as a signed integer of `w` bits. -/
def wrapInt (w : Nat) (n : Int) : Int := (n + 2 ^ (w - 1)) % 2 ^ w - 2 ^ (w - 1)

/-- `Floor192(p, A)` in units of 2^(A−160), and whether it clamped (R61). -/
def floor192 (p : Rat) (a : Int) : Int × Bool :=
  let f := (p * pow2 (160 - a)).floor
  if f < -2 ^ 191 then (-2 ^ 191, true)
  else if 2 ^ 191 - 1 < f then (2 ^ 191 - 1, true)
  else (f, false)

/-- `AddProduct(slot, a, b)` (R61). -/
def Slot.addProduct (s : Slot) (kind : BandKind) (anchor : Int) (a b : Val) : Slot :=
  match a, b with
  | .nan, _ => { s with nan := true }
  | _, .nan => { s with nan := true }
  | .inf _, .zero _ => { s with nan := true }
  | .zero _, .inf _ => { s with nan := true }
  | .inf _, _ => if a.signMul b then { s with ninf := true } else { s with pinf := true }
  | _, .inf _ => if a.signMul b then { s with ninf := true } else { s with pinf := true }
  | a, b =>
    let p := a.toRat * b.toRat
    if kind = .wide then
      let (f, c) := floor192 p anchor
      { s with s := wrapInt 240 (s.s + f), clamp := s.clamp || c }
    else { s with s := wrapInt 128 (s.s + (p * 2 ^ 48).floor) }

/-- `SlotValue(slot)` and whether it reports SAT (R63). -/
def Slot.value (s : Slot) (kind : BandKind) (anchor : Int) : Rat × Bool :=
  if kind = .wide then
    let sat := s.clamp || decide (2 ^ 191 ≤ s.s) || decide (s.s ≤ -2 ^ 191)
    let n : Int := if sat then (if 0 ≤ s.s then 2 ^ 191 - 1 else -2 ^ 191) else s.s
    ((n : Rat) * pow2 (anchor - 160), sat)
  else ((s.s : Rat) * pow2 (-48), false)

/-- `DrainValue` (R65): bits, flags and SAT. -/
def Slot.drain (s : Slot) (kind : BandKind) (anchor : Int) (sA sB : Val) (t : ElemTy) (rm : Rm) (sat : Bool) :
    Nat × BitVec 5 × Bool :=
  let nan : Nat × BitVec 5 := ((roundToFormat .nan t rm sat).1, if hasNaN t then 0 else fNV)
  let isZero (v : Val) : Bool := match v with | .zero _ => true | _ => false
  let isInf (v : Val) : Bool := match v with | .inf _ => true | _ => false
  if s.nan ∨ (s.pinf ∧ s.ninf) ∨ sA = .nan ∨ sB = .nan then (nan.1, nan.2, false)
  else if s.pinf ∨ s.ninf then
    if isZero sA ∨ isZero sB then (nan.1, nan.2 ||| fNV, false)
    else
      let r := roundToFormat (.inf ((sA.neg != sB.neg) != s.ninf)) t rm sat
      (r.1, r.2, false)
  else
    let (v, beyond) := s.value kind anchor
    if isInf sA ∨ isInf sB then
      if v = 0 ∨ isZero sA ∨ isZero sB then (nan.1, nan.2 ||| fNV, beyond)
      else
        let r := roundToFormat (.inf ((sA.neg != sB.neg) != decide (v < 0))) t rm sat
        (r.1, r.2, beyond)
    else
      let w := sA.toRat * sB.toRat * v
      let r := if w = 0 then roundToFormat (.zero false) t rm sat else roundToFormat (.num w) t rm sat
      (r.1, r.2, beyond)

/-- `Split3` (R66). -/
def split3 (x : Val) : Val × Val × Val :=
  let cut (v : Val) : Val := valueOf .bf16 (roundToFormat v .bf16 .rtz false).1
  match x with
  | .nan => (.nan, .zero false, .zero false)
  | .inf n => (.inf n, .zero false, .zero false)
  | x =>
    let hi := cut x
    let r1 := x.toRat - hi.toRat
    let mid := cut (Val.ofRat r1)
    let r2 := r1 - mid.toRat
    (hi, mid, cut (Val.ofRat r2))

/-- The slice pairs of a mode, each as (slice of A, slice of B) (R66). -/
def slicePairs (nine : Bool) (a b : Val × Val × Val) : List (Val × Val) :=
  let (ah, am, al) := a
  let (bh, bm, bl) := b
  [(ah, bh), (ah, bm), (am, bh), (ah, bl), (am, bm), (al, bh)] ++
    (if nine then [(am, bl), (al, bm), (al, bl)] else [])

/-! ## Signatures and CRC (R57, R69) -/

/-- Sum of `(2i + 1)·w[i]` and the number of words, from word index `i`. -/
def foldWords : Nat → List Byte → Nat × Nat
  | i, a :: b :: c :: d :: t =>
    let (s, n) := foldWords (i + 1) t
    ((2 * i + 1) * leValue [a, b, c, d] + s, n + 1)
  | _, [] => (0, 0)
  | i, l => ((2 * i + 1) * leValue l, 1)

/-- `M61Fold` (R69). -/
def m61Fold (l : List Byte) : Word :=
  let (s, n) := foldWords 0 l
  BitVec.ofNat 64 ((s + n) % (2 ^ 61 - 1))

/-- One bit step of the reflected CRC-32C. -/
def crcBit (c : Nat) : Nat := if c % 2 = 1 then (c / 2) ^^^ 0x82F63B78 else c / 2

/-- One byte of the CRC-32C. -/
def crcByte (c : Nat) (b : Byte) : Nat :=
  crcBit (crcBit (crcBit (crcBit (crcBit (crcBit (crcBit (crcBit (c ^^^ b.toNat))))))))

/-- `Crc32c` (R57). -/
def crc32c (l : List Byte) : Nat := (l.foldl crcByte 0xFFFFFFFF) ^^^ 0xFFFFFFFF

end Sys2Proof.Machine
end

