-- ==== Sys2Proof/Machine/Phys.lean ====
section
/-!
DEFINITION. The physical map, homes and slices, partitions' ownership, and the storage of replicas, pending
writes and reduction sectors at the home (01_lanrok R7 to R18, 09_memory R216, R222, R224, 11_ordering
R267, 12_atomics R283, R284, 16_package R353).
-/

namespace Sys2Proof

/-- Dies of one presented device (R18). -/
def Mode.dies : Mode → Nat
  | .mode1 => 6
  | .mode2 => 3
  | .mode6 => 1

/-- Presented devices (R18). -/
def Mode.devices : Mode → Nat
  | .mode1 => 1
  | .mode2 => 2
  | .mode6 => 6

/-- HBM bytes of one presented device (R353). -/
def Mode.span (m : Mode) : Nat := 0xC000000000 / m.devices

end Sys2Proof

namespace Sys2Proof.Machine

/-! ## The physical map (R216) -/

/-- First address above HBM. -/
def hbmTop : Nat := 0xC000000000

/-- The DSP aperture. -/
def dspPa (die d : Nat) : Nat := 0xFE00000000000 + die * 2 ^ 25 + d

/-- The SP aperture. -/
def spPa (core o : Nat) : Nat := 0xFF00000000000 + core * 2 ^ 20 + o

/-- The register space of a core, placed above the map (log entry 3). -/
def rsPa (core a : Nat) : Nat := 2 ^ 52 + core * 2 ^ 18 + a

/-- The port that an address of host or peer space uses, its PCIe address, and the address by which both ports reach the same byte
(R355, R357; log entry 62). -/
def hostPort (pa : Nat) : Port := if pa / 2 ^ 49 % 2 = 0 then 0 else 1

def pcieAddr (pa : Nat) : Nat := pa % 2 ^ 49

def hostCell (pa : Nat) : Nat :=
  if 0x8000000000000 ≤ pa ∧ pa ≤ 0xBFFFFFFFFFFFF then 0x8000000000000 + pcieAddr pa else pa

/-- What a physical address names. -/
inductive Region where
  | hbm
  | host
  | dsp (die d : Nat)
  | sp (core o : Nat)
  | reserved
deriving DecidableEq, Repr

/-- The region of a physical address (R216). -/
def regionOf (pa : Nat) : Region :=
  if pa < hbmTop then .hbm
  else if 0x8000000000000 ≤ pa ∧ pa ≤ 0xBFFFFFFFFFFFF then .host
  else if dspPa 0 0 ≤ pa ∧ pa < dspPa 6 0 then .dsp ((pa - dspPa 0 0) / 2 ^ 25) ((pa - dspPa 0 0) % 2 ^ 25)
  else if spPa 0 0 ≤ pa ∧ pa < spPa 768 0 then .sp ((pa - spPa 0 0) / 2 ^ 20) ((pa - spPa 0 0) % 2 ^ 20)
  else .reserved

/-- The stack of an HBM address, and the address within the stack (R353). -/
def stackPlace (m : Mode) (pa : Nat) : Nat × Nat :=
  let k := pa / m.span
  let n := 2 * m.dies
  let g := (pa - k * m.span) / 4096
  let q := g / n
  let r := g % n
  let h := (q % 256) ^^^ (q / 2 ^ 8 % 256) ^^^ (q / 2 ^ 16 % 256) ^^^ (q / 2 ^ 24 % 16)
  (2 * (k * m.dies) + (r + h) % n, q * 4096 + pa % 4096)

/-- The stack of an HBM address (R353). -/
def stackOf (m : Mode) (pa : Nat) : Nat := (stackPlace m pa).1

/-- The home die of an HBM address (R353). -/
def homeDie (m : Mode) (pa : Nat) : Nat := stackOf m pa / 2

/-- The index into a die's slice map (R222). -/
def sliceHash (pa : Nat) : Nat :=
  (pa / 2 ^ 10 % 64) ^^^ (pa / 2 ^ 16 % 64) ^^^ (pa / 2 ^ 22 % 64) ^^^ (pa / 2 ^ 28 % 64)

/-- A die's slice map. -/
def State.sliceMap (s : State) (die : Nat) : SliceMap := s.ms.maps.toList.getD die SliceMap.init

/-- Changes a die's slice map. -/
def State.mapSlice (s : State) (die : Nat) (f : SliceMap → SliceMap) : State :=
  s.mapMs fun m => { m with maps := m.maps.mapIdx fun i x => if i = die then f x else x }

/-- The home die and slice of an HBM address (R222). -/
def State.home (s : State) (pa : Nat) : Nat × Nat :=
  let d := homeDie s.mg.mode pa
  (d, (s.sliceMap d).map.toList.getD (sliceHash pa) 0)

/-! ## Caches (R12, R221) -/

/-- A use of a line by a hint: the newer hint is recorded when it is sticky or default, and the line is the most recently used. -/
def CLine.use (c : CLine) (h : Hint) : CLine :=
  match h with
  | .default => { c with sticky := false }
  | .sticky => { c with sticky := true }
  | .streaming | .bypass => c

/-- The line that leaves a set for another among the ways given: the least recently used that is not sticky, else the oldest. -/
def victimLine (ways : List Nat) (l : List CLine) : Option CLine :=
  let mine := l.filter fun c => ways.contains c.way
  match (mine.filter fun c => !c.sticky).getLast? with
  | some c => some c
  | none => mine.getLast?

/-- A line in a way, at the end where its hint is streaming or bypass. -/
def insertLine (l : List CLine) (line way : Nat) (h : Hint) : List CLine :=
  match h with
  | .default => ⟨line, way, false⟩ :: l
  | .sticky => ⟨line, way, true⟩ :: l
  | .streaming | .bypass => l ++ [⟨line, way, false⟩]

/-- A set of a cache after an access to a line that may allocate in the ways given, and the line that left (R221). -/
def touchSet (ways : List Nat) (l : List CLine) (line : Nat) (h : Hint) : List CLine × Option CLine :=
  match l.find? fun c => c.line = line with
  | some c => (c.use h :: l.filter (fun d => d.line ≠ line), none)
  | none =>
    match ways.find? fun w => !l.any fun c => decide (c.way = w) with
    | some w => (insertLine l line w h, none)
    | none =>
      match victimLine ways l with
      | none => (l, none)
      | some v => (insertLine (l.filter fun d => d.line ≠ v.line) line v.way h, some v)

/-- A sticky line has been evicted on a die (R221, R224). -/
def State.countSticky (s : State) (die : Nat) (v : Option CLine) : State :=
  if v.any (·.sticky) then s.mapSlice die fun m => { m with sticky := m.sticky + 1 } else s

/-- The number of the 1,024-byte line of an address. -/
def lineOf (pa : Nat) : Nat := pa / 1024

/-- An access to a line in a core's L1 data cache; a line that leaves takes its read-only-path sectors with it (R220, R221). -/
def State.touchL1 (s : State) (core pa : Nat) (h : Hint) : State :=
  let k := lineOf pa % 64
  let r := touchSet (List.range 16) (Table.get [] (s.core core).l1d k) (lineOf pa) h
  let s := s.mapCore core fun c =>
    match r.2 with
    | none => { c with l1d := Table.set [] c.l1d k r.1 }
    | some v =>
      { c with l1d := Table.set [] c.l1d k r.1, roLines := c.roLines.filter (fun e => e.1 / 8 ≠ v.line)
               l1s := c.l1s.filter fun e => e / 8 ≠ v.line }
  s.countSticky (dieOfCore core) r.2

/-- A core's L1 data cache has the line of an address. -/
def Core.l1Line (c : Core) (pa : Nat) : Bool := (Table.get [] c.l1d (lineOf pa % 64)).any fun l => decide (l.line = lineOf pa)

/-- What passes the caches: a read by L1D, a write, a fetch of code, or an atomic, which its home carries out (R220, R236). -/
inductive CacheUse where
  | load | store | fetch | atomic
deriving DecidableEq, Repr

/-- An access passes its core's L1 data cache: a read allocates there unless it bypasses, and what hits records its hint (R221). -/
def State.useL1 (s : State) (core pa : Nat) (u : CacheUse) (h : Hint) : State :=
  match u with
  | .load => if h ≠ .bypass ∨ (s.core core).l1Line pa then s.touchL1 core pa h else s
  | .store => if (s.core core).l1Line pa then s.touchL1 core pa h else s
  | .fetch | .atomic => s

/-- The sectors that no L1D holds coherently any more: another agent writes them, or they take part in a reduction (R220, R283). -/
def State.dropL1 (s : State) (secs : List Nat) : State :=
  if s.cores.all fun c => c.2.l1s.isEmpty then s
  else { s with cores := Table.mapVals Core.init (fun c => { c with l1s := c.l1s.filter fun k => !secs.contains k }) s.cores }

/-- An access to a line in a slice of a die, whose lines allocate in the ways given (R221, R222). -/
def State.touchL2 (s : State) (die slice pa : Nat) (ways : List Nat) (h : Hint) : State × Option CLine :=
  let k := 256 * slice + lineOf pa % 256
  let r := touchSet ways (Table.get [] (s.sliceMap die).l2 k) (lineOf pa) h
  ((s.mapSlice die fun m => { m with l2 := Table.set [] m.l2 k r.1 }).countSticky die r.2, r.2)

/-- Ways of a die's slices that hold replicas (R224; log entry 12). -/
def State.replicaWays (s : State) (die : Nat) : List Nat := List.range (s.sliceMap die).remways

/-- A slice of a die holds the line of an address. -/
def State.l2Holds (s : State) (die pa : Nat) : Bool :=
  let m := s.sliceMap die
  (Table.get [] m.l2 (256 * m.map.toList.getD (sliceHash pa) 0 + lineOf pa % 256)).any fun c => decide (c.line = lineOf pa)

/-- The number of the 128-byte sector of an address. -/
def sectorOf (pa : Nat) : Nat := pa / 128

/-- The sectors that a range of bytes touches. -/
def sectorsOf (pa n : Nat) : List Nat :=
  if n = 0 then [] else (List.range ((pa + n - 1) / 128 - pa / 128 + 1)).map (pa / 128 + ·)

/-! ## Partitions (R358) -/

/-- The partition with a number. -/
def State.part (s : State) (p : Part) : Option Partition := s.parts.find? fun q => q.p = p

/-- Changes a partition. -/
def State.mapPart (s : State) (p : Part) (f : Partition → Partition) : State :=
  { s with parts := s.parts.map fun q => if q.p = p then f q else q }

/-- One MiB. -/
def mib : Nat := 2 ^ 20

/-- Whether a partition owns a cluster. -/
def Partition.ownsCluster (q : Partition) (cl : Nat) : Bool := q.clusters.testBit cl

/-- Whether a byte of a die scratchpad lies in the partition's carve (R358, R360). -/
def Partition.ownsDsp (q : Partition) (die d : Nat) : Bool :=
  let b := q.dspBase.getD die 0 * mib
  decide (b ≤ d) && decide (d < b + q.dspSize.getD die 0 * mib)

/-- Whether a range lies in the partition's HBM carve. -/
def Partition.inCarve (q : Partition) (pa n : Nat) : Bool :=
  let b := q.hbmBase * 2 ^ 30
  decide (b ≤ pa) && decide (pa + n ≤ b + q.hbmSize * 2 ^ 30)

/-- Whether a page's physical address may be mapped by the partition (R216). -/
def Partition.mayMap (q : Partition) (pa n : Nat) : Bool :=
  match regionOf pa, regionOf (pa + n - 1) with
  | .hbm, .hbm => q.inCarve pa n
  | .host, .host => true
  | .dsp d a, .dsp d' b => decide (d = d') && q.ownsDsp d a && q.ownsDsp d b
  | .sp c _, .sp c' _ =>
    (List.range (c' / 8 - c / 8 + 1)).all fun k => q.ownsCluster (c / 8 + k)
  | _, _ => false

/-- Whether a key index belongs to the partition (R225, R358). -/
def Partition.ownsKey (q : Partition) (key : Nat) : Bool :=
  decide (key = 0) || (decide (q.firstKey ≤ key) && decide (key < q.firstKey + q.keyCount))

/-- Whether a key is installed; key 0 needs none (R225). -/
def State.keyOk (s : State) (key : BitVec 8) : Bool := decide (key = 0) || s.mg.keys.any (·.1 = key)

/-- Whether every byte of a range of a core's SP lies in the SP window of one resident task that `who`
accepts (R215, R216). -/
def State.spHeld (s : State) (who : Ctx → Bool) (core o n : Nat) : Bool :=
  s.resident.any fun c => decide (c.key.core.val = core) && who c && decide (c.win.spBase ≤ o) &&
    decide (o + n ≤ c.win.spBase + c.win.spSize)

/-- Whether a context belongs to a partition. -/
def Ctx.inPart (p : Part) (c : Ctx) : Bool := decide (c.ident.part = p)

/-- Whether a context belongs to the node of another. -/
def Ctx.sameNode (a c : Ctx) : Bool :=
  decide (c.ident.part = a.ident.part) && decide (c.launch.node = a.launch.node)

/-- Ways in which the lines of a partition allocate at their homes (R222; log entry 12). -/
def State.homeWays (s : State) (p : Part) (die : Nat) : List Nat :=
  let mask := (s.part p).elim 0xFFFF fun q => q.ways.toNat
  let l := (List.range 16).filter mask.testBit
  let own := l.filter fun w => !(s.replicaWays die).contains w
  if own.isEmpty then l else own

/-- An access of a core of a partition to a line of HBM passes the caches: L1D, the home's slice, and for a read of a line homed
elsewhere the reader's own slice (R220 to R224). -/
def State.touch (s : State) (p : Part) (core pa : Nat) (u : CacheUse) (h : Hint) : State :=
  if hbmTop ≤ pa then s
  else
    let s := s.useL1 core pa u h
    let (d, l) := s.home pa
    let s := (s.touchL2 d l pa (s.homeWays p d) h).1
    let me := dieOfCore core
    if d = me ∨ (s.replicaWays me).isEmpty ∨ u = .store ∨ u = .atomic then s
    else
      let slice := (s.sliceMap me).map.toList.getD (sliceHash pa) 0
      let r := s.touchL2 me slice pa (s.replicaWays me) h
      match r.2 with
      | none => r.1
      | some v => r.1.mapMs fun m => { m with replicas := m.replicas.filter fun q => !(decide (q.die = me) && decide (q.sector / 8 = v.line)) }

/-- A line of a die's L2 is a replica in one of the ways that are taken away when `n` remain. -/
def State.leaves (s : State) (die n : Nat) (c : CLine) : Bool :=
  decide (n ≤ c.way) && decide (c.way < (s.sliceMap die).remways) && decide (homeDie s.mg.mode (1024 * c.line) ≠ die)

/-- Firmware sets the replica ways of a die; ways that are taken away lose their replicas (R4, R224). -/
def State.setRemways (s : State) (die : Nat) (v : BitVec 4) : State :=
  let n := min v.toNat 8
  let lost := (s.sliceMap die).l2.flatMap fun e => e.2.filter (s.leaves die n)
  let kept := ((s.sliceMap die).l2.map fun e => (e.1, e.2.filter fun c => !s.leaves die n c)).filter fun e => !e.2.isEmpty
  let s := s.mapSlice die fun m => { m with remways := n, l2 := kept }
  s.mapMs fun m =>
    { m with replicas := m.replicas.filter fun r => !(decide (r.die = die) && lost.any fun c => decide (r.sector / 8 = c.line)) }

/-- What privileged firmware reads of a die's L2REMOTE: GEN, STICKYEVICT and REMWAYS (R4, R224). -/
def SliceMap.remote (m : SliceMap) : Word :=
  BitVec.ofNat 64 (m.gen.toNat * 2 ^ 48 + m.sticky.toNat * 2 ^ 16 + m.remways)

/-- Privileged firmware reads a die's L2REMOTE. -/
def State.readRemote (s : State) (die : Nat) : State := s.mapMg fun m => { m with remoteRead := some (s.sliceMap die).remote }

/-! ## Encryption (R225) -/

/-- What a key index stands for: plaintext, or a key. -/
def State.keyValue (s : State) (key : BitVec 8) : Option (BitVec 512) :=
  if key = 0 then none else (s.mg.keys.find? fun e => e.1 = key).map (·.2)

/-- The bytes of a sector that one key's page wrote, as they come back through a page of another key. -/
def recrypt (old new : Option (BitVec 512)) (sec : Nat) (b : List Byte) : List Byte :=
  let c := match old with
    | some k => xtsSector k sec false b
    | none => b
  match new with
  | some k => xtsSector k sec true c
  | none => c

/-- The bytes of a sector become what one key makes of what another wrote, and stand under the new key. -/
def State.turnSector (s : State) (old new : Option (BitVec 512)) (sec : Nat) : State :=
  { s.mapMs fun m => { m with sealed := Table.set none m.sealed sec new } with
      mem := s.mem.setBytes (sec * 128) (recrypt old new sec (s.mem.getBytes (sec * 128) 128)) }

/-- A sector of HBM is reached through a page of a key: where another key wrote it and its line is not in L2, its bytes are what that
key makes of what HBM holds; a line that its home's slice holds may have left it (R225; log entries 9 and 46). -/
def State.rekey1 (s : State) (key : BitVec 8) (sec : Nat) : State :=
  let old := Table.get none s.ms.sealed sec
  let new := s.keyValue key
  if old = new then s
  else if s.l2Holds (homeDie s.mg.mode (sec * 128)) (sec * 128) then
    let (k, s) := s.draw
    if Config.evicted k then s.turnSector old new sec else s
  else s.turnSector old new sec

/-- A range is reached through a page of a key. -/
def State.rekey (s : State) (pa n : Nat) (key : BitVec 8) : State :=
  if hbmTop ≤ pa ∨ (s.ms.sealed.isEmpty ∧ key = 0) then s else (sectorsOf pa n).foldl (fun s k => s.rekey1 key k) s

/-- A write through a page of a key leaves its sectors under that key (R225; log entry 46). -/
def State.seal (s : State) (pa n : Nat) (key : BitVec 8) : State :=
  if hbmTop ≤ pa ∨ (s.ms.sealed.isEmpty ∧ key = 0) then s
  else s.mapMs fun m => { m with sealed := (sectorsOf pa n).foldl (fun t k => Table.set none t k (s.keyValue key)) m.sealed }

/-! ## Token buckets (R325) -/

/-- The bucket of a partition on a die. -/
def State.bucket (s : State) (p : Part) (die : Nat) : Bucket := Table.get Bucket.zero s.pw.buckets (p.val * 6 + die)

/-- Changes the bucket of a partition on a die. -/
def State.mapBucket (s : State) (p : Part) (die : Nat) (f : Bucket → Bucket) : State :=
  s.mapPw fun w => { w with buckets := Table.set Bucket.zero w.buckets (p.val * 6 + die) (f (s.bucket p die)) }

/-- Tokens spent. -/
def Bucket.spend (b : Bucket) (n : Nat) : Bucket := { b with balance := b.balance - n, sectors := (b.sectors + n) % 2 ^ 32 }

/-- The requests that an access to HBM sends, one for each sector (R325). -/
def requests (pa n : Nat) : Nat := if hbmTop ≤ pa then 0 else (sectorsOf pa n).length

/-- A port of a core holds requests of a partition to the stacks of a die. -/
def State.portBusy (s : State) (core : Nat) (p : Part) (die : Nat) : Bool :=
  s.ms.held.any fun q => decide (q.key.core.val = core) && decide (q.part = p) && decide (q.die = die)

/-- The acting context's port lets an access through at once: it needs no token, or the bucket has them and the port holds no earlier
request that needs that bucket. -/
def State.hasTokens (s : State) (pa n : Nat) : Bool :=
  let k := requests pa n
  let d := homeDie s.mg.mode pa
  decide (k = 0) || (decide (k ≤ (s.bucket s.ctx.ident.part d).balance) && !s.portBusy s.coreNo s.ctx.ident.part d)

/-- An access of a partition pays its tokens. -/
def State.payFor (s : State) (p : Part) (pa n : Nat) : State :=
  let k := requests pa n
  if k = 0 then s else s.mapBucket p (homeDie s.mg.mode pa) (·.spend k)

/-- The acting context's access pays its tokens. -/
def State.pay (s : State) (pa n : Nat) : State := s.payFor s.ctx.ident.part pa n

/-- A port holds a request of a partition for lack of a token (R326). -/
def State.starveFor (s : State) (p : Part) (die : Nat) : State :=
  s.mapBucket p die fun b => { b with starved := true }

/-- The port holds a request of the acting context. -/
def State.starve (s : State) (die : Nat) : State := s.starveFor s.ctx.ident.part die

/-! ## Reduction sectors (R283, R284) -/

/-- The smaller or larger of two encodings as signed integers of `n` bytes. -/
def signedPick (n : Nat) (max : Bool) (a b : Nat) : Nat :=
  let x := (BitVec.ofNat (8 * n) a).toInt
  let y := (BitVec.ofNat (8 * n) b).toInt
  if max then (if x < y then b else a) else (if y < x then b else a)

/-- Merges the contributions `l` into an element of `n` bytes with the base value `b` (R284). -/
def mergeElem (op : RedOp) (n b : Nat) (l : List Nat) : Nat :=
  let fsum (t : ElemTy) (vs : List Nat) : Nat := (exactSum (vs.map (valueOf t)) t .rne false).1
  match op with
  | .add => (l.foldl (· + ·) b) % 2 ^ (8 * n)
  | .min => l.foldl (signedPick n false) b
  | .max => l.foldl (signedPick n true) b
  | .and => l.foldl (· &&& ·) b
  | .or => l.foldl (· ||| ·) b
  | .xor => l.foldl (· ^^^ ·) b
  | .fadd32 => fsum .fp32 (b :: l)
  | .faddbf16x2 =>
    let half (k v : Nat) := v / 2 ^ (16 * k) % 2 ^ 16
    fsum .bf16 ((b :: l).map (half 0)) + fsum .bf16 ((b :: l).map (half 1)) * 2 ^ 16

/-- The sector with its element at offset `e` merged. -/
def RedSector.mergeAt (r : RedSector) (m : Memory) (e : Nat) : Memory :=
  let n := if r.dbl then 8 else 4
  let a := r.sector * 128 + e * n
  let l := (r.terms.filter (·.1 = a)).map fun t => leValue t.2
  if l.isEmpty then m else m.setLe a n (mergeElem r.op n (m.getLe a n) l)

/-- The contributions to a sector that the dies and the cores hold. -/
def State.partials (s : State) (sec : Nat) : List (Nat × List Byte) :=
  (s.ms.redDie.filter fun e => e.2.2.sector = sec).flatMap (fun e => e.2.2.terms) ++
  s.cores.flatMap fun c => (c.2.red.filter fun r => r.sector = sec).flatMap (·.terms)

/-- A sector leaves every level of the reduction. -/
def State.leaveRed (s : State) (gone : Nat → Bool) : State :=
  let s := s.mapMs fun m => { m with red := m.red.filter (fun q => !gone q.sector), redDie := m.redDie.filter fun e => !gone e.2.2.sector }
  { s with cores := Table.mapVals Core.init (fun c => { c with red := c.red.filter fun r => !gone r.sector }) s.cores }

/-- Merges a sector that is in the commutative-update state and takes it out of that state: the home recalls every partial (R284). -/
def State.mergeRed (s : State) (sec : Nat) : State :=
  match s.ms.red.find? (fun r => r.sector = sec) with
  | none => s
  | some r =>
    let r : RedSector := { r with terms := r.terms ++ s.partials sec }
    let s := s.leaveRed fun k => k = sec
    { s with mem := (List.range (if r.dbl then 16 else 32)).foldl r.mergeAt s.mem }

/-- Merges every sector of a range that is in the commutative-update state. -/
def State.mergeRange (s : State) (pa n : Nat) : State :=
  if s.ms.red.isEmpty then s else (sectorsOf pa n).foldl State.mergeRed s

/-! ## Reads and writes at the point of coherence (R263, R267) -/

/-- A range touches a poisoned sector (R211). -/
def State.poisonedAt (s : State) (pa n : Nat) : Bool :=
  !s.ms.poisoned.isEmpty && (sectorsOf pa n).any fun k => s.ms.poisoned.contains k

/-- A write of the sector is pending at its home (R267). -/
def State.pendingAt (s : State) (sec : Nat) : Bool := s.ms.pending.contains sec

/-- The bytes that a reader on a die sees, from a replica that holds the old value where there is one
(R224, R267). -/
def State.seenBy (s : State) (die pa n : Nat) : List Byte :=
  let m := (s.mem.getBytes pa n)
  if s.ms.replicas.isEmpty then m
  else
    m.mapIdx fun i b =>
      match s.ms.replicas.find? (fun r => r.die = die ∧ r.sector = sectorOf (pa + i)) with
      | some { old := some o, .. } => o.getD ((pa + i) % 128) 0
      | _ => b

/-- Fills a replica of an HBM sector on the reader's die, unless it is homed there, no line of the die's slices holds it, or
a write of it is pending (R224). -/
def State.fillReplica (s : State) (die sec : Nat) : State :=
  if homeDie s.mg.mode (sec * 128) = die ∨ s.l2Holds die (sec * 128) = false ∨ s.pendingAt sec ∨
      s.ms.replicas.any (fun r => decide (r.die = die ∧ r.sector = sec)) then s
  else s.mapMs fun m => { m with replicas := ⟨die, sec, none⟩ :: m.replicas }

/-- A read of a range by a core on a die, at the point of coherence: merged first where reductions are
outstanding, and with replicas filled where `fill` says so. -/
def State.readAt (s : State) (die pa n : Nat) (fill : Bool) : List Byte × State :=
  let s := s.mergeRange pa n
  let b := s.seenBy die pa n
  if fill ∧ pa < hbmTop then (b, (sectorsOf pa n).foldl (fun s k => s.fillReplica die k) s) else (b, s)

/-- A read that the home has answered leaves no older value on the reader's die: its replica of the sector goes (R264, R267). -/
def State.dropReplica (s : State) (die sec : Nat) : State :=
  s.mapMs fun m => { m with replicas := m.replicas.filter fun r => !(decide (r.die = die) && decide (r.sector = sec)) }

/-- Starts a write of an HBM sector: replicas on other dies keep the old bytes until the write completes
at the home, and the writer's die drops its own (R264, R267). -/
def State.startWrite (s : State) (die : Nat) (sec : Nat) : State :=
  let mine := s.ms.replicas.filter fun r => decide (r.sector = sec ∧ r.die ≠ die)
  let rest := s.ms.replicas.filter fun r => decide (r.sector ≠ sec)
  if mine.isEmpty then s.mapMs fun m => { m with replicas := rest }
  else
    let old := s.mem.getBytes (sec * 128) 128
    let keep := mine.map fun r => { r with old := some (r.old.getD old) }
    s.mapMs fun m =>
      { m with replicas := keep ++ rest
               pending := if m.pending.contains sec then m.pending else sec :: m.pending }

/-- A write that covers a whole sector makes it clean of errors (R211, R237), and one that covers a whole word of a register space
gives it a new residue (R210). -/
def State.unpoison (s : State) (pa n : Nat) : State :=
  if s.ms.poisoned.isEmpty ∧ s.ms.weak.isEmpty ∧ s.ms.badWords.isEmpty then s
  else
    let out (a k : Nat) : Bool := !(decide (pa ≤ a) && decide (a + k ≤ pa + n))
    s.mapMs fun m =>
      { m with poisoned := m.poisoned.filter fun k => out (k * 128) 128
               weak := m.weak.filter fun k => out (k * 128) 128
               badWords := m.badWords.filter fun a => out a 4 }

/-- A sector draws an uncorrectable error (R211). -/
def State.poison (s : State) (sec : Nat) : State :=
  (s.dropL1 [sec]).mapMs fun m => { m with poisoned := if m.poisoned.contains sec then m.poisoned else sec :: m.poisoned }

/-- A write of bytes by a core on a die, at the point of coherence, through a page of a key. -/
def State.writeAt (s : State) (die pa : Nat) (b : List Byte) (key : BitVec 8) : State :=
  let s := ((s.mergeRange pa b.length).seal pa b.length key).dropL1 (sectorsOf pa b.length)
  let s := if pa < hbmTop ∧ ¬ s.ms.replicas.isEmpty then
      (sectorsOf pa b.length).foldl (fun s k => s.startWrite die k) s else s
  { s.unpoison pa b.length with mem := s.mem.setBytes pa b }

/-- A read at the home by the part itself: a page walk, a packet fetch, a save block (R227, R274). One that goes through no page has key
index 0 (log entry 46). -/
def State.readHome (s : State) (pa n : Nat) (key : BitVec 8 := 0) : List Byte × State :=
  let s := (s.rekey pa n key).mergeRange pa n
  (s.mem.getBytes pa n, s)

/-- A write at SYSTEM scope by the part itself: replicas go at once. -/
def State.writeHome (s : State) (pa : Nat) (b : List Byte) (key : BitVec 8 := 0) : State :=
  let s := (((s.rekey pa b.length key).mergeRange pa b.length).seal pa b.length key).dropL1 (sectorsOf pa b.length)
  let secs := sectorsOf pa b.length
  let s := if s.ms.replicas.isEmpty then s
    else s.mapMs fun m => { m with replicas := m.replicas.filter fun r => !secs.contains r.sector }
  { s.unpoison pa b.length with mem := s.mem.setBytes pa b }

/-- A write of a sector completes at its home (R267). -/
def State.completeWrite (s : State) (sec : Nat) : State :=
  let s := s.mapMs fun m =>
    { m with replicas := m.replicas.filter (fun r => r.sector ≠ sec), pending := m.pending.filter (· ≠ sec) }
  s.mapAll fun c => { c with order := { c.order with sectors := c.order.sectors.filter fun q => q.1 ≠ sec } }

end Sys2Proof.Machine
end

