-- ==== Sys2Proof/Machine/Requests.lean ====
section
/-!
DEFINITION. Requests on their way to memory: what one does when it performs, the reduction levels, the ports of the cores and the
fault queues of the homes (09_memory R220, R237, 11_ordering R267, R272, 12_atomics R280 to R284, R289, 14_clocks R325).
-/

namespace Sys2Proof.Machine

/-- Where an access lands. -/
structure Place where
  pa : Nat
  /-- It came through a local window. -/
  win : Bool
  key : BitVec 8
  device : Bool
deriving DecidableEq, Repr

/-! ## What an access leaves to be waited for (R267, R272) -/

/-- Records an access of class `cls` to HBM: sectors still pending at their homes, and for a posted request
the die and slice it went to (R267, R272). -/
def State.note (s : State) (pa n : Nat) (cls : Fin 16) (posted : Bool) : State :=
  if hbmTop ≤ pa then s
  else
    let wait := (sectorsOf pa n).filter fun k => s.pendingAt k && !(s.ctx.order.sectors.contains (k, cls.val))
    let s := if wait.isEmpty then s
      else s.mapOrder fun o => { o with sectors := wait.map (fun k => (k, cls.val)) ++ o.sectors }
    if posted then
      let (d, l) := s.home pa
      let e := (cls.val, d, l)
      s.mapCore s.coreNo fun c => { c with posted := if c.posted.contains e then c.posted else e :: c.posted }
    else s

/-- The same for a request of the context with a key, which is resident while anything of it is outstanding (R274). -/
def State.noteFor (s : State) (k : CtxKey) (pa n : Nat) (cls : Fin 16) (posted : Bool) : State :=
  match s.focus k with
  | none => s
  | some t =>
    match (t.note pa n cls posted).focus s.ctx.key with
    | some u => u
    | none => t.note pa n cls posted

/-! ## Stores (R220, R267) -/

/-- Bytes of a core's own L1 copy of a sector after a store (R220). -/
def Core.storeRo (c : Core) (cells : List (Nat × Byte)) : Core :=
  { c with roLines := c.roLines.map fun l =>
      (l.1, l.2.mapIdx fun i b => match cells.find? fun e => e.1 = 128 * l.1 + i with
        | some e => e.2
        | none => b) }

/-- Bytes at consecutive addresses. -/
def cellsAt (pa : Nat) (b : List Byte) : List (Nat × Byte) := b.mapIdx fun i v => (pa + i, v)

/-- A store updates the L1 copy of its core. -/
def State.updateL1 (s : State) (core : Nat) (cells : List (Nat × Byte)) : State :=
  if (s.core core).roLines.isEmpty then s else s.mapCore core fun c => c.storeRo cells

/-- Sectors of a range that a core's L1 data cache holds coherently. -/
def Core.holdsL1 (c : Core) (pa n : Nat) : List Nat := (sectorsOf pa n).filter c.l1s.contains

/-- Sectors stay coherent in a core's L1 data cache: it wrote them itself, or has read them while no write of them is pending (R220). -/
def State.keepL1 (s : State) (core : Nat) (secs : List Nat) : State :=
  let l := secs.filter fun k => !(s.core core).l1s.contains k && (s.core core).l1Line (k * 128)
  if l.isEmpty then s else s.mapCore core fun c => { c with l1s := l ++ c.l1s }

/-- A core's read has filled sectors of a range in its L1 data cache. -/
def State.fillL1 (s : State) (core pa n : Nat) : State :=
  if hbmTop ≤ pa then s
  else s.keepL1 core ((sectorsOf pa n).filter fun k => !s.pendingAt k && !s.ms.red.any fun r => decide (r.sector = k))

/-- Removes a core's read-only-path line of a sector (R220). -/
def Core.dropRo (c : Core) (sec : Nat) : Core := { c with roLines := c.roLines.filter fun l => l.1 ≠ sec }

/-- A read by the read-only path that misses: the line is filled (R220). -/
def State.missRo (s : State) (core pa n : Nat) : List Byte × State :=
  let sec := sectorOf pa
  let (now, s) := s.readAt (dieOfCore core) (sec * 128) 128 true
  ((now.drop (pa % 128)).take n, s.mapCore core fun c => { c with roLines := (sec, now) :: (c.dropRo sec).roLines })

/-- Bytes that a core reads at the point of coherence, by the read-only path or not: an ordinary read replaces the mark of a
read-only-path line (R220). -/
def State.readCore (s : State) (core pa n : Nat) (device ro : Bool) : List Byte × State :=
  if ro ∧ ¬ device ∧ pa < hbmTop then s.missRo core pa n
  else
    let s := if pa < hbmTop ∧ ¬ (s.core core).roLines.isEmpty then s.mapCore core fun c => c.dropRo (sectorOf pa) else s
    let (b, s) := s.readAt (dieOfCore core) pa n (!device)
    (b, if device then s else s.fillL1 core pa n)

/-- Words that the L1 instruction cache holds: 128 KiB (R12). -/
def icacheWords : Nat := 32768

/-- The core with a word in its L1 instruction cache; the word read longest ago leaves a full one (log entry 12). -/
def Core.fillIcache (c : Core) (pa w : Nat) : Core := { c with icache := ((pa, w) :: c.icache.filter fun e => e.1 ≠ pa).take icacheWords }

/-- An access of a core of a partition through a place passes the caches, which device pages and local windows do not use (R221). -/
def State.cachedFor (s : State) (part : Part) (core : Nat) (p : Place) (u : CacheUse) (h : Hint) : State :=
  if p.win || p.device then s else s.touch part core p.pa u h

/-- The same for the acting context. -/
def State.cached (s : State) (p : Place) (u : CacheUse) (h : Hint) : State := s.cachedFor s.ctx.ident.part s.coreNo p u h

/-- Writes cells of one sector through a page of a key, a whole sector at once. -/
def State.writeCells (s : State) (die : Nat) (cells : List (Nat × Byte)) (key : BitVec 8) : State :=
  match cells with
  | [] => s
  | (a, _) :: _ =>
    let base := sectorOf a * 128
    let at' (l : List Nat) : List Byte := l.map fun i => ((cells.find? fun e => e.1 = i).map (·.2)).getD 0
    let all := (List.range 128).map (base + ·)
    let run := (List.range cells.length).map (a + ·)
    if all.all fun i => cells.any fun e => decide (e.1 = i) then s.writeAt die base (at' all) key
    else if cells.map (·.1) = run then s.writeAt die a (cells.map (·.2)) key
    else cells.foldl (fun s e => s.writeAt die e.1 [e.2] key) s

/-- A core writes bytes through a page of a key: its own L1 copy stays coherent (R220). -/
def State.writeBy (s : State) (core pa : Nat) (b : List Byte) (key : BitVec 8) : State :=
  (s.writeAt (dieOfCore core) pa b key).keepL1 core ((s.core core).holdsL1 pa b.length)

/-- A store of the acting context that performs now. -/
def State.perform (s : State) (p : Place) (b : List Byte) (cls : Fin 16) (h : Hint) : State :=
  let s := ((((s.pay p.pa b.length).rekey p.pa b.length p.key).cached p .store h).writeBy s.coreNo p.pa b p.key)
  (s.updateL1 s.coreNo (cellsAt p.pa b)).note p.pa b.length cls true

/-! ## Atomic operations (R280, R282) -/

/-- Two BF16 sums, one for each half (R280). -/
def bf16x2 (a b : Nat) : Nat :=
  fpAdd .bf16 (a % 2 ^ 16) (b % 2 ^ 16) + fpAdd .bf16 (a / 2 ^ 16 % 2 ^ 16) (b / 2 ^ 16 % 2 ^ 16) * 2 ^ 16

/-- `f(op, d, s)` of an `AMO` on `n` bytes (R280). -/
def amoNew (op : AmoOp) (n d v : Nat) : Nat :=
  match op with
  | .add => (d + v) % 2 ^ (8 * n)
  | .and => d &&& v
  | .or => d ||| v
  | .xor => d ^^^ v
  | .min => signedPick n false d v
  | .max => signedPick n true d v
  | .minu => min d v
  | .maxu => max d v
  | .swap => v
  | .fadd32 => fpAdd .fp32 d v
  | .faddbf16x2 => bf16x2 d v

/-- `Combine` of a `RED` on `n` bytes where the bank applies it at arrival (R282). -/
def redNew (op : RedOp) (n d v : Nat) : Nat :=
  match op with
  | .add => (d + v) % 2 ^ (8 * n)
  | .fadd32 => fpAdd .fp32 d v
  | .faddbf16x2 => bf16x2 d v
  | .min => signedPick n false d v
  | .max => signedPick n true d v
  | .and => d &&& v
  | .or => d ||| v
  | .xor => d ^^^ v

/-- The value at an address before an atomic, merged first (R278). -/
def State.atomRead (s : State) (pa n : Nat) : Nat × State :=
  let s := s.mergeRange pa n
  (s.mem.getLe pa n, s)

/-! ## The levels of a reduction (R283) -/

/-- Bytes of an atomic: 4 or 8. -/
def atomBytes (dbl : Bool) : Nat := if dbl then 8 else 4

/-- A partial with more contributions. -/
def RedSector.add (r : RedSector) (l : List (Nat × List Byte)) : RedSector := { r with terms := r.terms ++ l }

/-- A partial with a registration from the level below. -/
def RedSector.register (r : RedSector) (who : Nat) : RedSector :=
  { r with below := if r.below.contains who then r.below else who :: r.below }

/-- Contributions combine exactly into the partial that the home holds. -/
def State.toHome (s : State) (sec : Nat) (l : List (Nat × List Byte)) : State :=
  s.mapMs fun m => { m with red := m.red.map fun r => if r.sector = sec then r.add l else r }

/-- The slice of a die that holds the die's partial of a sector. -/
def State.redSlice (s : State) (die sec : Nat) : Nat := (s.sliceMap die).map.toList.getD (sliceHash (sec * 128)) 0

/-- Sectors of which a slice of a die holds partials. -/
def State.redAtSlice (s : State) (die slice : Nat) : List (Nat × Nat × RedSector) :=
  s.ms.redDie.filter fun e => decide (e.1 = die) && decide (e.2.1 = slice)

/-- A core registers for a sector at its die, whose oldest partial moves to the home where 256 are held. -/
def State.atDie (s : State) (core : Nat) (r : RedSector) : State :=
  let d := dieOfCore core
  let l := s.redSlice d r.sector
  if s.ms.redDie.any fun e => decide (e.1 = d) && decide (e.2.2.sector = r.sector) then
    s.mapMs fun m => { m with redDie := m.redDie.map fun e =>
      if e.1 = d ∧ e.2.2.sector = r.sector then (e.1, e.2.1, (e.2.2.add r.terms).register core) else e }
  else
    let here := s.redAtSlice d l
    let s := match if 256 ≤ here.length then here.head? else none with
      | none => s
      | some old => (s.mapMs fun m => { m with redDie := m.redDie.erase old }).toHome old.2.2.sector old.2.2.terms
    s.mapMs fun m => { m with redDie := m.redDie ++ [(d, l, { r with below := [core] })] }

/-- A contribution enters the reduction buffer of its core, whose least recently used partial moves to the die where 32 are held. -/
def State.atCore (s : State) (core : Nat) (r : RedSector) : State :=
  let l := (s.core core).red
  match l.find? fun q => q.sector = r.sector with
  | some q => s.mapCore core fun c => { c with red := q.add r.terms :: c.red.filter fun q => q.sector ≠ r.sector }
  | none =>
    let s := match if 32 ≤ l.length then l.getLast? else none with
      | none => s
      | some old => (s.mapCore core fun c => { c with red := c.red.filter fun q => q.sector ≠ old.sector }).atDie core old
    s.mapCore core fun c => { c with red := r :: c.red }

/-- The home registers a die for a sector, which then has no replica and no write pending (R283). -/
def State.registerHome (s : State) (die sec : Nat) (op : RedOp) (dbl : Bool) : State :=
  let s := (s.completeWrite sec).dropL1 [sec]
  if s.ms.red.any fun r => decide (r.sector = sec) then
    s.mapMs fun m => { m with red := m.red.map fun r => if r.sector = sec then r.register die else r }
  else s.mapMs fun m => { m with red := ⟨sec, op, dbl, [], [die]⟩ :: m.red }

/-- A contribution of a core joins a reduction sector; a sector with another key is merged first (R283, R284). -/
def State.contribute (s : State) (core : Nat) (op : RedOp) (dbl : Bool) (pa : Nat) (b : List Byte) : State :=
  let sec := sectorOf pa
  let s := match s.ms.red.find? fun r => r.sector = sec with
    | some r => if r.op = op ∧ r.dbl = dbl then s else s.mergeRed sec
    | none => s
  let s := s.registerHome (dieOfCore core) sec op dbl
  (s.atDie core ⟨sec, op, dbl, [], []⟩).atCore core ⟨sec, op, dbl, [(pa, b)], []⟩

/-- The homes of a partition can hold a partial of the sector: it holds one, or there is room in the slices and in the spill area
(R283; log entry 47). -/
def State.redRoom (s : State) (p : Part) (sec : Nat) : Bool :=
  s.ms.red.any (fun r => decide (r.sector = sec)) ||
  (s.part p).any fun q => decide ((s.ms.red.filter fun r => q.inCarve (r.sector * 128) 128).length < Config.redSectors q.spillSize)

/-! ## Requests at their homes (R237, R289) -/

/-- A request as it is carried out at any poisoned line: an atomic, or a registration. -/
def ReqKind.atom : ReqKind → Bool
  | .amo .. | .cas .. | .red .. | .merge => true
  | .copy _ _ _ comb => comb
  | .load .. | .store .. | .fetch .. | .dues .. | .xbytes .. => false

/-- An instruction of the C stream waits for what the request answers. -/
def ReqKind.waits : ReqKind → Bool
  | .load .. | .cas .. | .merge => true
  | .amo _ _ _ ret => ret
  | .store .. | .red .. | .copy .. | .fetch .. | .dues .. | .xbytes .. => false

/-- The request of an instruction that does not wait for it. -/
def ReqKind.posted : ReqKind → Bool
  | .store .. | .red .. => true
  | .amo _ _ _ ret => !ret
  | .load .. | .cas .. | .copy .. | .fetch .. | .merge | .dues .. | .xbytes .. => false

/-- Bytes that the request reaches. -/
def ReqKind.size : ReqKind → Nat
  | .load n _ | .amo _ n _ _ | .cas n _ _ => n
  | .store cells => cells.length
  | .red _ dbl _ => atomBytes dbl
  | .fetch _ => 4
  | .copy .. | .merge | .dues .. | .xbytes .. => 1

/-- The map entry of an address is being moved to another slice (R237). -/
def State.slicesMove (s : State) (pa : Nat) : Bool := (s.sliceMap (homeDie s.mg.mode pa)).moving.any fun e => decide (e.1 = sliceHash pa)

/-- A range in HBM meets a condition that parks a request: a revoked key, a slice that is being retired, or a poisoned line, for an
atomic any such line, for another access one with a write pending or with reductions to merge (R237, R289). -/
def State.homeBad (s : State) (pa n : Nat) (key : BitVec 8) (atom : Bool) : Bool :=
  !s.keyOk key || s.slicesMove pa ||
  (s.poisonedAt pa n && (atom || (sectorsOf pa n).any fun k => s.pendingAt k || s.ms.red.any fun r => decide (r.sector = k)))

/-- A request to a place is parked: a condition holds there, or requests to its sector are parked already. -/
def State.mustPark (s : State) (p : Place) (n : Nat) : Bool :=
  decide (p.pa < hbmTop) && (s.homeBad p.pa n p.key false || s.ms.parked.any fun q => decide (sectorOf q.addr = sectorOf p.pa))

/-- A request parks an atomic: as R237, and any poisoned line at an HBM home (R289). -/
def State.atomParks (s : State) (p : Place) (n : Nat) : Bool :=
  s.mustPark p n || (decide (p.pa < hbmTop) && s.poisonedAt p.pa n)

/-- The condition that parked a request still holds. -/
def State.stillBad (s : State) (q : Parked) : Bool := s.homeBad q.addr q.kind.size q.pageKey q.kind.atom

/-- The fault queue of a slice has a free entry. -/
def State.parkRoom (s : State) (h : Nat × Nat) : Bool :=
  decide ((s.ms.parked.filter fun q => decide ((q.die, q.slice) = h)).length < 64)

/-- A request of the acting context. -/
def State.request (s : State) (p : Place) (a : Word) (cls : Fin 16) (kind : ReqKind) (hint : Hint := .default) : Parked :=
  let h := s.home p.pa
  { serial := s.serial, die := h.1, slice := h.2, part := s.ctx.ident.part, addr := p.pa, va := a, pageKey := p.key, device := p.device, hint := hint, gone := false, since := s.nstime
    key := s.ctx.key, cls := cls, poison := s.poisonedAt p.pa 1, kind := kind }

/-- What a request has read goes to the instruction that waits for it, unless that has been rolled back. -/
def State.answerTo (s : State) (q : Parked) (v : Nat) : State :=
  if q.gone then s else s.mapKey q.key fun c => { c with order := { c.order with result := some v } }

/-- What a fetch that had to wait has got goes to its stream. -/
def State.answerFetch (s : State) (q : Parked) (t : Stream) (word : Option Nat) (cause : BitVec 8) : State :=
  if q.gone then s else s.mapKey q.key fun c => { c with order := { c.order with fetched := c.order.fetched ++ [⟨t, q.va, word, cause⟩] } }

/-- The `RED` with a serial number has been registered, or has been dropped: its instruction completes (R282). -/
def State.registered (s : State) (k : CtxKey) (n : Nat) : State :=
  s.mapKey k fun c => ({ c with order := { c.order with unregistered := c.order.unregistered.filter fun m => m ≠ n } } : Ctx).settle

/-- The place of a request. -/
def Parked.place (q : Parked) : Place := ⟨q.addr, false, q.pageKey, q.device⟩

/-- How a request passes the caches. -/
def ReqKind.use (k : ReqKind) : CacheUse :=
  match k with
  | .load .. | .copy .. | .xbytes .. | .dues .. => .load
  | .fetch _ => .fetch
  | .store _ => .store
  | .amo .. | .cas .. | .red .. | .merge => .atomic

/-- A request has reached its home: the page's key applies, and it passes the caches (R221, R225). -/
def State.reach (s : State) (q : Parked) : State :=
  (s.rekey q.addr q.kind.size q.pageKey).cachedFor q.part q.key.core.val q.place q.kind.use q.hint

/-- A request performs. The bytes of copy commands and exchanges move by their own steps. -/
def State.carryOut (s : State) (q : Parked) : State :=
  let core := q.key.core.val
  let die := dieOfCore core
  match q.kind with
  | .load n ro =>
    let (b, s) := (s.reach q).readCore core q.addr n q.device ro
    (s.noteFor q.key q.addr n q.cls false).answerTo q (leValue b)
  | .fetch t =>
    let (b, s) := (s.reach q).readAt die q.addr 4 (!q.device)
    let s := if q.device then s else s.mapCore core (·.fillIcache q.addr (leValue b))
    s.answerFetch q t (some (leValue b)) 0
  | .store cells =>
    let s := s.reach q
    ((s.writeCells die cells q.pageKey).keepL1 core ((s.core core).holdsL1 q.addr 1)).noteFor q.key q.addr 1 q.cls true
  | .amo op n v ret =>
    let (d, s) := (s.reach q).atomRead q.addr n
    let s := (s.writeAt die q.addr (leBytes n (amoNew op n d v)) q.pageKey).noteFor q.key q.addr n q.cls (!ret)
    if ret then s.answerTo q d else s
  | .cas n e v =>
    let (d, s) := (s.reach q).atomRead q.addr n
    let s := if d = e then s.writeAt die q.addr (leBytes n v) q.pageKey else s.dropReplica die (sectorOf q.addr)
    (s.noteFor q.key q.addr n q.cls false).answerTo q d
  | .red op dbl v =>
    let s := ((s.reach q).contribute core op dbl q.addr (leBytes (atomBytes dbl) v)).noteFor q.key q.addr 1 q.cls true
    s.registered q.key q.serial
  | .merge => (s.mergeRed (sectorOf q.addr)).answerTo q 0
  | .copy .. | .dues .. | .xbytes .. => s

/-- A `RED` finds no room for its partial at its home, so that it waits (R283). -/
def State.noRoom (s : State) (q : Parked) : Bool :=
  match q.kind with
  | .red .. => !s.redRoom q.part (sectorOf q.addr)
  | _ => false

/-- A request that arrives at its home is carried out, or parked at the end of the home's queue; `none` while that queue is full. A
posted request is noted as it is parked, so that flush markers wait for it (R237, R272). -/
def State.arrive (s : State) (q : Parked) : Option State :=
  let behind : Bool := decide (q.addr < hbmTop) && (s.stillBad q || s.ms.parked.any fun r => decide (sectorOf r.addr = sectorOf q.addr))
  if !behind then (if s.noRoom q then none else some (s.carryOut q))
  else if s.parkRoom (q.die, q.slice) then
    let s := if q.kind.posted then s.noteFor q.key q.addr 1 q.cls true else s
    some (s.mapMs fun m => { m with parked := m.parked ++ [{ q with since := s.nstime }] })
  else none

/-! ## Ports (R325 to R327) -/

/-- A request waits at its core's port. -/
def State.holdAt (s : State) (q : Parked) : State := s.mapMs fun m => { m with held := m.held ++ [q] }

/-- The acting context sends a request: it leaves the port with its tokens, or the port holds it. -/
def State.send (s : State) (q : Parked) : State :=
  let t := s.tick
  if !s.hasTokens q.addr 1 then (t.starve (homeDie s.mg.mode q.addr)).holdAt q
  else ((t.pay q.addr 1).arrive q).getD (t.holdAt q)

/-- The request is one that an instruction of the acting context's C stream waits for. -/
def State.mine (s : State) (q : Parked) : Bool := decide (q.key = s.ctx.key) && q.kind.waits && !q.gone

/-- The instruction that waits for a request of the acting context at an address has sent it. -/
def State.isSent (s : State) (pa : Nat) : Bool := (s.ms.parked ++ s.ms.held).any fun q => s.mine q && decide (q.addr = pa)

/-- A request that an instruction waits for is sent once. -/
def State.sendOnce (s : State) (q : Parked) : State := if s.isSent q.addr then s else s.send q

/-- Something that the acting context's C stream waits for is on its way, or has come and has not been taken. -/
def State.awaited (s : State) : Bool :=
  s.ctx.order.result.isSome || s.ctx.order.answer.isSome || (s.ms.parked ++ s.ms.held).any s.mine

/-- A word of code that a stream has asked for at an address is on its way. -/
def State.fetchSent (s : State) (t : Stream) (a : Word) : Bool :=
  (s.ms.parked ++ s.ms.held).any fun q => decide (q.key = s.ctx.key) && !q.gone && decide (q.va = a) &&
    match q.kind with
    | .fetch u => decide (u = t)
    | _ => false

/-! ### The order of the ports (R325, R387) -/

/-- Takes one from the count of a die. -/
def lessOne (l : List Nat) (d : Nat) : List Nat := l.mapIdx fun i n => if i = d then n - 1 else n

/-- Requests that a payer has still to send to the stacks of a die. -/
def Ctx.dueAt (c : Ctx) (p : Payer) (d : Nat) : Nat :=
  let side (t : CopyStream) : CopySt := match t with
    | .ld => c.ld
    | .st => c.st
  match p with
  | .copy t n => (((side t).flight.find? fun q => q.seq = n).map fun q => q.due.getD d 0).getD 0
  | .index t => ((side t).indexDue.map fun e => e.2.getD d 0).getD 0
  | .exchange n => ((c.coll.exchanges.find? fun x => x.seq = n).map fun x => x.due.getD d 0).getD 0

/-- One request of a payer has left for the stacks of a die. -/
def Ctx.payOne (c : Ctx) (p : Payer) (d : Nat) : Ctx :=
  let on (t : CopyStream) (f : CopySt → CopySt) : Ctx := match t with
    | .ld => { c with ld := f c.ld }
    | .st => { c with st := f c.st }
  match p with
  | .copy t n => on t fun r => { r with flight := r.flight.map fun q => if q.seq = n then { q with due := lessOne q.due d } else q }
  | .index t => on t fun r => { r with indexDue := r.indexDue.map fun e => (e.1, lessOne e.2 d) }
  | .exchange n =>
    { c with coll := { c.coll with exchanges := c.coll.exchanges.map fun x => if x.seq = n then { x with due := lessOne x.due d } else x } }

/-- A request is no longer held at its port. -/
def State.leaves' (s : State) (q : Parked) : State := s.mapMs fun m => { m with held := m.held.filter fun r => decide (r.serial ≠ q.serial) }

/-- The oldest request of a port leaves it with its token; `none`: its home's fault queue is full, or a `RED` finds no room. -/
def State.leavePort (s : State) (q : Parked) : Option State :=
  match q.kind with
  | .dues p =>
    match s.find q.key with
    | none => some (s.leaves' q)
    | some c =>
      if c.dueAt p q.die = 0 then some (s.leaves' q)
      else
        let s := (s.mapBucket q.part q.die (·.spend 1)).mapKey q.key (·.payOne p q.die)
        some (if c.dueAt p q.die ≤ 1 then s.leaves' q else s)
  | _ => ((s.payFor q.part q.addr 1).arrive q).map (·.leaves' q)

/-- Tokens that the oldest request of an entry needs. -/
def Parked.need (q : Parked) : Nat :=
  match q.kind with
  | .dues _ => 1
  | _ => requests q.addr 1

/-- The first of a core's held requests that can leave, where nothing older to the same stacks stays: the state after it left, if there
is one; a bucket without tokens is noted (R325, R326). -/
def State.firstOut : List Parked → List (Part × Nat) → State → State × Bool
  | [], _, s => (s, false)
  | q :: rest, stuck, s =>
    if stuck.contains (q.part, q.die) then State.firstOut rest stuck s
    else if (s.bucket q.part q.die).balance < q.need then State.firstOut rest ((q.part, q.die) :: stuck) (s.starveFor q.part q.die)
    else
      match s.leavePort q with
      | some u => (u, true)
      | none => State.firstOut rest ((q.part, q.die) :: stuck) s

/-- Up to so many requests leave a core's port. -/
def State.portTurn (core : Nat) : Nat → State → State
  | 0, s => s
  | n + 1, s =>
    match State.firstOut (s.ms.held.filter fun q => decide (q.key.core.val = core)) [] s with
    | (u, true) => State.portTurn core n u
    | (u, false) => u

/-- A cycle of the ports: in ascending order of the cores, two requests of each (R387). -/
def State.runPorts (s : State) : State :=
  (sortNat (s.ms.held.map fun q => q.key.core.val).eraseDups).foldl (fun s c => State.portTurn c 2 s) s

/-- Requests of the acting context to each die's stacks join its port: where the port is free and has the tokens they leave at once, and
else they take their place in its order. What is left to pay, by die, and the state after (R325). -/
def State.payOrQueue (s : State) (p : Payer) (cls : Fin 16) (due : List Nat) : List Nat × State :=
  let part := s.ctx.ident.part
  (List.range 6).foldl (fun a d =>
    let n := due.getD d 0
    let s := a.2
    if n = 0 then (a.1 ++ [0], s)
    else if !s.portBusy s.coreNo part d && decide (n ≤ (s.bucket part d).balance) then (a.1 ++ [0], s.mapBucket part d (·.spend n))
    else
      let q : Parked := { s.request ⟨0, true, 0, false⟩ 0 cls (.dues p) with die := d, slice := 0 }
      (a.1 ++ [n], ((if (s.bucket part d).balance < n then s.starve d else s).tick).holdAt q)) ([], s)

/-- The requests of a context that instructions of its C stream wait for are asked for by nobody any more: they leave their ports and
queues as before (R327). -/
def State.withdraw (s : State) (k : CtxKey) : State :=
  let quit (q : Parked) : Parked := if q.key = k ∧ q.kind.waits then { q with gone := true } else q
  if (s.ms.parked ++ s.ms.held).any fun q => decide (q.key = k) && q.kind.waits then
    s.mapMs fun m => { m with parked := m.parked.map quit, held := m.held.map quit }
  else s

/-- Every request of a context leaves with its task. -/
def State.dropRequests (s : State) (k : CtxKey) : State :=
  let keep (q : Parked) : Bool := !(decide (q.key = k) && (q.kind.waits || match q.kind with
    | .fetch _ | .dues _ | .xbytes .. => true
    | _ => false))
  s.mapMs fun m => { m with parked := m.parked.filter keep, held := m.held.filter keep }

/-- The requests of copy commands that a context no longer has in flight are withdrawn. -/
def State.sweepCopies (s : State) (k : CtxKey) (flying : CopyStream → BitVec 32 → Bool) : State :=
  let keep (q : Parked) : Bool :=
    decide (q.key ≠ k) ||
    match q.kind with
    | .copy t n _ _ | .dues (.copy t n) => flying t n
    | _ => true
  if (s.ms.parked ++ s.ms.held).all keep then s
  else s.mapMs fun m => { m with parked := m.parked.filter keep, held := m.held.filter keep }

/-- The acting context's copy commands in flight. -/
def Ctx.flies (c : Ctx) (t : CopyStream) (n : BitVec 32) : Bool :=
  (match t with
   | .ld => c.ld
   | .st => c.st).flight.any fun q => decide (q.seq = n) && !q.done

end Sys2Proof.Machine
end

