-- ==== Sys2Proof/Machine/Epoch.lean ====
section
/-!
DEFINITION. Register space, the journal, taint, the commit buffer, the span's points, and the closing and
undoing of epochs (08_verification R190, R194 to R201, 13_collectives R301 to R304).
-/

namespace Sys2Proof.Machine

/-! ## The span and its points (R190) -/

/-- The key of a slot in a store. -/
def slotKey (band r c : Nat) : Nat := band * 1024 + r * 64 + c

/-- The bands of a mask. -/
def bandsOf (m : BitVec 32) : List Nat := (List.range 32).filter fun b => m.getLsbD b

/-- The mask of `n` bands from `b`. -/
def bandMask (b n : Nat) : BitVec 32 := BitVec.ofNat 32 ((2 ^ n - 1) * 2 ^ b)

/-- The part of a table whose keys lie in band `b`. -/
def inBand {α : Type} (b : Nat) (t : Table α) : Table α := t.filter fun e => decide (e.1 / 1024 = b)

/-- A table with the part of band `b` replaced. -/
def putBand {α : Type} (b : Nat) (t new : Table α) : Table α :=
  t.filter (fun e => decide (e.1 < b * 1024)) ++ new ++ t.filter (fun e => decide ((b + 1) * 1024 ≤ e.1))

/-- The state of a band. -/
def Store.band (st : Store) (b : Nat) : BandSt := Table.get BandSt.zero st.bands b

/-- The slot at a key. -/
def Store.slot (st : Store) (k : Nat) : Slot := Table.get Slot.zero st.slots k

/-- Writes a slot. -/
def Store.setSlot (st : Store) (k : Nat) (v : Slot) : Store := { st with slots := Table.set Slot.zero st.slots k v }

/-- Writes a band's state. -/
def Store.setBand (st : Store) (b : Nat) (v : BandSt) : Store := { st with bands := Table.set BandSt.zero st.bands b v }

/-- Copies band `b` of another store. -/
def Store.copyBand (st src : Store) (b : Nat) : Store :=
  ({ st with slots := putBand b st.slots (inBand b src.slots) }).setBand b (src.band b)

/-- Two stores agree on a band: S, side flags and band state (R189). -/
def Store.agree (x y : Store) (b : Nat) : Bool :=
  decide (inBand b x.slots = inBand b y.slots) && decide (x.band b = y.band b)

/-- A slot's side flags. -/
def Slot.flags (v : Slot) : BitVec 4 := BitVec.ofNat 4 (bitOf v.nan + 2 * bitOf v.pinf + 4 * bitOf v.ninf + 8 * bitOf v.clamp)

/-- A slot's base tag (R190). -/
def Slot.tag (v : Slot) : Nat × BitVec 4 := ((v.s % 65521).toNat, v.flags)

/-- Records the base tags of a band (R190). -/
def Core.tagBand (c : Core) (b : Nat) : Core :=
  let new := (inBand b c.main.slots).filterMap fun e => if e.2.tag = (0, 0) then none else some (e.1, e.2.tag)
  { c with tags := putBand b c.tags new }

/-- The arrays that serve the core: both, or the good one alone (R204). -/
def Core.oneArray (c : Core) : Bool := c.mainFailed || c.shadowFailed

/-! ## Interrupts and the log (R357, R364) -/

/-- Raises an MSI-X vector of a function. -/
def State.msi (s : State) (fn vec : Nat) : State := s.mapMg fun m => { m with msix := m.msix ++ [(fn, vec)] }

/-- Entries that the 64 KiB of the error log hold, of 64 bytes each (R364; log entry 63). -/
def logRoom : Nat := 1024

/-- The 32 bytes of detail of an entry: up to four numbers of 8 bytes (R364; log entry 63). -/
def logDetail (l : List Nat) : List Byte := ((l.flatMap fun n => leBytes 8 n) ++ List.replicate 32 0).take 32

/-- A log with one entry more; the oldest leaves a full one (log entry 63). -/
def logAdd (l : List LogEntry) (e : LogEntry) : List LogEntry := (l ++ [e]).drop (l.length + 1 - logRoom)

/-- Adds an entry to the error log (R364). -/
def State.logAt (s : State) (die core : Nat) (src : LogSource) (detail : List Nat) : State :=
  (s.mapMg fun m => { m with log := logAdd m.log ⟨s.nstime, die, core, src, logDetail detail⟩ }).msi 0 1

/-- An entry about the acting core. -/
def State.logHere (s : State) (src : LogSource) (detail : List Nat) : State := s.logAt s.dieNo s.coreNo src detail

/-! ## Uncorrectable errors of the two stores (R206, R211) -/

/-- Slots of bands that a store cannot read, in band-then-row-major order. -/
def Store.badSlots (st : Store) (bands : List Nat) : List Nat :=
  (st.slots.filter fun e => e.2.bad && bands.contains (e.1 / 1024)).map (·.1)

/-- The first slot of bands that no store in use can read (R206; on a core with one good array, that its store cannot). -/
def Core.lost (c : Core) (bands : List Nat) : Option Nat :=
  if c.mainFailed then (c.shadow.badSlots bands).head?
  else (c.main.badSlots bands).find? fun k => c.shadowFailed || (c.shadow.slot k).bad

/-- Copies slots from another store. -/
def Store.copySlots (st src : Store) (l : List Nat) : Store := l.foldl (fun st k => st.setSlot k (src.slot k)) st

/-- Each slot that one store cannot read is rewritten from the other (R206). -/
def Core.mend (c : Core) (bands : List Nat) : Core :=
  { c with main := c.main.copySlots c.shadow (c.main.badSlots bands), shadow := c.shadow.copySlots c.main (c.shadow.badSlots bands) }

/-- Some slot of the bands needs a repair that the two stores allow. -/
def Core.mends (c : Core) (bands : List Nat) : Bool :=
  !c.oneArray && !((c.main.badSlots bands).isEmpty && (c.shadow.badSlots bands).isEmpty)

/-- Counts a mismatch met, and EVT.INTEG (R191, R212). -/
def State.countMismatch (s : State) : State :=
  (s.mapSys fun r => { r with integCount := if r.integCount = BitVec.allOnes 24 then r.integCount else r.integCount + 1 }).mapCtx (·.event evInteg)

/-- Repairs unreadable slots of bands: a mismatch whose verdict is match, and which is logged (R206, R364). -/
def State.mendBands (s : State) (bands : List Nat) : State :=
  let c := s.core s.coreNo
  if c.mends bands then
    ((s.mapCore s.coreNo fun c => c.mend bands).logAt s.dieNo s.coreNo .ecc (c.main.badSlots bands ++ c.shadow.badSlots bands)).countMismatch
  else s

/-- TRAPVAL of a fault at a slot of a range of bands: the first band, the row over the range, the column (R202, R206). -/
def rangeVal (band key : Nat) : Word :=
  BitVec.ofNat 64 (band + ((key / 1024 - band) * 16 + key / 64 % 16) * 2 ^ 8 + key % 64 * 2 ^ 16)

/-- TRAPVAL of a fault at a slot of an implicit point: its band, row and column (R202, R206). -/
def verifyVal (band key : Nat) : Word := BitVec.ofNat 64 (band + key / 64 % 16 * 2 ^ 8 + key % 64 * 2 ^ 16)

/-- TRAPVAL of a fault of a drain at a slot: the first band of its range, with the slot's row over the range, or, where the slot is in a
band of the span outside the range, its row within its own band (R202, R206; log entry 43). -/
def spanVal (band nb key : Nat) : Word :=
  if band ≤ key / 1024 ∧ key / 1024 < band + nb then rangeVal band key else verifyVal band key

/-- The span ends: its log, counts, operand rows and operand entries go (R190, R196). -/
def MRegs.endSpan (m : MRegs) : MRegs :=
  { m with spanLog := [], spanProducts := [], spanBands := 0, opRows := [], opJournal := [], pointFailed := false }

/-- A verification point at which the bands of the span, and those given, agreed: their tags are recorded and the span ends
(R190). -/
def State.agreeOn (s : State) (bands : List Nat) : State :=
  (s.mapCore s.coreNo fun c => (bandsOf s.ctx.mx.spanBands ++ bands).foldl Core.tagBand c).mapMx MRegs.endSpan

/-- The two stores agree on bands, or one array serves the core alone (R189, R204). -/
def Core.agreeAll (c : Core) (bands : List Nat) : Bool := c.oneArray || bands.all fun b => c.main.agree c.shadow b

/-- The comparison of a point on bands: agreement ends the span, disagreement goes to arbitration (R190, R200). -/
def State.comparePoint (s : State) (bands : List Nat) : State :=
  if (s.core s.coreNo).agreeAll bands then s.agreeOn bands
  else
    let s := s.mapMx fun m => { m with dispute := some (.point bands (s.dep .mx).spec) }
    s.mapMg fun m => { m with nougat := m.nougat ++ [s.ctx.key] }

/-- A verification point on bands (R190, R200, R206). A slot that no store can read ends the span with POISON recorded at the
stream's next turn; one that one store can read is repaired first. -/
def State.pointOn (s : State) (bands : List Nat) : State :=
  match (s.core s.coreNo).lost bands with
  | some k => (s.mapMx MRegs.endSpan).mapStr .mx fun x => { x with late := some (cPOISON, verifyVal (k / 1024) k) }
  | none =>
    if (s.core s.coreNo).mends bands then
      ((s.mendBands bands).mapSys fun r => { r with lastVerdict := 1 }).comparePoint bands
    else s.comparePoint bands

/-- The implicit point: on every band of the span (R190). -/
def State.implicitPoint (s : State) : State := s.pointOn (bandsOf s.ctx.mx.spanBands)

/-- Bands leave the span when their owner frees them: what was added to them counts no more (log entry 37). -/
def MRegs.leaveSpan (m : MRegs) (bands : BitVec 32) : MRegs :=
  if m.spanBands &&& ~~~bands = 0 then m.endSpan
  else { m with spanBands := m.spanBands &&& ~~~bands
                spanLog := m.spanLog.map fun q => { q with bands := q.bands &&& ~~~bands }
                spanProducts := m.spanProducts.filter fun e => !bands.getLsbD (e.1 / 1024) }

/-- The owner of a band, if it has one (R164). -/
def Core.ownerOf (c : Core) (b : Nat) : Option Nat := (c.owner.find? fun o => o.1 = b).map (·.2)

/-! ## Register space (R127) and the journal (R196, R197) -/

/-- The physical address of an RS window offset. -/
def State.rsAddr (s : State) (off : Nat) : Nat := rsPa s.coreNo (s.ctx.win.rsBase + off)

/-- Bytes of the RS window. -/
def State.rsGet (s : State) (off n : Nat) : List Byte := s.mem.getBytes (s.rsAddr off) n

/-- Whether an epoch taints a byte range of the RS window. -/
def Epoch.taints (e : Epoch) (off n : Nat) : Bool :=
  e.taint.any fun g => decide (g * 128 < off + n) && decide (off < g * 128 + 128)

/-- What reading a byte range of the RS window depends on (R194, R197). -/
def State.rsDep (s : State) (off n : Nat) : Dep :=
  ⟨s.ctx.ver.any (·.taints off n), s.ctx.spec.any (·.taints off n)⟩

/-- What an instruction's reads depend on (R194). -/
def State.readDep (s : State) (r : Reads) : Dep :=
  if s.ctx.ver.isNone ∧ s.ctx.spec.isNone then r.dep
  else r.rs.foldl (fun d q => d.or (s.rsDep q.1 q.2)) r.dep

/-- A word of a byte range of the RS window whose value disagrees with its residue, by window offset (R210). -/
def State.badWord (s : State) (off n : Nat) : Option Nat :=
  let b := rsPa s.coreNo s.ctx.win.rsBase
  (s.ms.badWords.find? fun a => decide (b + off < a + 4) && decide (a < b + off + n)).map (· - b)

/-- The residue mismatch that an instruction of stream `t` with these reads meets, by its TRAPVAL: the control core, the VX engine
and the MX engine check their operands (R210). -/
def State.upset (s : State) (t : Stream) (r : Reads) : Option Word :=
  if t = .ld ∨ t = .st then none
  else
    match s.badReg r.xs with
    | some v => some v
    | none => if s.ms.badWords.isEmpty then none else (r.rs.findSome? fun q => s.badWord q.1 q.2).map (BitVec.ofNat 64)

/-- The 512-byte rows that a byte range touches. -/
def rowsOf (off n : Nat) : List Nat :=
  if n = 0 then [] else (List.range ((off + n - 1) / 512 - off / 512 + 1)).map (off / 512 + ·)

/-- Adds one byte's value to the entries of a journal, unless it is there. -/
def keepByte (l : List JRow) (row off : Nat) (b : Byte) : List JRow :=
  match l.find? (fun r => r.row = row) with
  | none => { row := row, cells := [(off, b)], bad := false } :: l
  | some _ => l.map fun r =>
      if r.row = row ∧ ¬ r.cells.any (fun c => c.1 = off) then { r with cells := (off, b) :: r.cells } else r

/-- Removes one byte from the entries of a journal; the entry stays (R196). -/
def dropByte (l : List JRow) (row off : Nat) : List JRow :=
  l.map fun r => if r.row = row then { r with cells := r.cells.filter fun c => c.1 ≠ off } else r

/-- Journal entries in use: a row held by one kind of entry is not held again by another (R196). -/
def Ctx.journalUsed (c : Ctx) : Nat :=
  let v := c.ver.elim [] fun e => e.rows.map (·.row)
  let p := c.spec.elim [] fun e => e.rows.map (·.row)
  let o := (c.mx.opJournal.map (·.row)).filter fun r => !(v.contains r || p.contains r)
  v.length + (p.filter fun r => !v.contains r).length + o.length +
    (c.spec.elim 0 fun e => e.bands.foldl (fun n b => n + if b.full then 64 else 1) 0)

/-- Journal entries there are (R196). -/
def Ctx.journalCap (c : Ctx) : Nat := c.win.jSize / 512

/-- One byte of register space written by a stream of dependence `d` (R196, R197). -/
def Ctx.journalByte (c : Ctx) (d : Dep) (off : Nat) (old : Byte) : Ctx :=
  let row := off / 512
  let dep (e : Epoch) : Epoch :=
    { e with rows := keepByte e.rows row off old
             taint := if e.taint.contains (off / 128) then e.taint else off / 128 :: e.taint }
  let clean (e : Epoch) : Epoch := { e with rows := dropByte e.rows row off }
  let c := { c with
    ver := c.ver.map (if d.ver then dep else clean)
    spec := c.spec.map (if d.spec then dep else clean) }
  if c.mx.opRows.contains row then
    { c with mx := { c.mx with opJournal := keepByte c.mx.opJournal row off old } }
  else c

/-- Granules of 128 bytes that a byte range covers whole. -/
def wholeGranules (off n : Nat) : List Nat :=
  let first := (off + 127) / 128
  (List.range ((off + n) / 128 - first)).map (first + ·)

/-- Takes granules of RS out of the taint of the epochs that a clean writer does not belong to (R197). -/
def Ctx.cleanWhere (c : Ctx) (d : Dep) (whole : Nat → Bool) : Ctx :=
  let f (e : Epoch) : Epoch := { e with taint := e.taint.filter fun k => !whole k }
  { c with ver := if d.ver then c.ver else c.ver.map f, spec := if d.spec then c.spec else c.spec.map f }

/-- A clean write makes whole granules clean (R197). -/
def Ctx.cleanGranules (c : Ctx) (d : Dep) (off n : Nat) : Ctx := c.cleanWhere d (wholeGranules off n).contains

/-- A granule is covered whole by pieces of a write, each a bit offset and a count of bits. -/
def coveredBy (l : List (Nat × Nat)) (g : Nat) : Bool :=
  (List.range 256).all fun i => l.any fun w => decide (w.1 ≤ g * 1024 + 4 * i) && decide (g * 1024 + 4 * i + 4 ≤ w.1 + w.2)

/-- A write of several pieces that a clean stream has made makes the granules clean that the pieces cover together (R197). -/
def State.cleanUnion (s : State) (d : Dep) (l : List (Nat × Nat)) : State :=
  if s.ctx.ver.isNone ∧ s.ctx.spec.isNone then s else s.mapCtx fun c => c.cleanWhere d (coveredBy l)

/-- Journals the bytes of a range as it stands. -/
def State.journalRange (s : State) (d : Dep) (off n : Nat) : State :=
  if s.ctx.ver.isNone ∧ s.ctx.spec.isNone ∧ s.ctx.mx.opRows.isEmpty then s
  else
    let b := s.rsGet off n
    s.mapCtx fun c =>
      ((List.range n).foldl (fun c i => c.journalByte d (off + i) (b.getD i 0)) c).cleanGranules d off n

/-- Sets bytes of the RS window; nothing is journalled. -/
def State.rsSet (s : State) (off : Nat) (b : List Byte) : State :=
  { s.unpoison (s.rsAddr off) b.length with mem := s.mem.setBytes (s.rsAddr off) b }

/-- The operand rows of the span are locked: its point is in arbitration, or the drain of a grantee on the core that reads its
bands is (R200). -/
def State.rowsLocked (s : State) : Bool :=
  s.ctx.mx.dispute.isSome || (!s.ctx.mx.opRows.isEmpty && s.others.any fun c =>
    c.live && decide (c.key.core = s.ctx.key.core) && c.mx.dispute.isSome && c.mx.drain.any fun d =>
      (List.range d.nb).any fun i => decide ((s.core s.coreNo).ownerOf (d.band + i) = some s.ctx.key.slot.val))

/-- The MX stream stands on a VERIFY fault: the point that a writer asks for has been taken and has failed (R202). -/
def Ctx.pointStands (c : Ctx) : Bool := (c.streams[Stream.mx.ix]).fault.any fun f => decide (f.1 = cVERIFY)

/-- A write of a clean stream needs an operand entry that the journal has no room for, and may take the point that this triggers
(R190, R196). -/
def State.pointDue (s : State) (d : Dep) (off n : Nat) : Bool :=
  !(d.ver || d.spec) && s.ctx.mx.dispute.isNone && s.ctx.mx.drain.isNone && !s.ctx.pointStands &&
  !(s.rowsLocked && (rowsOf off n).any fun r => s.ctx.mx.opRows.contains r) &&
  decide (max s.ctx.journalCap s.ctx.journalUsed < (s.journalRange d off n).ctx.journalUsed)

/-- Writes bytes to the RS window with dependence `d`. `none`: the write waits, for a verdict with the journal
full or for an arbitration whose operand rows it would overwrite (R195 to R197, R200). An operand entry
that finds the journal full takes an implicit point (R190). Where that point fails, the write that waited for it goes on with no operand
entry: the spec does not say (log entry 57). -/
def State.rsPut (s : State) (d : Dep) (off : Nat) (b : List Byte) : Option State :=
  if s.rowsLocked ∧ (rowsOf off b.length).any (fun r => s.ctx.mx.opRows.contains r) then none
  else
    let j := s.journalRange d off b.length
    if j.ctx.journalUsed ≤ max j.ctx.journalCap s.ctx.journalUsed then some (j.rsSet off b)
    else if s.pointDue d off b.length then
      (if s.implicitPoint.ctx.mx.dispute.isSome then none
       else some ((s.implicitPoint.journalRange d off b.length).rsSet off b))
    else if !(d.ver || d.spec) && s.ctx.pointStands then some (s.rsSet off b)
    else none

/-- Writes bytes to the RS window as stream `t`. -/
def State.rsWrite (s : State) (t : Stream) (off : Nat) (b : List Byte) : Option State := s.rsPut (s.dep t) off b

/-- Writes a list of pieces to the RS window, in order. -/
def State.rsPieces (s : State) (t : Stream) : List (Nat × List Byte) → Option State
  | [] => some s
  | (off, b) :: rest =>
    match s.rsWrite t off b with
    | none => none
    | some s => State.rsPieces s t rest

/-- Writes a list of pieces to the RS window as one instruction. -/
def State.rsWriteAll (s : State) (t : Stream) (l : List (Nat × List Byte)) : Option State :=
  (s.rsPieces t l).map fun u => u.cleanUnion (u.dep t) (l.map fun q => (8 * q.1, 8 * q.2.length))

/-- A waiting write of pieces, as offsets and lengths, waits for a point that has found a difference: the arbitration is asked for. -/
def State.askPoint (s : State) (d : Dep) : List (Nat × Nat) → State → State
  | [], t => t
  | (off, n) :: rest, t =>
    match s.rsPut d off (s.rsGet off n) with
    | some u => State.askPoint u d rest t
    | none => if s.pointDue d off n then t.implicitPoint else t

/-- What a write of pieces by stream `t` does while it waits (R196). -/
def State.waitWrite (s : State) (t : Stream) (l : List (Nat × Nat)) : State → State := s.askPoint (s.dep t) l

/-! ## The commit buffer (R198) -/

/-- The widest scope of a store, by the space of its address: the core's own window, the cluster, the die, the system (R198; log
entry 51). -/
def spaceScope (va : Word) : Scope :=
  match va.toNat / 2 ^ 48 with
  | 0xFF => .core
  | 0xFE => .cluster
  | 0xFD => .die
  | _ => .system

/-- One byte held for a dependent store, in the newest entry of its block as the task's address names it (R198; log entry 51). -/
def cbPut (l : List CbEntry) (p : Place) (va : Word) (i : Nat) (b : Byte) (cls : Fin 16) (d : Dep) (hint : Hint) : List CbEntry :=
  let pa := p.pa + i
  let blk := pa / 128
  let base := va + BitVec.ofNat 64 i - BitVec.ofNat 64 (pa % 128)
  let own : Fin 16 × Scope := (cls, spaceScope va)
  let fresh : CbEntry := { block := blk, cells := [(pa % 128, b, cls)], dep := d, classes := [own], bad := false, pageKey := p.key
                           device := p.device, va := base, hint := hint }
  match (l.filter fun e => e.block = blk ∧ e.va = base).getLast? with
  | none => l ++ [fresh]
  | some e =>
    if e.dep = d then
      l.map fun x => if x.block = blk ∧ x.va = base ∧ x.dep = d then
          { x with cells := (pa % 128, b, cls) :: x.cells.filter (fun c => c.1 ≠ pa % 128), hint := hint
                   classes := if x.classes.contains own then x.classes else own :: x.classes }
        else x
    else l ++ [fresh]

/-- Holds a dependent store; `none` when no entry is free, so that it waits for the verdict. -/
def State.hold (s : State) (p : Place) (va : Word) (b : List Byte) (cls : Fin 16) (d : Dep) (hint : Hint := .default) :
    Option State :=
  let l := (List.range b.length).foldl (fun l i => cbPut l p va i (b.getD i 0) cls d hint) s.ctx.cb
  if l.length ≤ 128 then some (s.mapCtx fun c => { c with cb := l }) else none

/-- A byte as its own context reads it: the newest held value, else the value given (R198). -/
def cbByte (l : List CbEntry) (pa : Nat) (b : Byte) : Byte :=
  l.foldl (fun v e =>
    if e.block = pa / 128 then
      match e.cells.find? (fun c => c.1 = pa % 128) with
      | some c => c.2.1
      | none => v
    else v) b

/-- Bytes read through the commit buffer of the acting context. -/
def State.through (s : State) (pa : Nat) (b : List Byte) : List Byte :=
  if s.ctx.cb.isEmpty then b else b.mapIdx fun i v => cbByte s.ctx.cb (pa + i) v

/-- A range that the acting context reads touches a poisoned sector, or a held entry with an error (R211). -/
def State.badAt (s : State) (pa n : Nat) : Bool :=
  s.poisonedAt pa n || s.ctx.cb.any fun e => e.bad && (sectorsOf pa n).contains e.block

/-- Performs the bytes of one class of a held entry, with one request for its sector (R198, R237, R272, R325). -/
def State.releaseClass (s : State) (e : CbEntry) (cls : Fin 16) : State :=
  let cells := ((e.cells.filter fun c => decide (c.2.2 = cls)).map fun c => (e.block * 128 + c.1, c.2.1))
  match cells with
  | [] => s
  | (pa, _) :: _ =>
    let s := (s.updateL1 s.coreNo cells).send
      (s.request ⟨pa, false, e.pageKey, e.device⟩ (e.va + BitVec.ofNat 64 (pa % 128)) cls (.store cells) e.hint)
    if e.bad then s.poison e.block else s

/-- Performs one held entry: each store of it under its own class. -/
def State.release1 (s : State) (e : CbEntry) : State := e.classes.reverse.foldl (fun s c => s.releaseClass e c.1) s

/-- Performs every held entry that depends on no epoch, in creation order (R198, R199). -/
def State.releaseCb (s : State) : State :=
  let go := s.ctx.cb.filter fun e => decide (e.dep = .clean)
  let s := s.mapCtx fun c => { c with cb := c.cb.filter fun e => decide (e.dep ≠ .clean) }
  go.foldl State.release1 s

/-! ## Closing an epoch (R199, R304) -/

/-- Whether a dependence names the verification epoch, or the speculation epoch. -/
def Dep.on (d : Dep) (spec : Bool) : Bool := if spec then d.spec else d.ver

/-- The dependence without the epoch. -/
def Dep.off (d : Dep) (spec : Bool) : Dep := if spec then { d with spec := false } else { d with ver := false }

/-- The epoch of a kind. -/
def Ctx.epoch (c : Ctx) (spec : Bool) : Option Epoch := if spec then c.spec else c.ver

/-- No epoch of the kind is open. -/
def Ctx.dropEpoch (c : Ctx) (spec : Bool) : Ctx := if spec then { c with spec := none } else { c with ver := none }

/-- Removes an epoch's mark from everything that carries it. -/
def Ctx.unmark (c : Ctx) (spec : Bool) : Ctx :=
  let cp (x : CopySt) : CopySt := { x with flight := x.flight.map fun q => { q with dep := q.dep.off spec } }
  { c with
    tok := c.tok.map fun l => l.map (·.off spec)
    queues := c.queues.map fun q => { q with deps := q.deps.map (·.off spec) }
    streams := c.streams.map fun x =>
      { x with pushes := x.pushes.map (fun p => { p with dep := p.dep.off spec })
               held := x.held.map fun h => (h.1, h.2.1, h.2.2.off spec) }
    cb := c.cb.map fun e => { e with dep := e.dep.off spec }
    ld := cp c.ld
    st := cp c.st
    mx := { c.mx with
      drain := c.mx.drain.map fun d => { d with dep := d.dep.off spec, word := (d.word.1, d.word.2.off spec) }
      dispute := c.mx.dispute.map fun d =>
        match d with
        | .drain => .drain
        | .point l on => .point l (on && !spec) } }

/-- An epoch closes at a match or a correct prediction (R199, R304). -/
def State.closeEpoch (s : State) (spec : Bool) : State :=
  (s.mapCtx fun c => ((c.dropEpoch spec).unmark spec).settle).releaseCb

/-! ## Undoing an epoch (R201, R304) -/

/-- Restores the journalled bytes of register space. -/
def State.restoreRows (s : State) (e : Epoch) : State :=
  let t : State := { s with mem := e.rows.foldl (fun m r => r.cells.foldl (fun m c => m.set (s.rsAddr c.1) c.2) m) s.mem }
  e.rows.foldl (fun t r => if r.bad then r.cells.foldl (fun t c => t.poison (sectorOf (t.rsAddr c.1))) t else t) t

/-- Restores the bands that dependent commands touched, in both stores (R303). -/
def State.restoreBands (s : State) (e : Epoch) : State :=
  s.mapCore s.coreNo fun c => e.bands.foldl (fun c b =>
    { c with main := c.main.copyBand b.main b.band, shadow := c.shadow.copyBand b.shadow b.band
             tags := putBand b.band c.tags b.tags }) c

/-- Sequence number `a`, or `b` when `a` is beyond it (R241). -/
def seqMin (a b : BitVec 32) : BitVec 32 := if reached a b then b else a

/-- A copy stream's registers back at a checkpoint: commands issued since are discarded, earlier ones stand as
they are now. -/
def CopySt.back (now was : CopySt) (spec : Bool) : CopySt :=
  { was with flight := now.flight.filter (fun q => !q.dep.on spec)
             doneseq := seqMin now.doneseq was.issued }

/-- The matrix registers back at a checkpoint (R301, R303). -/
def MRegs.back (now was : MRegs) (spec : Bool) : MRegs :=
  { was with signature := now.signature
             mxflags := if spec then was.mxflags else now.mxflags
             drain := now.drain
             dispute := now.dispute
             opJournal := was.opJournal ++ now.opJournal.filter fun r => !was.opJournal.any fun q => decide (q.row = r.row) }

/-- Special registers back at a checkpoint: events recorded and the part's own counts stay (R301). -/
def SysRegs.back (now was : SysRegs) : SysRegs :=
  { was with evt := was.evt ||| now.evt, integCount := now.integCount, lastVerdict := now.lastVerdict
             drains := now.drains, verdicts := now.verdicts, ratiogrant := now.ratiogrant }

/-- A stream goes back to its checkpoint (R201, R304). -/
def Ctx.restore (c : Ctx) (spec : Bool) (t : Stream) (n : Snap) : Ctx :=
  let now := c.streams[t.ix]
  let pushes := now.pushes.filter fun p => !p.dep.on spec
  let c := { c with streams := c.streams.set t.ix { n.st with pushes := pushes, paused := now.paused } }
  match n.regs with
  | .c r sys => { c with c := r, sys := c.sys.back sys
                         streams := if c.c.trapcause.getLsbD 15 = r.trapcause.getLsbD 15 then c.streams
                           else c.streams.mapIdx fun i x => if i = 0 then x else { x with paused := r.trapcause.getLsbD 15 } }
  | .copy r => if t = .st then { c with st := c.st.back r spec } else { c with ld := c.ld.back r spec }
  | .mx r => { c with mx := c.mx.back r spec }
  | .vx r => { c with vx := r }

/-- Every dependent stream goes back to its checkpoint. -/
def Ctx.restoreStreams (c : Ctx) (spec : Bool) (e : Epoch) : Ctx :=
  Stream.all.foldl (fun c t =>
    match e.snaps[t.ix] with
    | some n => c.restore spec t n
    | none => c) c

/-- Checkpoints of the other epoch that are later than those of the one that is undone. -/
def Epoch.prune (other gone : Epoch) : Epoch :=
  { other with snaps := other.snaps.mapIdx fun i n =>
      match n, gone.snaps.toList.getD i none with
      | some a, some b => if b.serial < a.serial then none else some a
      | n, _ => n }

/-- Queue entries pushed by dependent instructions go; entries they popped come back. -/
def Queue.back (q : Queue) (spec : Bool) (popped : Nat) : Queue :=
  let keep := q.deps.filter fun d => !d.on spec
  { q with head := (q.head + q.cap - popped % q.cap) % q.cap, count := keep.length + popped
           deps := List.replicate popped .clean ++ keep }

/-- Tokens and queue entries of an undone epoch (R194, R301). -/
def Ctx.backTokens (c : Ctx) (spec : Bool) (e : Epoch) : Ctx :=
  let c := { c with queues := c.queues.mapIdx fun i q => q.back spec (e.qpopped.toList.getD i 0) }
  (List.finRange 10).foldl (fun c k =>
    c.fill k (List.replicate e.popped[k] .clean ++ (c.tok[k]).filter fun d => !d.on spec)) c

/-- Undoes an epoch: register space, predicates, tokens, queues and dependent streams return; held stores,
waiting effects, and what a dependent instruction waits for at a home go (R201, R304). -/
def State.undo (s : State) (spec : Bool) : State :=
  match s.ctx.epoch spec with
  | none => s
  | some e =>
    let s := (s.restoreRows e).restoreBands e
    let s := if (e.snaps[Stream.c.ix]).isNone then s
      else (s.withdraw s.ctx.key).mapOrder fun o => { o with answer := none, result := none }
    let s := s.mapCtx fun c =>
      let c := { c with cb := c.cb.filter fun q => !q.dep.on spec
                        p := e.preds.foldl (fun p (x : Nat × BitVec 1024) => p.set! x.1 x.2) c.p }
      let c := (c.restoreStreams spec e).backTokens spec e
      let c := c.dropEpoch spec
      let c := if spec then { c with ver := c.ver.map (Epoch.prune · e) }
        else { c with spec := c.spec.map (Epoch.prune · e) }
      (c.unmark spec).dropReleases.settle
    s.sweepCopies s.ctx.key s.ctx.flies

/-- The acting context's dispute ends without a ruling (R205). -/
def State.dropDispute (s : State) : State :=
  (s.mapMx fun m => { m with dispute := none }).mapMg fun m => { m with nougat := m.nougat.filter (· ≠ s.ctx.key) }

/-- The speculation epoch is undone; a drain that it issued goes with it, its verification epoch and its
place in DRAINS included, and so does the arbitration of a point that it took (R192, R205). -/
def State.undoSpec (s : State) : State :=
  if s.ctx.mx.drain.any (·.dep.spec) then
    let s := s.undo false
    let s := s.mapMx fun m => { m with drain := none }
    let s := s.mapSys fun r => { r with drains := r.drains - 1 }
    s.dropDispute.undo true
  else
    match s.ctx.mx.dispute with
    | some (.point _ true) => s.dropDispute.undo true
    | _ => s.undo true

end Sys2Proof.Machine
end

