-- ==== Sys2Proof/Machine/Access.lean ====
section
/-!
DEFINITION. Page walks, the C TLB, local windows, and the accesses of the control stream and of the part
itself (09_memory R214, R215, R226 to R228, R235, R237, 11_ordering R268).
-/

namespace Sys2Proof.Machine

/-! ## Page walks (R226, R227) -/

/-- A valid leaf: the page's first virtual address, its size, and the entry's fields. -/
structure Leaf where
  va : Nat
  size : Nat
  pa : Nat
  key : BitVec 8
  r : Bool
  w : Bool
  device : Bool
deriving DecidableEq, Repr

/-- A level of the walk: the lowest index bit, the index width, and whether a leaf may stand there. -/
structure Level where
  lo : Nat
  width : Nat
  leaf : Bool

/-- The five levels (R227). -/
def levels : List Level := [⟨48, 8, false⟩, ⟨39, 9, false⟩, ⟨30, 9, true⟩, ⟨21, 9, true⟩, ⟨16, 5, true⟩]

/-- The leaf that a page table entry `e` gives for `va` with pages of `2 ^ lo` bytes. -/
def leafOf (e va lo : Nat) : Leaf :=
  { va := va / 2 ^ lo * 2 ^ lo, size := 2 ^ lo, pa := hostCell (e / 2 ^ 12 % 2 ^ 40 * 2 ^ 12), key := BitVec.ofNat 8 (e / 2 ^ 56)
    r := e.testBit 2, w := e.testBit 3, device := decide (e / 16 % 4 = 1) }

/-- A leaf breaks no rule of R216 and R225. -/
def Leaf.allowed (f : Leaf) (q : Partition) : Bool :=
  q.mayMap f.pa f.size && q.ownsKey f.key.toNat && !(f.device && decide (f.key ≠ 0))

/-- The walk from the table at `tbl` down the levels given (R227). A poisoned table is POISON. -/
def State.walkFrom (s : State) (q : Partition) (va : Nat) : List Level → Nat → Except (BitVec 8) (Leaf × Nat) × State
  | [], _ => (.error cXLATE, s)
  | l :: rest, tbl =>
    let pa := tbl + 8 * (va / 2 ^ l.lo % 2 ^ l.width)
    if s.poisonedAt pa 8 then (.error cPOISON, s)
    else
      let (b, s) := s.readHome pa 8
      let e := leValue b
      if e % 2 = 0 ∨ e / 2 ^ 52 % 16 ≠ 0 ∨ e / 2 ^ 6 % 64 ≠ 0 then (.error cXLATE, s)
      else if e.testBit 1 then
        if !l.leaf ∨ 2 ≤ e / 16 % 4 ∨ (e / 2 ^ 12 % 2 ^ 40 * 2 ^ 12) % 2 ^ l.lo ≠ 0 then (.error cXLATE, s)
        else if (leafOf e va l.lo).allowed q then (.ok (leafOf e va l.lo, e), s)
        else (.error cPROT, s)
      else if e / 2 ^ 56 ≠ 0 ∨ e / 4 % 16 ≠ 0 then (.error cXLATE, s)
      else State.walkFrom s q va rest (e / 2 ^ 12 % 2 ^ 40 * 2 ^ 12)

/-- A walk in a partition's address space (R227). -/
def State.walk (s : State) (p : Part) (va : Nat) : Except (BitVec 8) (Leaf × Nat) × State :=
  match s.part p with
  | none => (.error cXLATE, s)
  | some q => s.walkFrom q va levels q.root

/-- Translates through the C TLB of the acting core, filling it (R228). -/
def State.translate (s : State) (va : Nat) : Except (BitVec 8) Leaf × State :=
  let p := s.ctx.ident.part
  let hit := (s.core s.coreNo).tlb.find? fun e =>
    decide (e.1 = p) && decide (e.2.1 ≤ va) && decide (va < e.2.1 + e.2.2.1)
  match hit with
  | some e => (.ok (leafOf e.2.2.2 va (Nat.log2 e.2.2.1)), s)
  | none =>
    match s.walk p va with
    | (.error c, s) => (.error c, s)
    | (.ok (f, e), s) => (.ok f, s.mapCore s.coreNo fun c => { c with tlb := ((p, f.va, f.size, e) :: c.tlb).take 64 })

/-! ## Places (R214 to R216) -/

/-- The place of a local window's address, if the access of `n` bytes is within R215's limits; `none` for
an address that is in no local window. -/
def State.windowPlace (s : State) (va n : Nat) : Option (Except (BitVec 8) Place) :=
  let o := va % 2 ^ 48
  let at' (pa : Nat) : Except (BitVec 8) Place := .ok ⟨pa, true, 0, false⟩
  match va / 2 ^ 48 % 256 with
  | 0xFF => some (if o + n ≤ s.ctx.win.spSize then at' (spPa s.coreNo (s.ctx.win.spBase + o)) else .error cPROT)
  | 0xFE =>
    let core := s.coreNo / 8 * 8 + o / 2 ^ 20 % 8
    some (if o < 2 ^ 23 ∧ s.spHeld s.ctx.sameNode core (o % 2 ^ 20) n then at' (spPa core (o % 2 ^ 20))
      else .error cPROT)
  | 0xFD =>
    some (match s.part s.ctx.ident.part with
      | some q =>
        if o + n ≤ 2 ^ 25 ∧ q.ownsDsp s.dieNo o ∧ q.ownsDsp s.dieNo (o + n - 1) then at' (dspPa s.dieNo o)
        else .error cPROT
      | none => .error cPROT)
  | _ => none

/-- Whether an access through the SP aperture touches only windows of the partition's resident tasks
(R216). -/
def State.apertureOk (s : State) (p : Part) (pa n : Nat) : Bool :=
  match regionOf pa with
  | .sp core o => s.spHeld (Ctx.inPart p) core o n
  | _ => true

/-- The place of a scalar access of `n` aligned bytes (R235, R279). -/
def State.locate (s : State) (a : Word) (n : Nat) (r w : Bool) : Except (BitVec 8) Place × State :=
  let va := a.toNat
  if 2 ^ 56 ≤ va then (.error cXLATE, s)
  else if va % n ≠ 0 then (.error cALIGN, s)
  else
    match s.windowPlace va n with
    | some x => (x, s)
    | none =>
      match s.translate va with
      | (.error c, s) => (.error c, s)
      | (.ok f, s) =>
        let pa := f.pa + (va - f.va)
        if (r ∧ ¬ f.r) ∨ (w ∧ ¬ f.w) then (.error cPROT, s)
        else if s.apertureOk s.ctx.ident.part pa n then (.ok ⟨pa, false, f.key, f.device⟩, s)
        else (.error cPROT, s)

/-- What an access answers. -/
inductive Acc (α : Type) where
  | done (a : α) (s : State)
  /-- A trap with its cause and value. -/
  | fault (c : BitVec 8) (v : Word)
  /-- A trap that the home answers: the request has been paid for (R325). -/
  | answered (f : State → State) (c : BitVec 8) (v : Word)
  /-- Its request is on its way, and it waits for what comes back. -/
  | sent (s : State)
  /-- It waits and has not issued. -/
  | wait

/-! ## Loads and stores -/

/-- A line that the read-only path holds of a sector is still there, or has been evicted, which is open where memory holds another value
(R220, R268; log entry 9). -/
def State.roStands (s : State) (pa : Nat) : Bool × State :=
  let sec := sectorOf pa
  match (s.core s.coreNo).roLines.find? fun l => l.1 = sec with
  | none => (false, s)
  | some (_, old) =>
    if old = s.seenBy s.dieNo (sec * 128) 128 ∧ ¬ s.ms.red.any (fun r => r.sector = sec) then (true, s)
    else
      let (k, s) := s.draw
      if Config.fetchFresh k then (false, s.mapCore s.coreNo fun c => c.dropRo sec) else (true, s)

/-- The core's port or a fault queue holds a posted request of the core for a sector. -/
def State.storeWaits (s : State) (sec : Nat) : Bool :=
  (s.ms.parked ++ s.ms.held).any fun q => decide (q.key.core = s.ctx.key.core) && q.kind.posted && decide (sectorOf q.addr = sec)

/-- The L1 data cache of the core serves a read, so that no request leaves it: it holds the sector coherently, or for the read-only path
a line of it (R220, R325; log entry 53). -/
def State.servedByL1 (s : State) (p : Place) (n : Nat) (ro : Bool) : Bool × State :=
  if p.win || p.device || decide (hbmTop ≤ p.pa) then (false, s)
  else if ((s.core s.coreNo).holdsL1 p.pa n).length = (sectorsOf p.pa n).length ∧ ¬ s.storeWaits (sectorOf p.pa) then (true, s)
  else if ro ∧ sectorOf p.pa = sectorOf (p.pa + n - 1) then s.roStands p.pa
  else (false, s)

/-- What the L1 data cache serves: the read-only path a line's own bytes, else the value of memory. -/
def State.l1Bytes (s : State) (p : Place) (n : Nat) (ro : Bool) : List Byte :=
  match if ro then (s.core s.coreNo).roLines.find? fun l => l.1 = sectorOf p.pa else none with
  | some (_, old) => (old.drop (p.pa % 128)).take n
  | none => s.seenBy s.dieNo p.pa n

/-- A read that the L1 data cache serves. -/
def State.hitL1 (s : State) (p : Place) (n : Nat) (cls : Fin 16) (h : Hint) (ro : Bool) : List Byte × State :=
  (s.through p.pa (s.l1Bytes p n ro), (s.useL1 s.coreNo p.pa .load h).note p.pa n cls false)

/-- Bytes of a place as the acting context reads them at the point of coherence (R198, R220, R264, R267). -/
def State.fetchBytes (s : State) (p : Place) (n : Nat) (cls : Fin 16) (ro : Bool) : List Byte × State :=
  let (b, s) := s.readCore s.coreNo p.pa n p.device (ro && !p.win)
  (s.through p.pa b, s.note p.pa n cls false)

/-- A read that goes to its home: it pays, its page's key applies, and it passes the caches (R221, R225, R325). -/
def State.readHome' (s : State) (p : Place) (n : Nat) (cls : Fin 16) (h : Hint) (ro : Bool) : List Byte × State :=
  (((s.pay p.pa n).rekey p.pa n p.key).cached p .load h).fetchBytes p n cls ro

/-- A scalar load of `n` bytes (R235). -/
def State.load (s : State) (a : Word) (n : Nat) (cls : Fin 16) (hint : Hint) (ro : Bool) : Acc Nat :=
  match s.ctx.order.answer with
  | some (c, v) => .fault c v
  | none =>
    match s.locate a n true false with
    | (.error c, _) => .fault c a
    | (.ok p, u) =>
      match u.ctx.order.result with
      | some v => .done (leValue (u.through p.pa (leBytes n v))) (u.mapOrder fun o => { o with result := none })
      | none =>
        match u.servedByL1 p n ro with
        | (true, u) =>
          if u.badAt p.pa n then .fault cPOISON a
          else
            let (b, u) := u.hitL1 p n cls hint ro
            .done (leValue b) u
        | (false, u) =>
          if !u.hasTokens p.pa n || u.mustPark p n then .sent (u.sendOnce (u.request p a cls (.load n ro) hint))
          else if u.badAt p.pa n then .answered (fun t => t.pay p.pa n) cPOISON a
          else
            let (b, u) := u.readHome' p n cls hint ro
            .done (leValue b) u

/-- A scalar store of bytes by stream `t` (R195, R235, R237). -/
def State.store (s : State) (t : Stream) (a : Word) (b : List Byte) (cls : Fin 16) (hint : Hint) : Acc Unit :=
  match s.locate a b.length false true with
  | (.error c, _) => .fault c a
  | (.ok p, s) =>
    let d := s.dep t
    if d.ver || d.spec then
      match s.hold p a b cls d hint with
      | some s => .done () s
      | none => .wait
    else if s.hasTokens p.pa b.length && !s.mustPark p b.length then .done () (s.perform p b cls hint)
    else
      let cells := cellsAt p.pa b
      .done () ((s.updateL1 s.coreNo cells).send (s.request p a cls (.store cells) hint))

/-! ## Accesses of the part itself -/

/-- A failed access of the part: its cause and address. -/
abbrev PartFault := BitVec 8 × Nat

/-- The pieces of a range that lie in one 64 KiB page each: address and length. -/
def pagePieces : Nat → Nat → Nat → List (Nat × Nat)
  | 0, _, _ => []
  | fuel + 1, a, n =>
    if n = 0 then []
    else
      let k := min n (2 ^ 16 - a % 2 ^ 16)
      (a, k) :: pagePieces fuel (a + k) (n - k)

/-- The pieces of a range of `n` bytes at `a`. -/
def piecesOf (a n : Nat) : List (Nat × Nat) := pagePieces (n / 2 ^ 16 + 2) a n

/-- Physical bytes of the part's own access: address, length and key. -/
abbrev PartPiece := Nat × Nat × BitVec 8

/-- Translates the piece at `a` for the part's own access in a partition's address space. One whose key is not installed fails as a
request that was dropped does (R237; log entry 11). -/
def State.partPlace (s : State) (p : Part) (a n : Nat) (r w : Bool) : Except PartFault PartPiece × State :=
  if 2 ^ 56 ≤ a ∨ 0xFD ≤ a / 2 ^ 48 then (.error (cXLATE, a), s)
  else
    match s.walk p a with
    | (.error c, s) => (.error (c, a), s)
    | (.ok (f, _), s) =>
      if (r ∧ ¬ f.r) ∨ (w ∧ ¬ f.w) then (.error (cPROT, a), s)
      else if !s.apertureOk p (f.pa + (a - f.va)) n then (.error (cPROT, a), s)
      else if s.keyOk f.key then (.ok (f.pa + (a - f.va), n, f.key), s)
      else (.error (cWATCHDOG, a), s)

/-- Reads a range of a partition's address space. -/
def State.partRead (s : State) (p : Part) : List (Nat × Nat) → Except PartFault (List Byte) × State
  | [] => (.ok [], s)
  | (a, n) :: rest =>
    match s.partPlace p a n true false with
    | (.error f, s) => (.error f, s)
    | (.ok (pa, _, key), s) =>
      if s.poisonedAt pa n then (.error (cPOISON, a), s)
      else
        let (b, s) := s.readHome pa n key
        match State.partRead s p rest with
        | (.ok bs, s) => (.ok (b ++ bs), s)
        | (.error f, s) => (.error f, s)

/-- Checks that a range of a partition's address space may be written. -/
def State.partWritable (s : State) (p : Part) : List (Nat × Nat) → Except PartFault (List PartPiece) × State
  | [] => (.ok [], s)
  | (a, n) :: rest =>
    match s.partPlace p a n false true with
    | (.error f, s) => (.error f, s)
    | (.ok q, s) =>
      match State.partWritable s p rest with
      | (.ok l, s) => (.ok (q :: l), s)
      | (.error f, s) => (.error f, s)

/-- Writes bytes to physical pieces in order. -/
def State.scatter (s : State) : List PartPiece → List Byte → State
  | [], _ => s
  | (pa, n, key) :: rest, b => State.scatter (s.writeHome pa (b.take n) key) rest (b.drop n)

/-- Writes a range of a partition's address space at SYSTEM scope; it writes nothing when any piece
fails. -/
def State.partWrite (s : State) (p : Part) (a : Nat) (b : List Byte) : Except PartFault State :=
  match s.partWritable p (piecesOf a b.length) with
  | (.error f, _) => .error f
  | (.ok l, s) => .ok (s.scatter l b)

end Sys2Proof.Machine
end

