-- ==== Sys2Proof/Machine/Task.lean ====
section
/-!
DEFINITION. Nodes, signals, completion actions, the error log, groups and their folds, and the end of a
task (04_tasks R71 to R88, 13_collectives R290 to R298, 16_package R364).
-/

namespace Sys2Proof.Machine

/-! ## Functions (R355) -/

/-- The PCIe function of a partition (R355). -/
def fnOf (p : Part) : Nat := p.val + 1

/-! ## Rings and refusals (R77, R81) -/

/-- The state of a ring. -/
def State.ring (s : State) (r : RingId) : Ring := ((s.rings.find? fun e => e.1 = r).map (·.2)).getD Ring.init

/-- Changes a ring. -/
def State.mapRing (s : State) (r : RingId) (f : Ring → Ring) : State :=
  { s with rings := (r, f (s.ring r)) :: s.rings.filter fun e => e.1 ≠ r }

/-- The ring of a partition with a number. -/
def ringOf (p : Part) (q : Fin 16) : RingId := ⟨⟨p.val + 1, by omega⟩, q⟩

/-- The value of RINGERR. -/
def ringErrValue (code off : Nat) (idx : BitVec 32) : BitVec 32 :=
  BitVec.ofNat 32 (idx.toNat % 2 ^ 16 * 2 ^ 16 + off * 2 ^ 8 + code)

/-- Records a refusal unless one is recorded, and raises the error interrupt (R77, R81). -/
def State.ringError (s : State) (r : RingId) (code off : Nat) (idx : BitVec 32) : State :=
  (s.mapRing r fun g => if g.err = 0 then { g with err := ringErrValue code off idx } else g).msi r.fn.val 0

/-! ## Nodes and instances (R72, R83) -/

/-- A live node. -/
def State.node (s : State) (p : Part) (id : BitVec 32) : Option Node :=
  s.nodes.find? fun n => decide (n.part = p) && decide (n.id = id)

/-- Changes a node. -/
def State.mapNode (s : State) (p : Part) (id : BitVec 32) (f : Node → Node) : State :=
  { s with nodes := s.nodes.map fun n => if n.part = p ∧ n.id = id then f n else n }

/-- Rounds up to a multiple of 4 KiB. -/
def roundup4K (n : Nat) : Nat := (n + 4095) / 4096 * 4096

/-- Bytes of one instance's save block (R83). -/
def Launch.stride (l : Launch) : Nat := roundup4K (l.rsBytes + l.spBytes + 32768 * l.amBanks + 16384)

/-- Address of an instance's save block (R341). -/
def Launch.block (l : Launch) (inst : Nat) : Nat := l.saveArea.toNat + inst * l.stride

/-- Address of an instance's state block (R341). -/
def Launch.stateBlock (l : Launch) (inst : Nat) : Nat := l.block inst + l.stride - 16384

/-- Records an event in the saved EVT of an instance, under its saved EVTMASK (R340, R342). -/
def State.savedEvent (s : State) (n : Node) (inst : Nat) (bit : BitVec 6) : State :=
  let a := n.launch.stateBlock inst + 0x0C48
  match s.partRead n.part (piecesOf a 16) with
  | (.ok b, s) =>
    let evt := leValue (b.take 8)
    let mask := leValue (b.drop 8)
    match s.partWrite n.part a (leBytes 8 (evt ||| (bit.toNat &&& mask))) with
    | .ok s => s
    | .error _ => s
  | (.error _, s) => s

/-- The instances of a node that are swapped out. -/
def Node.savedInsts (n : Node) : List Nat :=
  ((n.teams.map (·.members)).flatten.zipIdx).filterMap fun m =>
    match m.1 with
    | .saved _ => some m.2
    | _ => none

/-- Records an event in every resident context of a node, and in the saved EVT of its swapped-out instances
where `saved` says so (R77, R86). -/
def State.nodeEvent (s : State) (n : Node) (bit : BitVec 6) (saved : Bool) : State :=
  let s := s.mapAll fun c => if c.live ∧ c.ident.part = n.part ∧ c.launch.node = n.id then c.event bit else c
  if saved then n.savedInsts.foldl (fun s i => s.savedEvent n i bit) s else s

/-- A team enters the tail of its level's queue (R89). -/
def Team.enqueue (t : Team) (order since : Nat) : Team := { t with queued := true, order := order, since := since, aged := 0 }

/-- Admits a node: its teams enter their queue in team order (R86). -/
def Node.letIn (n : Node) (serial now : Nat) : Node :=
  { n with admitted := true
           teams := n.teams.mapIdx fun i t => { t with graph := t.graph || decide (0 < n.extra) }.enqueue (serial + i) now }

/-- Takes `k` order numbers. -/
def State.ticks (s : State) (k : Nat) : State := { s with serial := s.serial + k }

/-- Holds signals to an id that is not live in the pre-arrival table; a count stays at 2^32 − 1 (R87; log entry 49). -/
def State.credit (s : State) (p : Part) (id : BitVec 32) (k : Nat) : State :=
  match s.part p with
  | none => s
  | some q =>
    let have' := Table.get 0 q.credits id.toNat
    if have' = 0 ∧ 1024 ≤ q.credits.length then
      let r := ringOf p 0
      s.ringError r 0x05 0xFF (s.ring r).head
    else s.mapPart p fun q => { q with credits := Table.set 0 q.credits id.toNat (min (have' + k) (2 ^ 32 - 1)) }

/-- Sends `k` signals, `k` at least 1, to a node (R86, R87). -/
def State.signal (s : State) (p : Part) (id : BitVec 32) (k : Nat) : State :=
  match s.node p id with
  | none => s.credit p id k
  | some n =>
    if n.admitted then
      let s := s.nodeEvent n evGraph true
      s.mapNode p id fun n => { n with teams := n.teams.map fun t => if t.queued then { t with graph := true } else t }
    else if k < n.pending then s.mapNode p id fun n => { n with pending := n.pending - k }
    else
      let more := k - n.pending
      (s.mapNode p id fun n => { n with pending := 0, extra := n.extra + more }.letIn s.serial s.nstime).ticks n.teams.length

/-! ## Completion actions (R85) -/

/-- The forms of a completion address. -/
inductive CplForm where
  | none
  | write
  | signal
deriving DecidableEq, Repr

/-- The form of a completion address, if it is one (R85). -/
def cplForm (a : Word) : Option CplForm :=
  let n := a.toNat
  if n = 0 then some .none
  else if n < 2 ^ 56 ∧ n % 4 = 0 then some .write
  else if n = 0x80 * 2 ^ 56 then some .signal
  else Option.none

/-- Writes a u32 for a function: in its partition's address space, or at a physical address for the
management function (R85, R359); `none` when the write faults. -/
def State.fnWrite32 (s : State) (fn : Fn) (a : Nat) (v : BitVec 32) : Option State :=
  let b := leBytes 4 v.toNat
  if h : fn.val = 0 then
    (if regionOf a = .reserved then Option.none else some (s.writeHome (hostCell a) b))
  else
    match s.partWrite ⟨fn.val - 1, by omega⟩ a b with
    | .ok s => some s
    | .error _ => Option.none

/-- Performs a completion action; a write that faults is reported as CPLFAULT (R85). The signal form of a packet
of the management ring, which belongs to no partition, does nothing (log entry 49). -/
def State.completion (s : State) (r : RingId) (idx : BitVec 32) (a : Word) (v : BitVec 32) : State :=
  match cplForm a with
  | some .write =>
    match s.fnWrite32 r.fn a.toNat v with
    | some s => s
    | Option.none => (s.logAt 0 0 .cplFault [a.toNat]).ringError r 0x06 0x70 idx
  | some .signal => if h : r.fn.val = 0 then s else s.signal ⟨r.fn.val - 1, by omega⟩ v 1
  | _ => s

/-! ## Groups (R290 to R298) -/

/-- A group's entry. -/
def State.group (s : State) (p : Part) (id : BitVec 16) : Option Group :=
  s.groups.find? fun g => decide (g.part = p) && decide (g.id = id)

/-- Changes a group's entry. -/
def State.mapGroup (s : State) (p : Part) (id : BitVec 16) (f : Group → Group) : State :=
  { s with groups := s.groups.map fun g => if g.part = p ∧ g.id = id then f g else g }

/-- A member's index in its group (R290). -/
def Ctx.memberIx (c : Ctx) : Nat := c.launch.firstMember + c.ident.inst.toNat

/-- The kind of a site: 0 to 2 a `CBR` by its op, 3 an `XCOLL` (R297). -/
def Site.kind (x : Site) : Nat := x.toNat / 2 ^ 16

/-- The member has contributed to the fold, whether or not its contribution has reached the package unit. -/
def FoldInst.heard (f : FoldInst) (m : Nat) : Bool :=
  (f.votes ++ f.far).any (fun v => decide (v.1 = m)) || f.atDie.any fun v => decide (v.member = m)

/-- The members that a fold covers as the package knows it: those whose contributions it counted, and those that departed without one
(R292). -/
def FoldInst.covered (f : FoldInst) (departed : List Nat) : Nat :=
  (f.votes ++ f.far).length + (departed.filter fun m => !f.heard m).length

/-- True contributions (R295). -/
def FoldInst.trues (f : FoldInst) : Nat := ((f.votes ++ f.far).filter (·.2)).length

/-- The result of a fold of `g` members with `t` true contributions (R295); an `XCOLL` fold is true. -/
def foldResultOf (kind t g : Nat) : Bool :=
  match kind with
  | 0 => decide (1 ≤ t)
  | 1 => decide (t = g)
  | 2 => decide (g < 2 * t)
  | _ => true

/-- Completes a fold when every member contributed or departed (R296), on the package that holds member 0 (R298). One whose sites or
hashes mismatched has no result (R297, R313). -/
def Group.foldStep (g : Group) (f : FoldInst) : FoldInst :=
  if (g.badSite.any fun q => decide (q.1 = f.seq)) || decide (g.badShape = some f.seq) then f
  else if f.result.isSome ∨ g.first = false ∨ f.covered g.departed < g.size then f
  else { f with result := some (foldResultOf f.site.kind f.trues g.size, g.departed.length) }

/-- Completes every fold that can be, and keeps the outcome of the last (R298). -/
def Group.settle (g : Group) : Group :=
  let folds := g.folds.map g.foldStep
  { g with folds := folds
           last := folds.foldl (fun l f =>
             match f.result with
             | some (r, d) => some (f.seq, r, d)
             | Option.none => l) g.last }

/-- A member departs (R292). -/
def State.depart (s : State) (p : Part) (id : BitVec 16) (m : Nat) : State :=
  if id = 0 then s
  else s.mapGroup p id fun g => if g.departed.contains m then g else { g with departed := m :: g.departed }.settle

/-! ## The end of a task (R75) -/

/-- Frees what a context held on its core: bands and grants (R75). -/
def Core.freeCtx (c : Core) (slot : Nat) : Core :=
  { c with owner := c.owner.filter (fun o => o.2 ≠ slot)
           grants := c.grants.filter fun g => g.2.1 ≠ slot ∧ g.2.2 ≠ slot }

/-- The island of a cluster. -/
def State.island (s : State) (cl : Nat) : Island := Table.get Island.init s.pw.islands cl

/-- Changes the island of a cluster. -/
def State.mapIsland (s : State) (cl : Nat) (f : Island → Island) : State :=
  s.mapPw fun w => { w with islands := Table.set Island.init w.islands cl (f (s.island cl)) }

/-- Makes an evaluation of a partition due (R320). -/
def State.trigger (s : State) (p : Part) : State :=
  s.mapPw fun w => { w with due := if w.due.contains p then w.due else w.due ++ [p] }

/-- The lock window of a cluster closes and its rest begins (R324). -/
def State.closeLock (s : State) (cl : Nat) : State :=
  let s := s.mapIsland cl fun i => { i with lock := none, holders := [], restUntil := some (s.nstime + 1000000) }
  (s.parts.filter (·.ownsCluster cl)).foldl (fun s q => s.trigger q.p) s

/-- A context leaves its cluster's window, which closes with its last holder (R324). -/
def State.leaveLock (s : State) (k : CtxKey) : State :=
  let cl := clusterOfCore k.core.val
  let i := s.island cl
  if !i.holders.contains k then s
  else if i.holders.filter (· ≠ k) = [] then s.closeLock cl
  else s.mapIsland cl fun i => { i with holders := i.holders.filter (· ≠ k) }

/-- Removes what waits on behalf of a context: requests that an instruction waits for, bound doorbells, a place
in Nougat's queue and in a lock window. -/
def State.dropWaits (s : State) (k : CtxKey) : State :=
  let s := ((s.dropRequests k).sweepCopies k fun _ _ => false).mapMs fun m => { m with doorbells := m.doorbells.filter fun d => d.2.2.2 ≠ k }
  let s := s.mapMg fun m => { m with nougat := m.nougat.filter (· ≠ k) }
  s.leaveLock k

/-- Where a member of a node stands. -/
def State.mapMember (s : State) (p : Part) (id : BitVec 32) (inst : Nat) (f : MemberSt → MemberSt) : State :=
  s.mapNode p id fun n =>
    { n with teams := n.teams.mapIdx fun i t =>
        if i = inst / n.launch.team then
          { t with members := t.members.mapIdx fun j m => if j = inst % n.launch.team then f m else m }
        else t }

/-- Duplicate entries of a member's steps go with its task (R287). -/
def State.dropEntries (s : State) (p : Part) (node : BitVec 32) (inst : Nat) : State :=
  s.mapMs fun m => { m with dups := m.dups.filter fun e => decide ((e.part, e.node, e.inst) ≠ (p, node, inst)) }

/-- A context whose task has ended: it runs nothing and holds nothing, and its registers keep their values until the next task (R71,
R375). -/
def Ctx.ended (c : Ctx) : Ctx :=
  { Ctx.idle c.key with
    c := c.c, sys := c.sys, p := c.p, vx := c.vx, mx := { MRegs.init with mxflags := c.mx.mxflags, signature := c.mx.signature }
    ld := { c.ld with flight := [], early := [], indexDue := none }, st := { c.st with flight := [], early := [], indexDue := none } }

/-- Ends the acting context's task: its resources return to the core and its member departs (R75, R292). -/
def State.endTask (s : State) : State :=
  let c := s.ctx
  let s := s.mapCore s.coreNo fun k => k.freeCtx c.key.slot.val
  let s := (s.dropWaits c.key).dropEntries c.ident.part c.launch.node c.ident.inst.toNat
  let s := s.mapAll fun d =>
    if d.ident.part = c.ident.part ∧ d.launch.node = c.launch.node then { d with owed := d.owed.filter fun o => o.inst ≠ c.ident.inst.toNat } else d
  let s := s.mapMember c.ident.part c.launch.node c.ident.inst.toNat fun _ => .ended
  let s := s.depart c.ident.part c.launch.group c.memberIx
  let s := s.trigger c.ident.part
  { s with ctx := c.ended }

/-- Everything of the acting context has performed at SYSTEM scope: no posted write pending, no marker
unanswered, no copy in flight, nothing parked (R88, R99, R274). -/
def State.allPerformed (s : State) : Bool :=
  s.ctx.cb.isEmpty && s.ctx.order.sectors.isEmpty && s.ctx.ld.flight.isEmpty && s.ctx.st.flight.isEmpty &&
  (s.ms.parked ++ s.ms.held).all (fun q => decide (q.key ≠ s.ctx.key)) &&
  s.ms.markers.all (fun m => decide (m.core ≠ s.coreNo)) && (s.core s.coreNo).posted.isEmpty

/-- Sends flush markers to every slice that the core posted to in the classes, and empties those sets (R272). -/
def State.sendMarkers (s : State) (classes : BitVec 16) (wide : Bool) (die : Option Nat) : State :=
  let sel (e : Nat × Nat × Nat) : Bool :=
    classes.getLsbD e.1 && (match die with | some d => decide (e.2.1 = d) | Option.none => true)
  let go := (s.core s.coreNo).posted.filter sel
  if go.isEmpty then s
  else
    let marks := go.mapIdx fun i e =>
      ({ serial := s.serial + i, core := s.coreNo, wide := wide, cls := e.1, die := e.2.1, slice := e.2.2 } : Marker)
    let s := s.mapCore s.coreNo fun c => { c with posted := c.posted.filter fun e => !sel e }
    (s.mapMs fun m => { m with markers := m.markers ++ marks }).ticks go.length

end Sys2Proof.Machine
end

