-- ==== Sys2Proof/Machine/Ops.lean ====
section
/-!
DEFINITION. Taking a trap and returning from one, engine faults, and the one wrapper in which every
instruction runs: pops, dependence, waiting, traps, pushes and the pc (02_encoding R26 to R30, 08_verification
R194, R195, 13_collectives R302, 15_traps R328 to R337).
-/

namespace Sys2Proof.Machine

/-! ## Taking a trap (R332 to R334) -/

/-- The TRAPCAUSE word of a trap: ECAUSE, HS, ASYNC and CAUSE (R330, R332). -/
def causeWord (cause ecause : BitVec 8) (async : Bool) : Word :=
  BitVec.ofNat 64 (ecause.toNat * 2 ^ 16 + 2 ^ 15 + bitOf async * 2 ^ 8 + cause.toNat)

/-- The TRAPSTREAM word: SPC and STREAM, with RESUME 0 (R331, R332). -/
def streamWord (spc : Word) (stream : Nat) : Word := spc <<< 8 ||| BitVec.ofNat 64 stream

/-- The context is in its handler state: TRAPCAUSE.HS (R330). -/
def State.hs (s : State) : Bool := s.ctx.c.trapcause.getLsbD 15

/-- The handler's address, TRAPVEC.ADDR ∥ 0b00; 0 means there is none (R331). -/
def State.handler (s : State) : Word := s.ctx.c.trapvec &&& 0x00FFFFFFFFFFFFFC

/-- Pauses the four engine streams, or ends their pause (R332, R336). -/
def Ctx.setPause (c : Ctx) (on : Bool) : Ctx :=
  { c with streams := c.streams.mapIdx fun i x => if i = 0 then x else { x with paused := on } }

/-- Returns held pops to their counters (R30, R118; a counter that has been refilled: log entry 36). -/
def Ctx.returnHeld (c : Ctx) (t : Stream) : Ctx :=
  match (c.streams[t.ix]).held with
  | none => c
  | some (wp, wn, d) =>
    let c := if wp then c.fill t.prev.forth (d :: c.tok[t.prev.forth]) else c
    if wn then c.fill t.back (d :: c.tok[t.back]) else c

/-- Trap entry proper: the registers are written, the engines pause, the C stream goes to the handler (R332). -/
def State.enterTrap (s : State) (r : TrapRec) : State :=
  let h := s.handler
  let s := s.mapC fun c => { c with trapcause := r.cause, trappc := r.pc, trapval := r.val, trapstream := r.stream, sleeping := false }
  let s := s.mapCtx (·.setPause true)
  let s := s.mapOrder fun o => { o with answer := none, result := none }
  s.mapStr .c fun x => { x with pc := h, late := none }

/-- The bytes of a trap record (R334, R342). -/
def TrapRec.bytes (r : TrapRec) : List Byte :=
  leBytes 8 r.cause.toNat ++ leBytes 8 r.pc.toNat ++ leBytes 8 r.val.toNat ++ leBytes 8 r.stream.toNat

/-- Writes the trap record of the acting instance; `none` when a piece faults or is poisoned (R334). -/
def State.writeRecord (s : State) (r : TrapRec) : Except Nat State :=
  let a := s.ctx.launch.stateBlock s.ctx.ident.inst.toNat + 0x1F98
  match s.partWritable s.ctx.ident.part (piecesOf a 32) with
  | (.error f, _) => .error f.2
  | (.ok l, s) =>
    if l.any fun p => s.poisonedAt p.1 p.2.1 then .error a else .ok (s.scatter l r.bytes)

/-- A verdict or an arbitration of the context is pending. -/
def Ctx.verdictPending (c : Ctx) : Bool := c.mx.drain.isSome || c.mx.dispute.isSome

/-- Copy commands of the context are in flight. -/
def Ctx.copying (c : Ctx) : Bool := (c.ld.flight ++ c.st.flight).any fun q => !q.done

/-- A double trap ends the task (R334). While a verdict is pending every stream stands still and the end waits; so it does while copy
commands are in flight, whose handles are released when they retire (R75). -/
def State.endByTrap (s : State) (r : TrapRec) : State :=
  if s.ctx.verdictPending then s.mapCtx fun c => { c with ending := some r }
  else
    let s := s.undoSpec
    if s.ctx.copying then s.mapCtx fun c => { c with ending := some r }
    else
    let who := [s.ctx.launch.node.toNat, s.ctx.ident.inst.toNat]
    let s := match s.writeRecord r with
      | .ok s => s.logHere .doubleTrap (who ++ [r.cause.toNat, r.pc.toNat, r.val.toNat, r.stream.toNat])
      | .error a => s.logHere .doubleTrap (who ++ [a])
    (s.msi (fnOf s.ctx.ident.part) 0).endTask

/-- The end of a task that waits for a verdict (R334). -/
def State.finishEnding (s : State) : State :=
  match s.ctx.ending with
  | some r => s.endByTrap r
  | none => s

/-- Takes a trap (R332). -/
def State.takeTrapRec (s : State) (r : TrapRec) : State :=
  let s := s.mapCtx (·.returnHeld .c)
  let s := (s.mapStr .c fun x => { x with held := none }).mapC fun c => { c with vwait := none }
  if s.hs ∨ s.handler = 0 then s.endByTrap r else s.enterTrap r

/-- The address of the C instruction that is next or running. -/
def State.cpc (s : State) : Word := (s.str .c).pc

/-- A synchronous trap of the C instruction at the pc (R328, R332). -/
def State.takeTrap (s : State) (cause : BitVec 8) (val : Word) : State :=
  s.takeTrapRec { cause := causeWord cause 0 false, pc := s.cpc, val := val, stream := streamWord s.cpc 0 }

/-- Adds a trap to the pending list; beyond 8 it is dropped (R333). -/
def Ctx.addPend (c : Ctx) (p : Pend) : Ctx := if c.pend.length < 8 then { c with pend := c.pend ++ [p] } else c

/-- An asynchronous trap that no stream raised (R328, R331). -/
def Ctx.asyncTrap (c : Ctx) (cause : BitVec 8) (val : Word) : Ctx :=
  c.addPend { cause := causeWord cause 0 true, val := val, stream := streamWord 0 5 }

/-- Records an engine fault: the stream stops, and in TRAP delivery ENGFAULT becomes due (R328, R337). -/
def State.recordFault (s : State) (t : Stream) (cause : BitVec 8) (val : Word) : State :=
  let pc := (s.str t).pc
  let s := s.mapStr t fun x => { x with busy := false, fault := some (cause, val, pc), late := none }
  let s := s.mapOrder fun o => { o with answer := none, result := none }
  if s.ctx.launch.poll then s
  else s.mapCtx fun c => c.addPend { cause := causeWord cENGFAULT cause true, val := val, stream := streamWord pc t.ix.val }

/-- A pending trap may be taken: the C stream stands at a boundary, with no access of the instruction at its pc under way, HS = 0, and
is clean (R333). It is taken at the first such boundary: R121 lets ENGFAULT be taken one instruction later (log entry 58). -/
def State.trapDue (s : State) : Bool :=
  !s.ctx.pend.isEmpty && !s.hs && !(s.dep .c).ver && !(s.dep .c).spec && (s.str .c).late.isNone && !s.awaited

/-- Takes the oldest pending trap (R328, R333). -/
def State.takePending (s : State) : State :=
  match s.ctx.pend with
  | [] => s
  | p :: rest =>
    let r : TrapRec := { cause := p.cause, pc := s.cpc, val := p.val, stream := p.stream }
    (s.mapCtx fun c => { c with pend := rest }).takeTrapRec r

/-! ## Returning from a trap (R336) -/

/-- A stream restarts at its faulted instruction, keeping the pops it took. -/
def StreamSt.resume (x : StreamSt) : StreamSt :=
  match x.fault with
  | some _ => { x with fault := none, busy := true }
  | none => x

/-- `ERET` with a legal TRAPPC: restart where asked, clear RESUME and HS, end the pause (R336). -/
def State.returnTrap (s : State) : State :=
  let w := s.ctx.c.trapstream
  let k := (w &&& 7).toNat
  let s := if w.getLsbD 3 ∧ 1 ≤ k ∧ k ≤ 4 then
      s.mapCtx fun c => { c with streams := c.streams.mapIdx fun i x => if i = k then x.resume else x }
    else s
  let s := s.mapC fun c => { c with trapstream := c.trapstream &&& ~~~8#64, trapcause := c.trapcause &&& ~~~0x8000#64 }
  s.mapCtx (·.setPause false)

/-! ## The wrapper -/

/-- Which open epochs a dependent instruction waits for (R195, R302). -/
inductive Hold where
  | run | ver | spec | both
deriving DecidableEq, Repr

/-- The hold catches a dependence. -/
def Hold.stops (h : Hold) (d : Dep) : Bool :=
  match h with
  | .run => false
  | .ver => d.ver
  | .spec => d.spec
  | .both => d.ver || d.spec

/-- What an instruction's own effect answers. -/
inductive Eff where
  /-- It completes and the stream goes on behind it; its pushes wait for `need`. -/
  | ok (s : State) (need : Need)
  /-- It completes and the stream goes on at `pc`. -/
  | jump (s : State) (pc : Word) (need : Need)
  /-- A trap in C, an engine fault elsewhere. -/
  | trap (c : BitVec 8) (v : Word)
  /-- A trap that an access answers; `f` is what the access has used up by then (R325). -/
  | trapAfter (f : State → State) (c : BitVec 8) (v : Word)
  /-- The report of the first such posted access that was dropped, taken as a trap (R237). -/
  | report (which : Dropped → Bool)
  /-- It waits and has not issued. -/
  | wait
  /-- It waits, after a change that does not issue it. -/
  | stay (f : State → State)
  /-- It has issued and waits at its pc: its pops are taken and stay taken until it completes (R27). -/
  | begin (s : State)
  /-- The task has ended. -/
  | gone (s : State)

/-- The instruction issues: it neither faults nor waits. -/
def Eff.issues (e : Eff) : Bool :=
  match e with
  | .ok .. | .jump .. | .begin _ | .gone _ => true
  | .trap .. | .trapAfter .. | .report _ | .wait | .stay _ => false

/-- Completes at once. -/
def Eff.fin (s : State) : Eff := .ok s .now

/-- The pops held by a restarted instruction, or those of its sync bits (R30). -/
def State.popped (s : State) (t : Stream) (sy : Sync) : State × Dep :=
  match (s.str t).held with
  | some (_, _, d) => (s, s.ctx.clampDep d)
  | none => (s.pop t sy, s.popDep t sy)

/-- The stream may issue an instruction with these sync bits: no push of it waits for room, no fault of it is
held for a verdict, and it holds its pops or every counter it pops is nonzero (R27, R28, R194). -/
def State.mayIssue (s : State) (t : Stream) (sy : Sync) : Bool :=
  !s.ctx.pushBlocked t && (s.str t).late.isNone && ((s.str t).held.isSome || s.canPop t sy)

/-- Completion: the pc, the pushes in their order, and every push that can be made (R28). -/
def State.complete (s : State) (t : Stream) (sy : Sync) (pc : Word) (need : Need) (d : Dep) : State :=
  let p : List Push := if sy.sp ∨ sy.sn then [{ need := need, toPrev := sy.sp, toNext := sy.sn, dep := d }] else []
  (s.mapStr t fun x => { x with pc := pc, held := none, pushes := x.pushes ++ p, count := x.count + 1 }).mapCtx Ctx.settle

/-- The stream keeps the pops that its instruction took (R30). -/
def State.keepPops (s : State) (t : Stream) (sy : Sync) (pd : Dep) : State :=
  (s.mapStr t fun x => { x with held := if sy.wp || sy.wn then some (sy.wp, sy.wn, pd) else x.held }).mapCtx Ctx.settle

/-- A fault of an instruction: held for the verdict of a dependent stream, else taken (R30, R194, R328). -/
def State.failed (before after : State) (t : Stream) (sy : Sync) (pd : Dep) (c : BitVec 8) (v : Word) : State :=
  let d := after.dep t
  if t = .c then
    if d.ver || d.spec then (before.depend t d).mapStr t fun x => { x with late := some (c, v) } else before.takeTrap c v
  else
    let s := after.keepPops t sy pd
    if d.ver || d.spec then s.mapStr t fun x => { x with late := some (c, v) } else s.recordFault t c v

/-- A held fault whose epochs have closed is taken now (R199, R333). -/
def State.deliverLate (s : State) (t : Stream) : State :=
  match (s.str t).late with
  | none => s
  | some (c, v) =>
    let d := s.dep t
    if d.ver || d.spec then s
    else
      let s := s.mapStr t fun x => { x with late := none }
      if t = .c then s.takeTrap c v else s.recordFault t c v

/-- The YIELD mark clears when the C stream issues its next instruction (R100). -/
def State.unyield (s : State) (t : Stream) : State :=
  if t = .c then s.mapC fun c => { c with yielding := false, sleeping := false } else s

/-- The C stream sleeps in the instruction at its pc (R100). -/
def State.sleep (s : State) : State := s.mapC fun c => { c with sleeping := true }

/-- A residue mismatch is found: it is logged, and the core is marked degraded (R210, R364). -/
def State.foundUpset (s : State) (t : Stream) : State :=
  (s.mapCore s.coreNo fun c => { c with degraded := true }).logHere .residue [t.ix.val]

/-- Runs an instruction of `len + 1` words on stream `t`: `reads` is what its sources are, `body` its own effect after its pops.
A residue mismatch of a source stops it with no effect (R210); of a matrix command, once its other checks have passed (R186). A push that is made at once, by an instruction that opens the
verification epoch, depends on that epoch (R194; log entry 38). -/
def State.run (s : State) (t : Stream) (sy : Sync) (len : Nat) (hold : Hold) (reads : State → Reads)
    (body : State → Eff) : Host.Outcome State Fault Refusal :=
  if (s.str t).late.isSome then .next (s.deliverLate t)
  else if !s.mayIssue t sy then .next s
  else
    let (_, pd) := s.popped t sy
    let r := reads s
    let d := ((s.dep t).or pd).or (s.readDep r)
    if hold.stops d then .next s
    else
      let s1 := if d = s.dep t then s else s.depend t d
      let s2 := ((s1.popped t sy).1).unyield t
      let pc := (s.str t).pc
      match (s.upset t r).filter fun _ => decide (t ≠ .mx) || (body s2).issues with
      | some v => .next ((s.foundUpset t).failed (s2.foundUpset t) t sy pd cRESIDUE v)
      | none =>
      match body s2 with
      | .ok u need => .next (u.complete t sy (pc + BitVec.ofNat 64 (4 * (len + 1))) need (d.or ⟨(u.dep t).ver, false⟩))
      | .jump u dest need => .next (u.complete t sy dest need d)
      | .trap c v => .next (s.failed s2 t sy pd c v)
      | .trapAfter f c v => .next ((f s).failed (f s2) t sy pd c v)
      | .report which =>
        match s.ctx.order.dropped.find? which with
        | none => .next s
        | some e => .next ((s.mapOrder fun o => { o with dropped := o.dropped.erase e }).failed s2 t sy pd e.cause e.va)
      | .wait => .next s
      | .stay f => .next (f s)
      | .begin u => .next (u.keepPops t sy pd)
      | .gone u => .next u

/-- An instruction of the C stream that reads the scalar registers given. -/
def State.runC (s : State) (sy : Sync) (len : Nat) (hold : Hold) (xs : List XReg) (body : State → Eff) :
    Host.Outcome State Fault Refusal :=
  s.run .c sy len hold (fun _ => ⟨.clean, [], xs⟩) body

/-- An instruction that reads the scalar registers given and writes one. -/
def State.runX (s : State) (sy : Sync) (len : Nat) (hold : Hold) (rd : XReg) (xs : List XReg) (f : State → Word) :
    Host.Outcome State Fault Refusal :=
  s.runC sy len hold xs fun u => .fin (u.setX rd (f u))

/-! ## Steps of the part -/

/-- A step of the part whose condition does not hold changes nothing (log entry 7). -/
def State.event (s : State) (on : Bool) (f : State → State) : Host.Outcome State Fault Refusal :=
  .next (if on then f s else s)

/-- A step of the part on the context with a key. -/
def State.eventOn (s : State) (k : CtxKey) (f : State → State) : Host.Outcome State Fault Refusal :=
  .next (s.on k f)

end Sys2Proof.Machine
end

