-- ==== Sys2Proof/Machine/Operands.lean ====
section
/-!
DEFINITION. Operand forms of the control stream: immediates, displacements, memory operands, and the answers of
accesses as effects (02_encoding R31, 05_control R111, 09_memory R235).
-/

namespace Sys2Proof

/-- Bytes of a scalar access (R235). -/
def Size.bytes : Size → Nat
  | .b => 1 | .h => 2 | .w => 4 | .d => 8

/-- `CMP` and `CMPI`: the comparison (R108). -/
def Cc.holds (cc : Cc) (a b : Word) : Bool :=
  match cc with
  | .eq => decide (a = b)
  | .ne => decide (a ≠ b)
  | .lt => decide (a.toInt < b.toInt)
  | .ge => decide (b.toInt ≤ a.toInt)
  | .ltu => decide (a.toNat < b.toNat)
  | .geu => decide (b.toNat ≤ a.toNat)

end Sys2Proof

namespace Sys2Proof.Machine

/-- A branch target: `pc + 4·disp` (R111). -/
def branchTo {n : Nat} (pc : Word) (disp : BitVec n) : Word := pc + (sext64 disp <<< 2)

/-- The low `8·n` bits of a value, sign-extended (R235). -/
def sextBytes (n v : Nat) : Word := BitVec.ofInt 64 (BitVec.ofNat (8 * n) v).toInt

/-- The address of a memory operand with a 28-bit offset (R235). -/
def State.memAddr (s : State) (ra : XReg) (off : BitVec 28) : Word := s.x ra + sext64 off

/-- An access as an effect: what it answers goes on, a fault traps, and an instruction whose request is on its way has issued. -/
def Acc.eff {α : Type} (a : Acc α) (f : α → State → Eff) : Eff :=
  match a with
  | .done v s => f v s
  | .fault c v => .trap c v
  | .answered g c v => .trapAfter g c v
  | .sent s => .begin s
  | .wait => .wait

/-- A result that an `Except` answers, else its trap. -/
def trapOr {α : Type} (x : Except (BitVec 8 × Word) α) (f : α → Eff) : Eff :=
  match x with
  | .ok a => f a
  | .error (c, v) => .trap c v

end Sys2Proof.Machine
end

