-- ==== Sys2Proof/Machine/Scalar.lean ====
section
/-!
DEFINITION. Integer instructions, compares and predicate logic of the C stream (05_control R106 to R110).
-/

namespace Sys2Proof.Machine

/-! ## Shared forms -/

/-- A register-register form (R106). -/
def State.alu (s : State) (sy : Sync) (rd ra rb : XReg) (f : Word → Word → Word) : Host.Outcome State Fault Refusal :=
  s.runX sy 0 .run rd [ra, rb] fun u => f (u.x ra) (u.x rb)

/-- An immediate form of `len + 1` words (R107). -/
def State.aluImm (s : State) (sy : Sync) (len : Nat) (rd ra : XReg) (imm : Word) (f : Word → Word → Word) :
    Host.Outcome State Fault Refusal :=
  s.runX sy len .run rd [ra] fun u => f (u.x ra) imm

/-- What predicates depend on. -/
def State.predsDep (s : State) (l : List PReg) : Dep := l.foldl (fun d p => d.or (s.predDep p)) .clean

/-- An instruction that writes one predicate and reads the predicates and scalar registers listed (R108, R109). -/
def State.runP (s : State) (sy : Sync) (len : Nat) (pd : PReg) (srcs : List PReg) (xs : List XReg) (f : State → BitVec 1024) :
    Host.Outcome State Fault Refusal :=
  s.run .c sy len .run (fun u => ⟨u.predsDep srcs, [], xs⟩) fun u => .fin (u.setP .c pd (f u))

/-- Signed quotient, truncated toward zero (R106). -/
def sdivWord (a b : Word) : Word := if b = 0 then BitVec.allOnes 64 else BitVec.ofInt 64 (a.toInt.tdiv b.toInt)

/-- Signed remainder with the sign of the dividend (R106). -/
def sremWord (a b : Word) : Word := if b = 0 then a else BitVec.ofInt 64 (a.toInt.tmod b.toInt)

/-- Unsigned quotient (R106). -/
def udivWord (a b : Word) : Word := if b = 0 then BitVec.allOnes 64 else BitVec.ofNat 64 (a.toNat / b.toNat)

/-- Unsigned remainder (R106). -/
def uremWord (a b : Word) : Word := if b = 0 then a else BitVec.ofNat 64 (a.toNat % b.toNat)

/-- Bits [127:64] of the signed product. -/
def mulhWord (a b : Word) : Word := BitVec.ofInt 64 (a.toInt * b.toInt / 2 ^ 64)

/-- Bits [127:64] of the unsigned product. -/
def mulhuWord (a b : Word) : Word := BitVec.ofNat 64 (a.toNat * b.toNat / 2 ^ 64)

/-- Zero bits above the highest one bit among the lowest `n` bits. -/
def leadingZeros {w : Nat} (v : BitVec w) : Nat → Nat
  | 0 => 0
  | n + 1 => if v.getLsbD n then 0 else leadingZeros v n + 1

/-- Zero bits below the lowest one bit, counting from bit `i` for `n` bits. -/
def trailingZeros {w : Nat} (v : BitVec w) : Nat → Nat → Nat
  | 0, _ => 0
  | n + 1, i => if v.getLsbD i then 0 else trailingZeros v n (i + 1) + 1

/-! ## Register-register forms (R106) -/

/-- `ADD` -/
def execAdd (sy : Sync) (rd ra rb : XReg) (s : State) := s.alu sy rd ra rb fun a b => a + b
/-- `SUB` -/
def execSub (sy : Sync) (rd ra rb : XReg) (s : State) := s.alu sy rd ra rb fun a b => a - b
/-- `AND` -/
def execAnd (sy : Sync) (rd ra rb : XReg) (s : State) := s.alu sy rd ra rb fun a b => a &&& b
/-- `OR` -/
def execOr (sy : Sync) (rd ra rb : XReg) (s : State) := s.alu sy rd ra rb fun a b => a ||| b
/-- `XOR` -/
def execXor (sy : Sync) (rd ra rb : XReg) (s : State) := s.alu sy rd ra rb fun a b => a ^^^ b
/-- `SHL` -/
def execShl (sy : Sync) (rd ra rb : XReg) (s : State) := s.alu sy rd ra rb fun a b => a <<< (b.toNat % 64)
/-- `SHR` -/
def execShr (sy : Sync) (rd ra rb : XReg) (s : State) := s.alu sy rd ra rb fun a b => a >>> (b.toNat % 64)
/-- `SRA` -/
def execSra (sy : Sync) (rd ra rb : XReg) (s : State) := s.alu sy rd ra rb fun a b => a.sshiftRight (b.toNat % 64)
/-- `MUL` -/
def execMul (sy : Sync) (rd ra rb : XReg) (s : State) := s.alu sy rd ra rb fun a b => a * b
/-- `MULH` -/
def execMulh (sy : Sync) (rd ra rb : XReg) (s : State) := s.alu sy rd ra rb mulhWord
/-- `MULHU` -/
def execMulhu (sy : Sync) (rd ra rb : XReg) (s : State) := s.alu sy rd ra rb mulhuWord
/-- `DIV` -/
def execDiv (sy : Sync) (rd ra rb : XReg) (s : State) := s.alu sy rd ra rb sdivWord
/-- `DIVU` -/
def execDivu (sy : Sync) (rd ra rb : XReg) (s : State) := s.alu sy rd ra rb udivWord
/-- `REM` -/
def execRem (sy : Sync) (rd ra rb : XReg) (s : State) := s.alu sy rd ra rb sremWord
/-- `REMU` -/
def execRemu (sy : Sync) (rd ra rb : XReg) (s : State) := s.alu sy rd ra rb uremWord
/-- `MIN` -/
def execMin (sy : Sync) (rd ra rb : XReg) (s : State) := s.alu sy rd ra rb fun a b => if a.toInt ≤ b.toInt then a else b
/-- `MAX` -/
def execMax (sy : Sync) (rd ra rb : XReg) (s : State) := s.alu sy rd ra rb fun a b => if a.toInt ≤ b.toInt then b else a
/-- `MINU` -/
def execMinu (sy : Sync) (rd ra rb : XReg) (s : State) := s.alu sy rd ra rb fun a b => if a.toNat ≤ b.toNat then a else b
/-- `MAXU` -/
def execMaxu (sy : Sync) (rd ra rb : XReg) (s : State) := s.alu sy rd ra rb fun a b => if a.toNat ≤ b.toNat then b else a
/-- `MOV` -/
def execMov (sy : Sync) (rd ra : XReg) (s : State) := s.runX sy 0 .run rd [ra] fun u => u.x ra
/-- `POPC` -/
def execPopc (sy : Sync) (rd ra : XReg) (s : State) := s.runX sy 0 .run rd [ra] fun u => BitVec.ofNat 64 (popcount (u.x ra) 64)
/-- `CLZ` -/
def execClz (sy : Sync) (rd ra : XReg) (s : State) := s.runX sy 0 .run rd [ra] fun u => BitVec.ofNat 64 (leadingZeros (u.x ra) 64)
/-- `CTZ` -/
def execCtz (sy : Sync) (rd ra : XReg) (s : State) := s.runX sy 0 .run rd [ra] fun u => BitVec.ofNat 64 (trailingZeros (u.x ra) 64 0)

/-! ## Immediate forms (R107) -/

/-- `ADDI` -/
def execAddi (sy : Sync) (rd ra : XReg) (imm : BitVec 8) (s : State) := s.aluImm sy 0 rd ra (sext64 imm) fun a b => a + b
/-- `ADDI` with LEN 1 -/
def execAddiLen1 (sy : Sync) (rd ra : XReg) (imm : BitVec 36) (s : State) := s.aluImm sy 1 rd ra (sext64 imm) fun a b => a + b
/-- `ADDI` with LEN 2 -/
def execAddiLen2 (sy : Sync) (rd ra : XReg) (imm : BitVec 64) (s : State) := s.aluImm sy 2 rd ra imm fun a b => a + b
/-- `ANDI` -/
def execAndi (sy : Sync) (rd ra : XReg) (imm : BitVec 8) (s : State) := s.aluImm sy 0 rd ra (sext64 imm) fun a b => a &&& b
/-- `ANDI` with LEN 1 -/
def execAndiLen1 (sy : Sync) (rd ra : XReg) (imm : BitVec 36) (s : State) := s.aluImm sy 1 rd ra (sext64 imm) fun a b => a &&& b
/-- `ANDI` with LEN 2 -/
def execAndiLen2 (sy : Sync) (rd ra : XReg) (imm : BitVec 64) (s : State) := s.aluImm sy 2 rd ra imm fun a b => a &&& b
/-- `ORI` -/
def execOri (sy : Sync) (rd ra : XReg) (imm : BitVec 8) (s : State) := s.aluImm sy 0 rd ra (sext64 imm) fun a b => a ||| b
/-- `ORI` with LEN 1 -/
def execOriLen1 (sy : Sync) (rd ra : XReg) (imm : BitVec 36) (s : State) := s.aluImm sy 1 rd ra (sext64 imm) fun a b => a ||| b
/-- `ORI` with LEN 2 -/
def execOriLen2 (sy : Sync) (rd ra : XReg) (imm : BitVec 64) (s : State) := s.aluImm sy 2 rd ra imm fun a b => a ||| b
/-- `XORI` -/
def execXori (sy : Sync) (rd ra : XReg) (imm : BitVec 8) (s : State) := s.aluImm sy 0 rd ra (sext64 imm) fun a b => a ^^^ b
/-- `XORI` with LEN 1 -/
def execXoriLen1 (sy : Sync) (rd ra : XReg) (imm : BitVec 36) (s : State) := s.aluImm sy 1 rd ra (sext64 imm) fun a b => a ^^^ b
/-- `XORI` with LEN 2 -/
def execXoriLen2 (sy : Sync) (rd ra : XReg) (imm : BitVec 64) (s : State) := s.aluImm sy 2 rd ra imm fun a b => a ^^^ b
/-- `SHLI` -/
def execShli (sy : Sync) (rd ra : XReg) (imm : BitVec 8) (s : State) := s.aluImm sy 0 rd ra (sext64 imm) fun a b => a <<< (b.toNat % 64)
/-- `SHLI` with LEN 1 -/
def execShliLen1 (sy : Sync) (rd ra : XReg) (imm : BitVec 36) (s : State) := s.aluImm sy 1 rd ra (sext64 imm) fun a b => a <<< (b.toNat % 64)
/-- `SHLI` with LEN 2 -/
def execShliLen2 (sy : Sync) (rd ra : XReg) (imm : BitVec 64) (s : State) := s.aluImm sy 2 rd ra imm fun a b => a <<< (b.toNat % 64)
/-- `SHRI` -/
def execShri (sy : Sync) (rd ra : XReg) (imm : BitVec 8) (s : State) := s.aluImm sy 0 rd ra (sext64 imm) fun a b => a >>> (b.toNat % 64)
/-- `SHRI` with LEN 1 -/
def execShriLen1 (sy : Sync) (rd ra : XReg) (imm : BitVec 36) (s : State) := s.aluImm sy 1 rd ra (sext64 imm) fun a b => a >>> (b.toNat % 64)
/-- `SHRI` with LEN 2 -/
def execShriLen2 (sy : Sync) (rd ra : XReg) (imm : BitVec 64) (s : State) := s.aluImm sy 2 rd ra imm fun a b => a >>> (b.toNat % 64)
/-- `SRAI` -/
def execSrai (sy : Sync) (rd ra : XReg) (imm : BitVec 8) (s : State) := s.aluImm sy 0 rd ra (sext64 imm) fun a b => a.sshiftRight (b.toNat % 64)
/-- `SRAI` with LEN 1 -/
def execSraiLen1 (sy : Sync) (rd ra : XReg) (imm : BitVec 36) (s : State) := s.aluImm sy 1 rd ra (sext64 imm) fun a b => a.sshiftRight (b.toNat % 64)
/-- `SRAI` with LEN 2 -/
def execSraiLen2 (sy : Sync) (rd ra : XReg) (imm : BitVec 64) (s : State) := s.aluImm sy 2 rd ra imm fun a b => a.sshiftRight (b.toNat % 64)
/-- `LI` -/
def execLi (sy : Sync) (rd : XReg) (imm : BitVec 8) (s : State) := s.runX sy 0 .run rd [] fun _ => sext64 imm
/-- `LI` with LEN 1 -/
def execLiLen1 (sy : Sync) (rd : XReg) (imm : BitVec 36) (s : State) := s.runX sy 1 .run rd [] fun _ => sext64 imm
/-- `LI` with LEN 2 -/
def execLiLen2 (sy : Sync) (rd : XReg) (imm : BitVec 64) (s : State) := s.runX sy 2 .run rd [] fun _ => imm
/-- `MULI` -/
def execMuli (sy : Sync) (rd ra : XReg) (imm : BitVec 8) (s : State) := s.aluImm sy 0 rd ra (sext64 imm) fun a b => a * b
/-- `MULI` with LEN 1 -/
def execMuliLen1 (sy : Sync) (rd ra : XReg) (imm : BitVec 36) (s : State) := s.aluImm sy 1 rd ra (sext64 imm) fun a b => a * b
/-- `MULI` with LEN 2 -/
def execMuliLen2 (sy : Sync) (rd ra : XReg) (imm : BitVec 64) (s : State) := s.aluImm sy 2 rd ra imm fun a b => a * b

/-! ## Compares and predicate logic (R108 to R110) -/

/-- `CMP` -/
def execCmp (sy : Sync) (pd : PReg) (cc : Cc) (ra rb : XReg) (s : State) :=
  s.runP sy 0 pd [] [ra, rb] fun u => fillPred (cc.holds (u.x ra) (u.x rb))
/-- `CMPI` -/
def execCmpi (sy : Sync) (pd : PReg) (cc : Cc) (ra : XReg) (imm : BitVec 6) (s : State) :=
  s.runP sy 0 pd [] [ra] fun u => fillPred (cc.holds (u.x ra) (sext64 imm))
/-- `CMPI` with LEN 1 -/
def execCmpiLen1 (sy : Sync) (pd : PReg) (cc : Cc) (ra : XReg) (imm : BitVec 34) (s : State) :=
  s.runP sy 1 pd [] [ra] fun u => fillPred (cc.holds (u.x ra) (sext64 imm))
/-- `PAND` -/
def execPand (sy : Sync) (pd pa pb : PReg) (s : State) := s.runP sy 0 pd [pa, pb] [] fun u => u.pr pa &&& u.pr pb
/-- `POR` -/
def execPor (sy : Sync) (pd pa pb : PReg) (s : State) := s.runP sy 0 pd [pa, pb] [] fun u => u.pr pa ||| u.pr pb
/-- `PXOR` -/
def execPxor (sy : Sync) (pd pa pb : PReg) (s : State) := s.runP sy 0 pd [pa, pb] [] fun u => u.pr pa ^^^ u.pr pb
/-- `PANDN` -/
def execPandn (sy : Sync) (pd pa pb : PReg) (s : State) := s.runP sy 0 pd [pa, pb] [] fun u => u.pr pa &&& ~~~(u.pr pb)
/-- `PNOT` -/
def execPnot (sy : Sync) (pd pa : PReg) (s : State) := s.runP sy 0 pd [pa] [] fun u => ~~~(u.pr pa)
/-- `PSET` -/
def execPset (sy : Sync) (pd : PReg) (s : State) := s.runP sy 0 pd [] [] fun _ => BitVec.allOnes 1024
/-- `PCLR` -/
def execPclr (sy : Sync) (pd : PReg) (s : State) := s.runP sy 0 pd [] [] fun _ => 0
/-- `PMOV` -/
def execPmov (sy : Sync) (pd pa : PReg) (s : State) := s.runP sy 0 pd [pa] [] fun u => u.pr pa
/-- `PCNT` -/
def execPcnt (sy : Sync) (rd : XReg) (pa : PReg) (s : State) :=
  s.run .c sy 0 .run (fun u => ⟨(u.predDep pa).or u.vlDep, [], []⟩) fun u => .fin (u.setX rd (BitVec.ofNat 64 (popcount (u.active pa) 1024)))

end Sys2Proof.Machine
end

