-- ==== Sys2Proof/Machine/Control.lean ====
section
/-!
DEFINITION. Control flow of the C stream: branches, the return stack, events, traps, `DONE` and `YIELD`
(04_tasks R97 to R100, 05_control R111 to R114, 15_traps R335, R336).
-/

namespace Sys2Proof.Machine

/-! ## No operation, events, the task's end -/

/-- `NOP` (R30) -/
def execNop (sy : Sync) (s : State) := s.runC sy 0 .run [] Eff.fin

/-- `YIELD` (R100) -/
def execYield (sy : Sync) (s : State) :=
  s.runC sy 0 .run [] fun u => .fin (u.mapC fun c => { c with yielding := true })

/-- `WFE` (R97) -/
def execWfe (sy : Sync) (m : BitVec 6) (s : State) :=
  s.runC sy 0 .run [] fun u => if u.ctx.sys.evt &&& m = 0 then .stay State.sleep else .fin u

/-- `EVCLR` (R97) -/
def execEvclr (sy : Sync) (m : BitVec 6) (s : State) :=
  s.runC sy 0 .spec [] fun u => .fin (u.mapSys fun r => { r with evt := r.evt &&& ~~~m })

/-- Waits until everything of the context has performed at SYSTEM scope, then goes on; a dropped posted access
is reported instead (R88, R99, R237). -/
def State.whenPerformed (s : State) (f : Unit → Eff) : Eff :=
  if !s.ctx.order.dropped.isEmpty then .report fun _ => true
  else if s.allPerformed then f ()
  else .stay fun t => t.sendMarkers (BitVec.allOnes 16) true none

/-- No engine stream runs (R99, R119). -/
def Ctx.enginesIdle (c : Ctx) : Bool := [Stream.ld, .mx, .vx, .st].all fun t => !(c.streams[t.ix]).busy

/-- `DONE` (R99): an exchange's accesses are the context's own, so its exchanges have ended too (R308). Its pops are taken when it ends:
R99 has it issue and then wait, R333 and R339 have a waiting `DONE` not issued, so a counter that it pops stays as it is meanwhile (log
entry 59). -/
def execDone (sy : Sync) (s : State) :=
  s.runC sy 0 .run [] fun u =>
    if u.ctx.enginesIdle ∧ u.ctx.ver.isNone ∧ u.ctx.spec.isNone ∧ u.ctx.mx.drain.isNone ∧ u.ctx.coll.exchanges = [] ∧ ¬ u.trapDue then
      match u.whenPerformed fun _ => .gone u.endTask with
      | .stay f => .stay fun t => (f t).sleep
      | e => e
    else .stay State.sleep

/-! ## Traps (R335, R336) -/

/-- `TRAP` -/
def execTrap (sy : Sync) (imm : BitVec 12) (s : State) := s.runC sy 0 .run [] fun _ => .trap cTRAPINSN (zext64 imm)

/-- `BRK` -/
def execBrk (sy : Sync) (s : State) := s.runC sy 0 .run [] fun _ => .trap cBRK 0

/-- `ERET` -/
def execEret (sy : Sync) (s : State) :=
  s.runC sy 0 .run [] fun u =>
    let dest := u.ctx.c.trappc
    if dest &&& 3 ≠ 0 ∨ 2 ^ 56 ≤ dest.toNat then .trap cALIGN dest else .jump u.returnTrap dest .now

/-! ## Branches (R111, R112) -/

/-- A branch of `len + 1` words, taken where `take` says so. -/
def State.branch {n : Nat} (s : State) (sy : Sync) (len : Nat) (disp : BitVec n) (reads : State → Dep)
    (take : State → Bool) : Host.Outcome State Fault Refusal :=
  s.run .c sy len .run (fun u => ⟨reads u, [], []⟩) fun u => if take u then .jump u (branchTo u.cpc disp) .now else .fin u

/-- Some active element is 1. -/
def State.anyActive (s : State) (p : PReg) : Bool := decide (s.active p ≠ 0)

/-- Every active element is 1. -/
def State.allActive (s : State) (p : PReg) : Bool := decide (s.active p = activeMask s.ctx.vx.vl)

/-- What a test of active elements depends on. -/
def State.activeDep (s : State) (p : PReg) : Dep := (s.predDep p).or s.vlDep

/-- `BR` -/
def execBr (sy : Sync) (disp : BitVec 15) (s : State) := s.branch sy 0 disp (fun _ => .clean) fun _ => true
/-- `BR` with LEN 1 -/
def execBrLen1 (sy : Sync) (disp : BitVec 43) (s : State) := s.branch sy 1 disp (fun _ => .clean) fun _ => true
/-- `BP` -/
def execBp (sy : Sync) (p : PReg) (sense : Bool) (disp : BitVec 15) (s : State) :=
  s.branch sy 0 disp (·.predDep p) fun u => (u.pr p).getLsbD 0 == sense
/-- `BP` with LEN 1 -/
def execBpLen1 (sy : Sync) (p : PReg) (sense : Bool) (disp : BitVec 43) (s : State) :=
  s.branch sy 1 disp (·.predDep p) fun u => (u.pr p).getLsbD 0 == sense
/-- `BANY` -/
def execBany (sy : Sync) (p : PReg) (sense : Bool) (disp : BitVec 15) (s : State) :=
  s.branch sy 0 disp (·.activeDep p) fun u => u.anyActive p == sense
/-- `BANY` with LEN 1 -/
def execBanyLen1 (sy : Sync) (p : PReg) (sense : Bool) (disp : BitVec 43) (s : State) :=
  s.branch sy 1 disp (·.activeDep p) fun u => u.anyActive p == sense
/-- `BALL` -/
def execBall (sy : Sync) (p : PReg) (sense : Bool) (disp : BitVec 15) (s : State) :=
  s.branch sy 0 disp (·.activeDep p) fun u => u.allActive p == sense
/-- `BALL` with LEN 1 -/
def execBallLen1 (sy : Sync) (p : PReg) (sense : Bool) (disp : BitVec 43) (s : State) :=
  s.branch sy 1 disp (·.activeDep p) fun u => u.allActive p == sense
/-- `BRI` -/
def execBri (sy : Sync) (ra : XReg) (s : State) :=
  s.runC sy 0 .run [ra] fun u => if u.x ra &&& 3 ≠ 0 then .trap cALIGN (u.x ra) else .jump u (u.x ra) .now

/-! ## The return stack (R113, R114) -/

/-- STACKBASE.DEPTH -/
def stackDepth (w : Word) : Nat := w.toNat / 2 ^ 56

/-- STACKBASE.BASE ∥ 0b00_0000 -/
def stackAddr (w : Word) : Nat := w.toNat % 2 ^ 56 / 64 * 64

/-- STACKBASE with another DEPTH. -/
def withDepth (w : Word) (d : Nat) : Word := BitVec.ofNat 64 (d * 2 ^ 56 + w.toNat % 2 ^ 56)

/-- Pushes a return address after any spill. -/
def State.pushReturn (s : State) (r : Word) : State := s.mapC fun c => { c with stack := c.stack ++ [r] }

/-- `CALL`'s effect: spill when full, push the return address, jump (R114). -/
def State.callTo (s : State) (len : Nat) (dest : Word) : Eff :=
  let back := s.cpc + BitVec.ofNat 64 (4 * (len + 1))
  let w := s.ctx.c.stackbase
  if s.ctx.c.stack.length < 16 then .jump (s.pushReturn back) dest .now
  else if stackDepth w = 255 then .trap cSTACK 1
  else
    let old := s.ctx.c.stack.take 8
    let bytes := (old.map fun e => leBytes 8 e.toNat).flatten
    (s.store .c (BitVec.ofNat 64 (stackAddr w + 64 * stackDepth w)) bytes 0 .default).eff fun _ u =>
      let u := u.mapC fun c => { c with stack := c.stack.drop 8, stackbase := withDepth w (stackDepth w + 1) }
      .jump (u.pushReturn back) dest .now

/-- A call needs a spill. -/
def State.spillHold (s : State) : Hold := if s.ctx.c.stack.length < 16 then .run else .spec

/-- `CALL` -/
def execCall (sy : Sync) (disp : BitVec 15) (s : State) :=
  s.runC sy 0 s.spillHold [] fun u => u.callTo 0 (branchTo u.cpc disp)
/-- `CALL` with LEN 1 -/
def execCallLen1 (sy : Sync) (disp : BitVec 43) (s : State) :=
  s.runC sy 1 s.spillHold [] fun u => u.callTo 1 (branchTo u.cpc disp)
/-- `CALLI` -/
def execCalli (sy : Sync) (ra : XReg) (s : State) :=
  s.runC sy 0 s.spillHold [ra] fun u => if u.x ra &&& 3 ≠ 0 then .trap cALIGN (u.x ra) else u.callTo 0 (u.x ra)

/-- The eight words of a filled group. -/
def groupWords (v : Nat) : List Word := (List.range 8).map fun j => BitVec.ofNat 64 (v / 2 ^ (64 * j))

/-- Returns to the newest entry of a stack. -/
def State.popReturn (s : State) (st : List Word) (base : Word) : Eff :=
  let dest := st.getLastD 0
  if dest &&& 3 ≠ 0 then .trap cALIGN dest
  else .jump (s.mapC fun c => { c with stack := st.dropLast, stackbase := base }) dest .now

/-- `RET` (R114) -/
def execRet (sy : Sync) (s : State) :=
  s.runC sy 0 (if s.ctx.c.stack.isEmpty then .spec else .run) [] fun u =>
    let w := u.ctx.c.stackbase
    if !u.ctx.c.stack.isEmpty then u.popReturn u.ctx.c.stack w
    else if stackDepth w = 0 then .trap cSTACK 0
    else
      (u.load (BitVec.ofNat 64 (stackAddr w + 64 * (stackDepth w - 1))) 64 0 .default false).eff fun v u =>
        u.popReturn (groupWords v) (withDepth w (stackDepth w - 1))

end Sys2Proof.Machine
end

