-- ==== Sys2Proof/Machine/Regs.lean ====
section
/-!
DEFINITION. The special registers and their reads and writes (05_control R115 to R117, R395 of 00_scope, and the
field maps of the owning chapters).
-/

namespace Sys2Proof.Machine

/-- VX cycles that a core's island has counted by now (R117, R315). -/
def State.cycles (s : State) : Nat :=
  let i := Table.get Island.init s.pw.islands (clusterOfCore s.coreNo)
  i.cycles + (s.nstime - i.since) * 5 * (i.vx.toNat + 1) / 32

/-- The value of `INTEG` (R191). -/
def State.integ (s : State) : Word :=
  let c := s.core s.coreNo
  BitVec.ofNat 64 (s.ctx.sys.integCount.toNat * 2 ^ 8 + s.ctx.sys.lastVerdict.toNat * 2 ^ 4 + bitOf c.shadowFailed * 4 +
    bitOf c.mainFailed)

/-- A register of two 32-bit halves. -/
def halves (hi lo : Nat) : Word := BitVec.ofNat 64 (hi % 2 ^ 32 * 2 ^ 32 + lo % 2 ^ 32)

/-- The value that `MFSR` reads from special register `sr` (R115). COREID gives the whole number 0 to 767 of R8, though its row
says that bits [63:8] are zero (log entry 50). -/
def State.readSr (s : State) (sr : Nat) : Word :=
  let c := s.ctx
  let grouped (v : Nat) : Word := if c.launch.group = 0 then 0 else BitVec.ofNat 64 (v % 2 ^ 32)
  match sr with
  | 0x000 => halves c.ident.seq.toNat c.launch.node.toNat
  | 0x001 => zext64 c.ident.inst
  | 0x002 => BitVec.ofNat 64 (c.ident.inst.toNat / c.launch.team)
  | 0x003 => BitVec.ofNat 64 c.key.slot.val
  | 0x004 => BitVec.ofNat 64 s.coreNo
  | 0x005 => BitVec.ofNat 64 (clusterOfCore s.coreNo)
  | 0x006 => BitVec.ofNat 64 s.dieNo
  | 0x007 => zext64 s.ctx.sys.pkgid
  | 0x008 => zext64 c.launch.group
  | 0x009 => grouped c.launch.members
  | 0x00A => grouped c.memberIx
  | 0x010 => BitVec.ofNat 64 c.vx.vl
  | 0x011 => zext64 c.sys.evt
  | 0x012 => zext64 c.sys.evtmask
  | 0x013 => c.sys.ratiogrant
  | 0x014 => BitVec.ofNat 64 s.cycles
  | 0x015 => BitVec.ofNat 64 s.nstime
  | 0x020 => c.c.trapcause
  | 0x021 => c.c.trappc
  | 0x022 => c.c.trapval
  | 0x023 => c.c.trapvec
  | 0x024 => c.c.trapstream
  | 0x030 => s.integ
  | 0x031 => halves c.sys.drains.toNat c.sys.verdicts.toNat
  | 0x050 => halves c.win.spSize c.win.spBase
  | 0x051 => halves c.win.rsSize c.win.rsBase
  | 0x052 => c.c.stackbase
  | 0x053 => halves c.win.jSize c.win.jBase
  | 0x054 => c.sys.barbase
  | 0x055 => c.sys.slbase
  | 0x060 => c.launch.args
  | 0x070 => BitVec.ofNat 64 (s.sliceMap s.dieNo).remways
  | n => if h : 0x040 ≤ n ∧ n ≤ 0x047 then c.sys.swz[n - 0x040]'(by omega) else 0

/-- A write of the RW bits in `mask`; other bits stay. -/
def writeBits (old new mask : Word) : Word := (old &&& ~~~mask) ||| (new &&& mask)

/-- Writing TRAPCAUSE with HS 0 ends the pause (R330, R332). -/
def State.writeTrapcause (s : State) (v : Word) : State :=
  let s := s.mapC fun c => { c with trapcause := writeBits c.trapcause v 0xFF81FF }
  if s.hs then s else s.mapCtx (·.setPause false)

/-- `MTSR` to a register that a task may write; RO registers keep their values (R116). -/
def State.writeSr (s : State) (sr : Nat) (v : Word) : State :=
  match sr with
  | 0x011 => s.mapSys fun r => { r with evt := r.evt &&& ~~~(v.setWidth 6) }
  | 0x012 => s.mapSys fun r => { r with evtmask := v.setWidth 6 }
  | 0x020 => s.writeTrapcause v
  | 0x021 => s.mapC fun c => { c with trappc := v }
  | 0x022 => s.mapC fun c => { c with trapval := v }
  | 0x023 => s.mapC fun c => { c with trapvec := writeBits c.trapvec v 0x00FFFFFFFFFFFFFC }
  | 0x024 => s.mapC fun c => { c with trapstream := writeBits c.trapstream v 8 }
  | 0x052 => s.mapC fun c => { c with stackbase := writeBits c.stackbase v 0xFFFFFFFFFFFFFFC0 }
  | 0x054 => s.mapSys fun r => { r with barbase := writeBits r.barbase v 0xFFFFFFFFFFFFFFE0 }
  | 0x055 => s.mapSys fun r => { r with slbase := writeBits r.slbase v 0xFFFFFFFFFFFFFFC0 }
  | n => if 0x040 ≤ n ∧ n ≤ 0x047 then
      s.mapSys fun r => { r with swz := r.swz.set! (n - 0x040) (v &&& 0x7FFFFFFFF) } else s

/-- `MFSR` (R116) -/
def execMfsr (sy : Sync) (rd : XReg) (sr : BitVec 12) (s : State) :=
  s.run .c sy 0 .run (fun u => ⟨if sr = 0x010 then u.vlDep else .clean, [], []⟩) fun u => .fin (u.setX rd (u.readSr sr.toNat))

/-- A bound operand of a copy lies in scratchpads, a mapping where one of its runs lies in the SP aperture (R216). -/
def Bound.inSp (b : Bound) : Bool :=
  match b with
  | .sp | .clusterSp | .slot .. => true
  | .map _ m => m.runs.any fun r =>
      match regionOf r.pa with
      | .sp .. => true
      | _ => false
  | .rs | .dsp => false

/-- A copy command or an exchange of the context that touches scratchpads is in flight (R219). -/
def Ctx.spInFlight (c : Ctx) : Bool :=
  ((c.ld.flight ++ c.st.flight).any fun q => !q.done && (q.dst.inSp || q.src.inSp)) ||
  c.coll.exchanges.any fun x => x.src.inSp || x.dst.inSp

/-- `MTSR` (R116); to an `SWZ` register it waits for scratchpad accesses in flight (R219). -/
def execMtsr (sy : Sync) (sr : BitVec 12) (rs : XReg) (s : State) :=
  s.runC sy 0 .both [rs] fun u =>
    if sr = 0x070 then .trap cPROT (zext64 sr)
    else if 0x040 ≤ sr.toNat ∧ sr.toNat ≤ 0x047 ∧ u.ctx.spInFlight then .wait
    else .fin (u.writeSr sr.toNat (u.x rs))

end Sys2Proof.Machine
end

