-- ==== Sys2Proof/Machine/EngineCtl.lean ====
section
/-!
DEFINITION. Starting and watching the engine streams, and filling the queues (05_control R118 to R123).
-/

namespace Sys2Proof.Machine

/-- `EGO`'s start of a stream that is not BUSY (R118). -/
def State.start (s : State) (t : Stream) (pc : Word) : State :=
  (s.mapCtx (·.returnHeld t)).mapStr t fun x =>
    { x with pc := pc, busy := true, fault := none, held := none, ref := none }

/-- `EGO`. A stream that ended while dependent is waited for: its checkpoint may bring it back (R194; log entry 44). -/
def execEgo (sy : Sync) (e : Engine) (ra : XReg) (s : State) :=
  s.runC sy 0 .both [ra] fun u =>
    if u.x ra &&& 3 ≠ 0 then .trap cALIGN (u.x ra)
    else if (u.str e.stream).busy || (u.dep e.stream).ver || (u.dep e.stream).spec then .wait
    else .fin (u.start e.stream (u.x ra))

/-- `EWAIT`: a stream that a trap entry paused is waited for until the pause ends (R119, R332). -/
def execEwait (sy : Sync) (e : Option Engine) (s : State) :=
  s.runC sy 0 .run [] fun u =>
    let idle := match e with
      | some e => !(u.str e.stream).busy && !(u.str e.stream).paused
      | none => u.ctx.enginesIdle && (u.ctx.streams.toList.drop 1).all fun x => !x.paused
    if idle then .fin u else .wait

/-- Copy commands completed by a stream (R120). -/
def Ctx.doneseq (c : Ctx) (t : Stream) : BitVec 32 :=
  match t with
  | .ld => c.ld.doneseq
  | .st => c.st.doneseq
  | _ => 0

/-- The snapshot of `ESTAT` (R120). -/
def State.estat (s : State) (t : Stream) : Word :=
  let x := s.str t
  let f := match x.fault with
    | some (c, _, _) => c.toNat * 4 + 2
    | none => 0
  BitVec.ofNat 64 ((s.ctx.doneseq t).toNat * 2 ^ 32 + f + bitOf x.busy)

/-- `ESTAT` -/
def execEstat (sy : Sync) (rd : XReg) (e : Engine) (s : State) := s.runX sy 0 .run rd [] fun u => u.estat e.stream

/-- `FQPUSH` (R123) -/
def execFqpush (sy : Sync) (ra : XReg) (s : State) :=
  s.runC sy 0 .spec [ra] fun u => if u.ctx.roomQ 0 then .fin (u.pushQ .c 0 (u.x ra)) else .wait

/-- The queue that `PQPUSH` names. -/
def pqIndex : PQ → Fin 4
  | .ld => 1 | .vx => 2 | .st => 3

/-- `PQPUSH` (R123) -/
def execPqpush (sy : Sync) (q : PQ) (ra : XReg) (s : State) :=
  s.runC sy 0 .spec [ra] fun u => if u.ctx.roomQ (pqIndex q) then .fin (u.pushQ .c (pqIndex q) (u.x ra)) else .wait

end Sys2Proof.Machine
end

