-- ==== Sys2Proof/Machine/Handles.lean ====
section
/-!
DEFINITION. Handles: mapping, unmapping, querying, binding (09_memory R228 to R234).
-/

namespace Sys2Proof.Machine

/-! ## HANDLE subcodes (R234) -/

/-- BOUNDS -/
def hBOUNDS : Nat := 1
/-- UNMAPPED -/
def hUNMAPPED : Nat := 2
/-- RIGHTS -/
def hRIGHTS : Nat := 3
/-- FIXED -/
def hFIXED : Nat := 4
/-- INUSE -/
def hINUSE : Nat := 5
/-- EXTENT -/
def hEXTENT : Nat := 6
/-- RUNS -/
def hRUNS : Nat := 7
/-- SIGCOPY -/
def hSIGCOPY : Nat := 8

/-! ## Pins (R228) -/

/-- Mappings that a context's handles and pending releases hold. -/
def Ctx.mappings (c : Ctx) : List Mapping := c.handles.toList.filterMap id ++ c.releases.map (·.m)

/-- Mappings that a swapped-out member keeps (R238). -/
def Keep.mappings (k : Keep) : List Mapping := k.handles.toList.filterMap id ++ k.releases.map (·.m)

/-- Mappings that the members of a partition hold. -/
def State.partMappings (s : State) (p : Part) : List Mapping :=
  ((s.resident.filter (Ctx.inPart p)).map Ctx.mappings).flatten ++
  ((s.nodes.filter fun n => decide (n.part = p)).map fun n =>
    ((n.teams.map fun t => (t.members.map fun m =>
      match m with
      | .saved k => k.mappings
      | _ => []).flatten).flatten)).flatten

/-- How often the page that starts at a virtual address is pinned. -/
def State.pinCount (s : State) (p : Part) (va : Nat) : Nat :=
  ((s.partMappings p).filter fun m => m.pins.any fun q => decide (q.1 = va)).length

/-! ## TMAP (R230) -/

/-- Joins a page's piece to the runs, which are kept newest first (R229). -/
def addRun (l : List Run) (r : Run) : List Run :=
  match l with
  | [] => [r]
  | q :: rest =>
    if q.pa + q.len = r.pa ∧ q.key = r.key ∧ q.device = r.device then { q with len := q.len + r.len } :: rest else r :: l

/-- What walking the range of a `TMAP` answers. -/
inductive MapWalk where
  /-- Runs newest first, and the pages. -/
  | ok (runs : List Run) (pins : List (Nat × Nat)) (s : State)
  | fault (c : BitVec 8) (v : Nat)
  /-- A page's pin count is full. -/
  | wait

/-- The right of a mapping asked for covers reads. -/
def wantsR : Rights → Bool
  | .w => false
  | _ => true

/-- The right of a mapping asked for covers writes. -/
def wantsW : Rights → Bool
  | .r => false
  | _ => true

/-- Walks the pages of [cur, last) in ascending order (R230). -/
def State.mapPages (p : Part) (xa last : Nat) (rights : Rights) :
    Nat → State → Nat → List Run → List (Nat × Nat) → MapWalk
  | 0, s, _, runs, pins => .ok runs pins s
  | fuel + 1, s, cur, runs, pins =>
    if last ≤ cur then .ok runs pins s
    else if 0xFD ≤ cur / 2 ^ 48 then .fault cPROT (max xa (cur / 2 ^ 16 * 2 ^ 16))
    else
      match s.walk p cur with
      | (.error c, _) => .fault c (max xa (cur / 2 ^ 16 * 2 ^ 16))
      | (.ok (f, _), s) =>
        if (wantsR rights ∧ ¬ f.r) ∨ (wantsW rights ∧ ¬ f.w) then .fault cPROT (max xa f.va)
        else if 65535 ≤ s.pinCount p f.va then .wait
        else
          let stop := min last (f.va + f.size)
          let r : Run := { off := cur - xa, len := stop - cur, pa := f.pa + (cur - f.va), key := f.key, device := f.device }
          State.mapPages p xa last rights fuel s stop (addRun runs r) ((f.va, f.size) :: pins)

/-- `TMAP`'s effect (R230). -/
def State.tmap (s : State) (hd : HReg) (a b : Word) (rights : Rights) : Eff :=
  let fail (sub : Nat) : Eff := .trap cHANDLE (handleVal sub hd.val 0)
  if h : hd.val < 60 then
    let ext := b.toNat % 2 ^ 41
    let xa := a.toNat
    if (s.ctx.handles[hd.val]).isSome then fail hINUSE
    else if ext = 0 ∨ 2 ^ 40 < ext ∨ b.toNat % 2 ^ 63 / 2 ^ 41 ≠ 0 ∨ 2 ^ 56 < xa + ext then fail hEXTENT
    else
      match State.mapPages s.ctx.ident.part xa (xa + ext) rights (ext / 2 ^ 16 + 2) s xa [] [] with
      | .wait => .wait
      | .fault c v => .trap c (BitVec.ofNat 64 v)
      | .ok runs pins u =>
        if 256 < runs.length then fail hRUNS
        else
          let m : Mapping :=
            { base := a, extent := ext, rights := rights, zero := b.getLsbD 63, runs := runs.reverse, pins := pins
              serial := u.serial }
          .fin (u.tick.mapCtx fun c => { c with handles := c.handles.set hd.val (some m) })
  else fail hFIXED

/-- `TMAP` -/
def execTmap (sy : Sync) (hd : HReg) (ra rb : XReg) (rights : Rights) (s : State) :=
  s.runC sy 0 .both [ra, rb] fun u => u.tmap hd (u.x ra) (u.x rb) rights

/-! ## TUNMAP and TQUERY (R231, R232) -/

/-- `TUNMAP`'s effect (R231). -/
def State.tunmap (s : State) (hd : HReg) : Eff :=
  if h : hd.val < 60 then
    match s.ctx.handles[hd.val] with
    | none => .fin s
    | some m =>
      if 64 ≤ s.ctx.releases.length then .wait
      else .fin (s.mapCtx fun c =>
        ({ c with handles := c.handles.set hd.val none, releases := c.releases ++ [{ h := hd.val, m := m }] } : Ctx).dropReleases)
  else .trap cHANDLE (handleVal hFIXED hd.val 0)

/-- `TUNMAP` -/
def execTunmap (sy : Sync) (hd : HReg) (s : State) := s.runC sy 0 .both [] fun u => u.tunmap hd

/-- The RIGHTS code (R232). -/
def rightsCode : Rights → Nat
  | .r => 0 | .w => 1 | .rw => 2

/-- The rights that a RIGHTS code gives; code 3, which no block is written with, gives both. -/
def rightsOf : Nat → Rights
  | 0 => .r | 1 => .w | _ => .rw

/-- The extent of a fixed handle (R229). -/
def State.fixedExtent (s : State) (hd : Nat) : Nat :=
  match hd with
  | 60 => s.ctx.win.rsSize
  | 61 => s.ctx.win.spSize
  | 62 => 2 ^ 23
  | _ => 2 ^ 25

/-- The state of a handle (R232). -/
def State.tquery (s : State) (hd : HReg) : Word :=
  if h : hd.val < 60 then
    let rel := bitOf (s.ctx.releases.any fun r => decide (r.h = hd.val)) * 2
    match s.ctx.handles[hd.val] with
    | none => BitVec.ofNat 64 rel
    | some m =>
      BitVec.ofNat 64 (m.extent * 2 ^ 16 + (m.runs.length - 1) * 2 ^ 8 + bitOf m.zero * 16 + rightsCode m.rights * 4 + rel + 1)
  else BitVec.ofNat 64 (s.fixedExtent hd.val * 2 ^ 16 + 2 * 4 + 1)

/-- `TQUERY` -/
def execTquery (sy : Sync) (rd : XReg) (hd : HReg) (s : State) := s.runX sy 0 .run rd [] fun u => u.tquery hd

/-! ## Bound handles (R233) -/

/-- The state of a handle as a command binds it; `none` when it is unmapped. -/
def State.bind (s : State) (hd : HReg) : Option Bound :=
  if h : hd.val < 60 then (s.ctx.handles[hd.val]).map fun m => .map hd.val m
  else some (match hd.val with
    | 60 => .rs
    | 61 => .sp
    | 62 => .clusterSp
    | _ => .dsp)

/-- The rights of a bound handle cover reads. -/
def Bound.reads (b : Bound) : Bool :=
  match b with
  | .map _ m => wantsR m.rights
  | _ => true

/-- The rights of a bound handle cover writes. -/
def Bound.writes (b : Bound) : Bool :=
  match b with
  | .map _ m => wantsW m.rights
  | _ => true

/-- Its poison policy is ZERO. -/
def Bound.zeroes (b : Bound) : Bool :=
  match b with
  | .map _ m => m.zero
  | _ => false

/-- The run that holds an offset. -/
def findRun : List Run → Nat → Option Run
  | [], _ => none
  | r :: rest, o => if r.off ≤ o ∧ o < r.off + r.len then some r else findRun rest o

/-- The place of a byte of a bound handle for the acting context. Register space has its place beyond the physical
map. -/
def State.byteAt (s : State) (b : Bound) (o : Nat) : Place :=
  match b with
  | .rs => ⟨s.rsAddr o, true, 0, false⟩
  | .sp => ⟨spPa s.coreNo (s.ctx.win.spBase + o), true, 0, false⟩
  | .clusterSp => ⟨spPa (s.coreNo / 8 * 8 + o / 2 ^ 20 % 8) (o % 2 ^ 20), true, 0, false⟩
  | .dsp => ⟨dspPa s.dieNo o, true, 0, false⟩
  | .map _ m =>
    match findRun m.runs o with
    | none => ⟨m.base.toNat + o, false, 0, false⟩
    | some r => ⟨r.pa + (o - r.off), false, r.key, r.device⟩
  | .slot pa _ => ⟨pa + o, true, 0, false⟩

/-- A byte of a bound handle passes the reach checks (R215, R242). -/
def State.reaches (s : State) (b : Bound) (off : Int) : Bool :=
  let o := off.toNat
  decide (0 ≤ off) &&
  match b with
  | .rs => decide (o < s.ctx.win.rsSize)
  | .sp => decide (o < s.ctx.win.spSize)
  | .clusterSp => decide (o < 2 ^ 23) && s.spHeld s.ctx.sameNode (s.coreNo / 8 * 8 + o / 2 ^ 20 % 8) (o % 2 ^ 20) 1
  | .dsp => decide (o < 2 ^ 25) && (s.part s.ctx.ident.part).any fun q => q.ownsDsp s.dieNo o
  | .map _ m => decide (o < m.extent) && s.apertureOk s.ctx.ident.part (s.byteAt b o).pa 1
  | .slot _ n => decide (o < n)

end Sys2Proof.Machine
end

