-- ==== Sys2Proof/Machine/LoadStore.lean ====
section
/-!
DEFINITION. Scalar loads and stores, cache maintenance and `FENCE` (09_memory R235, R236, 11_ordering R269,
R272).
-/

namespace Sys2Proof.Machine

/-! ## Loads and stores (R235) -/

/-- A load of `len + 1` words; `conv` extends the bytes read. -/
def State.runLoad (s : State) (sy : Sync) (len : Nat) (rd ra : XReg) (off : BitVec 28) (cls : Fin 16) (hint : Hint) (sz : Size) (ro : Bool)
    (conv : Nat → Word) : Host.Outcome State Fault Refusal :=
  s.runC sy len .run [ra] fun u =>
    (u.load (u.memAddr ra off) sz.bytes cls hint ro).eff fun v w => .fin (w.setX rd (conv v))

/-- A store of `len + 1` words. -/
def State.runStore (s : State) (sy : Sync) (len : Nat) (rs ra : XReg) (off : BitVec 28) (cls : Fin 16) (hint : Hint) (sz : Size) :
    Host.Outcome State Fault Refusal :=
  s.runC sy len .run [rs, ra] fun u =>
    (u.store .c (u.memAddr ra off) (leBytes sz.bytes (u.x rs).toNat) cls hint).eff fun _ w => .fin w

/-- `LD` -/
def execLd (sy : Sync) (rd ra : XReg) (cls : Fin 16) (hint : Hint) (sz : Size) (s : State) :=
  s.runLoad sy 0 rd ra 0 cls hint sz false (BitVec.ofNat 64)
/-- `LD` with LEN 1 -/
def execLdLen1 (sy : Sync) (rd ra : XReg) (cls : Fin 16) (hint : Hint) (sz : Size) (off : BitVec 28) (s : State) :=
  s.runLoad sy 1 rd ra off cls hint sz false (BitVec.ofNat 64)
/-- `LDS` -/
def execLds (sy : Sync) (rd ra : XReg) (cls : Fin 16) (hint : Hint) (sz : Size) (s : State) :=
  s.runLoad sy 0 rd ra 0 cls hint sz false (sextBytes sz.bytes)
/-- `LDS` with LEN 1 -/
def execLdsLen1 (sy : Sync) (rd ra : XReg) (cls : Fin 16) (hint : Hint) (sz : Size) (off : BitVec 28) (s : State) :=
  s.runLoad sy 1 rd ra off cls hint sz false (sextBytes sz.bytes)
/-- `LDRO` -/
def execLdro (sy : Sync) (rd ra : XReg) (cls : Fin 16) (hint : Hint) (sz : Size) (s : State) :=
  s.runLoad sy 0 rd ra 0 cls hint sz true (BitVec.ofNat 64)
/-- `LDRO` with LEN 1 -/
def execLdroLen1 (sy : Sync) (rd ra : XReg) (cls : Fin 16) (hint : Hint) (sz : Size) (off : BitVec 28) (s : State) :=
  s.runLoad sy 1 rd ra off cls hint sz true (BitVec.ofNat 64)
/-- `ST` -/
def execSt (sy : Sync) (rs ra : XReg) (cls : Fin 16) (hint : Hint) (sz : Size) (s : State) :=
  s.runStore sy 0 rs ra 0 cls hint sz
/-- `ST` with LEN 1 -/
def execStLen1 (sy : Sync) (rs ra : XReg) (cls : Fin 16) (hint : Hint) (sz : Size) (off : BitVec 28) (s : State) :=
  s.runStore sy 1 rs ra off cls hint sz

/-! ## FENCE (R269, R272) -/

/-- Scopes that reach beyond the die. -/
def wideScope : Scope → Bool
  | .device | .system => true
  | _ => false

/-- Scopes that send flush markers. -/
def marksScope : Scope → Bool
  | .core | .cluster => false
  | _ => true

/-- Who reports an access that a home dropped: nobody, a `FENCE` beyond the die, or a release atomic, at every scope at which it would have
waited for the access (R237). -/
inductive Reporter where
  | nobody | fence | release
deriving DecidableEq, Repr

/-- A wait for the classes at the scope reports a dropped access: it would have waited for it (R237, R272). -/
def State.reports (s : State) (r : Reporter) (classes : BitVec 16) (scope : Scope) (e : Dropped) : Bool :=
  classes.getLsbD e.cls.val &&
    match r with
    | .nobody => false
    | .fence => wideScope scope
    | .release => wideScope scope || (marksScope scope && decide (e.die = s.dieNo))

/-- A request of the core in the classes is held at its port. -/
def State.portHolds (s : State) (classes : BitVec 16) : Bool :=
  s.ms.held.any fun q => decide (q.key.core.val = s.coreNo) && classes.getLsbD q.cls.val && q.kind.posted

/-- Waits until every access of the classes has performed at the scope, then goes on (R263, R269, R272). An access of the classes that a
home dropped and that it would have waited for is reported instead, where `r` reports (R237). -/
def State.fenced (s : State) (classes : BitVec 16) (scope : Scope) (r : Reporter) (f : Unit → Eff) : Eff :=
  let mine (k : Nat) : Bool := classes.getLsbD k
  if s.ctx.order.dropped.any (s.reports r classes scope) then .report (s.reports r classes scope)
  else if s.ctx.cb.any fun e => e.classes.any fun k => mine k.1.val then .wait
  else if scope = .core then f ()
  else if s.portHolds classes then .wait
  else if !marksScope scope then f ()
  else
    let die := if wideScope scope then none else some s.dieNo
    let here (d : Nat) : Bool := wideScope scope || decide (d = s.dieNo)
    if (s.core s.coreNo).posted.any fun e => mine e.1 && here e.2.1 then .stay fun t => t.sendMarkers classes (wideScope scope) die
    else if s.ms.markers.any fun m => decide (m.core = s.coreNo) && mine m.cls && here m.die then .wait
    else if wideScope scope && s.ctx.order.sectors.any fun e => mine e.2 then .wait
    else f ()

/-- Drops every read-only-path line of the core (R269). -/
def State.dropAllRo (s : State) : State := s.mapCore s.coreNo fun c => { c with roLines := [] }

/-- `FENCE` -/
def execFence (sy : Sync) (classes : BitVec 16) (scope : Scope) (ro : Bool) (s : State) :=
  s.runC sy 0 .run [] fun u =>
    let last := fun (_ : Unit) => Eff.fin (if ro then u.dropAllRo else u)
    if classes = 0 then last () else u.fenced classes scope .fence last

/-! ## Cache maintenance (R236) -/

/-- The physical pieces of [cur, last) with the keys of their pages, skipping local windows; the first address that fails otherwise. -/
def State.rangePieces : Nat → State → Nat → Nat → List PartPiece → Except (BitVec 8 × Nat) (List PartPiece) × State
  | 0, s, _, _, acc => (.ok acc, s)
  | fuel + 1, s, cur, last, acc =>
    if last ≤ cur then (.ok acc, s)
    else if 2 ^ 56 ≤ cur then (.error (cXLATE, cur), s)
    else if 0xFD ≤ cur / 2 ^ 48 then State.rangePieces fuel s ((cur / 2 ^ 48 + 1) * 2 ^ 48) last acc
    else
      match s.translate cur with
      | (.error c, s) => (.error (c, cur), s)
      | (.ok f, s) =>
        if f.r then
          let stop := min last (f.va + f.size)
          State.rangePieces fuel s stop last ((f.pa + (cur - f.va), stop - cur, f.key) :: acc)
        else (.error (cPROT, cur), s)

/-- Runs a range operation on the physical pieces of [xa, xa + min(xb, 2^32)) (R236). -/
def State.onRange (s : State) (a b : Word) (f : State → List PartPiece → Eff) : Eff :=
  let n := min b.toNat (2 ^ 32)
  match State.rangePieces (n / 2 ^ 16 + 4) s a.toNat (a.toNat + n) [] with
  | (.error (c, v), _) => .trap c (BitVec.ofNat 64 v)
  | (.ok l, s) => f s l

/-- A sector lies in one of the pieces. -/
def inPieces (l : List PartPiece) (sec : Nat) : Bool :=
  l.any fun p => decide (p.1 < sec * 128 + 128) && decide (sec * 128 < p.1 + p.2.1)

/-- Merges every reduction sector in the pieces (R284). -/
def State.mergePieces (s : State) (l : List PartPiece) : State :=
  ((s.ms.red.map (·.sector)).filter (inPieces l)).foldl State.mergeRed s

/-- A reduction sector in the pieces whose merge its home parks: its place, through the page of its piece (R289). -/
def State.stuckMerge (s : State) (l : List PartPiece) : Option Place :=
  ((s.ms.red.map (·.sector)).filter (inPieces l)).findSome? fun k =>
    let key := ((l.find? fun p => inPieces [p] k).map (·.2.2)).getD 0
    let p : Place := ⟨k * 128, false, key, false⟩
    if s.atomParks p 1 then some p else none

/-- Merges every reduction sector in the pieces and goes on; a merge that its home parks is waited for, and reported where it is
dropped: the sector then stays as it was (R284, R289). -/
def State.merging (s : State) (l : List PartPiece) (f : State → Eff) : Eff :=
  match s.ctx.order.answer with
  | some (c, v) => .trap c v
  | none =>
    let u := if s.ctx.order.result.isSome then s.mapOrder fun o => { o with result := none } else s
    match u.stuckMerge l with
    | some p => .begin (u.sendOnce (u.request p (BitVec.ofNat 64 p.pa) 0 .merge))
    | none => f (u.mergePieces l)

/-- Removes the pieces from every replica and L1D (R236). -/
def State.dropCopies (s : State) (l : List PartPiece) : State :=
  let s := (s.ms.pending.filter (inPieces l)).foldl State.completeWrite s
  let s := s.mapMs fun m => { m with replicas := m.replicas.filter fun r => !inPieces l r.sector }
  let out (c : CLine) : Bool := !l.any fun p => decide (p.1 ≤ c.line * 1024) && decide (c.line * 1024 + 1024 ≤ p.1 + p.2.1)
  let thin (c : Cache) : Cache := Table.mapVals [] (fun x => x.filter out) c
  let s := s.mapMs fun m => { m with maps := m.maps.map fun x => { x with l2 := thin x.l2 } }
  { s with cores := Table.mapVals Core.init (fun c =>
      { c with l1d := thin c.l1d, l1s := c.l1s.filter (fun e => !inPieces l e), roLines := c.roLines.filter fun e => !inPieces l e.1 }) s.cores }

/-- Lines of a page that a prefetch passes through the caches: `n` lines from the one of `pa`. -/
def State.prefLines (s : State) (p : Place) (h : Hint) : Nat → State
  | 0 => s
  | n + 1 => (s.prefLines p h n).cached { p with pa := lineOf p.pa * 1024 + 1024 * n } .load h

/-- Fills the sectors of [cur, last) with a hint, up to the first page that does not translate; local windows are skipped (R236). -/
def State.prefetch (h : Hint) : Nat → State → Nat → Nat → State
  | 0, s, _, _ => s
  | fuel + 1, s, cur, last =>
    if last ≤ cur ∨ 2 ^ 56 ≤ cur then s
    else if 0xFD ≤ cur / 2 ^ 48 then State.prefetch h fuel s ((cur / 2 ^ 48 + 1) * 2 ^ 48) last
    else
      match s.translate cur with
      | (.error _, s) => s
      | (.ok f, s) =>
        let stop := min last (f.va + f.size)
        let p : Place := ⟨f.pa + (cur - f.va), false, f.key, f.device⟩
        let s := if f.r ∧ p.pa < hbmTop then s.prefLines p h (lineOf (p.pa + (stop - cur) - 1) - lineOf p.pa + 1) else s
        State.prefetch h fuel s stop last

/-- `PREF` -/
def execPref (sy : Sync) (ra rb : XReg) (hint : Hint) (s : State) :=
  s.runC sy 0 .ver [ra, rb] fun u =>
    let n := min (u.x rb).toNat (2 ^ 32)
    .fin (State.prefetch hint (n / 2 ^ 16 + 4) u (u.x ra).toNat ((u.x ra).toNat + n))

/-- `WBR` -/
def execWbr (sy : Sync) (ra rb : XReg) (s : State) :=
  s.runC sy 0 .both [ra, rb] fun u => u.onRange (u.x ra) (u.x rb) fun u l => u.merging l .fin

/-- `INVR` -/
def execInvr (sy : Sync) (ra rb : XReg) (s : State) :=
  s.runC sy 0 .both [ra, rb] fun u => u.onRange (u.x ra) (u.x rb) fun u l => u.merging l fun u => .fin (u.dropCopies l)

/-- `RINV` -/
def execRinv (sy : Sync) (ra rb : XReg) (s : State) :=
  s.runC sy 0 .both [ra, rb] fun u =>
    if u.x rb = 0 then .fin u.dropAllRo
    else u.onRange (u.x ra) (u.x rb) fun u l =>
      .fin (u.mapCore u.coreNo fun c => { c with roLines := c.roLines.filter fun e => !inPieces l e.1 })

/-- Removes the pieces from the L1I of every core, with what fetches that waited have got (R236). -/
def State.dropCode (s : State) (l : List PartPiece) : State :=
  let s := s.mapAll fun c =>
    if c.order.fetched.isEmpty then c
    else { c with order := { c.order with fetched := c.order.fetched.filter fun e => e.word.isNone } }
  { s with cores := Table.mapVals Core.init (fun c =>
      { c with icache := c.icache.filter fun e => !l.any fun p => decide (p.1 ≤ e.1 + 3) && decide (e.1 < p.1 + p.2.1) }) s.cores }

/-- `ICINV` -/
def execIcinv (sy : Sync) (ra rb : XReg) (s : State) :=
  s.runC sy 0 .both [ra, rb] fun u => u.onRange (u.x ra) (u.x rb) fun u l =>
    u.fenced (BitVec.allOnes 16) .device .nobody fun _ => .fin (u.dropCode l)

end Sys2Proof.Machine
end

