-- ==== Sys2Proof/Machine/Atomics.lean ====
section
/-!
DEFINITION. `AMO`, `CAS` and `RED` (12_atomics R277 to R284, R288, R289).
-/

namespace Sys2Proof.Machine

/-- An atomic may execute at a place (R277). -/
def Place.atomic (p : Place) : Bool := !p.device && decide (regionOf p.pa ≠ .host)

/-- Writes the value of an atomic. -/
def State.atomWrite (s : State) (p : Place) (n v : Nat) (cls : Fin 16) (posted : Bool) : State :=
  (s.writeAt s.dieNo p.pa (leBytes n v) p.key).note p.pa n cls posted

/-- A release of every class at a scope before the effect, when asked for (R270). -/
def State.released (s : State) (rel : Bool) (scope : Scope) (f : Unit → Eff) : Eff :=
  if rel then s.fenced (BitVec.allOnes 16) scope .release f else f ()

/-- The checks of R279, in their order; `f` goes on at the place. -/
def State.atomPlace (s : State) (a : Word) (n : Nat) (r : Bool) (f : Place → State → Eff) : Eff :=
  match s.locate a n r true with
  | (.error c, _) => .trap c a
  | (.ok p, u) => if p.atomic then f p u else .trap cPROT a

/-- The old value that an acquire has read is taken once the read has performed at the acquire's scope: while a write of the sector is
pending at its home, it has performed at DIE scope only (R267, R270). -/
def State.acquired (s : State) (p : Place) (wide : Bool) (d : Nat) (fin : Nat → State → State) : Eff :=
  if wide ∧ p.pa < hbmTop ∧ s.pendingAt (sectorOf p.pa) then .begin (s.mapOrder fun o => { o with result := some d })
  else .fin (fin d (s.mapOrder fun o => { o with result := none }))

/-- An atomic whose old value comes back: `req` is its request, `act` performs it now, `fin` takes the old value (R280, R281,
R289). -/
def State.atomRet (s : State) (a : Word) (n : Nat) (cls : Fin 16) (rel acq : Bool) (scope : Scope) (kind : ReqKind)
    (act : Place → State → Nat × State) (fin : Nat → State → State) : Eff :=
  match s.ctx.order.answer with
  | some (c, v) => .trap c v
  | none =>
    s.atomPlace a n true fun p u =>
      match u.ctx.order.result with
      | some d => u.acquired p (acq && wideScope scope) d fin
      | none =>
        if u.isSent p.pa then .begin u
        else u.released rel scope fun _ =>
          if !u.hasTokens p.pa n || u.atomParks p n then .begin (u.send (u.request p a cls kind))
          else if u.poisonedAt p.pa n then .trapAfter (fun t => t.pay p.pa n) cPOISON a
          else
            let r := act p (((u.pay p.pa n).rekey p.pa n p.key).cached p .atomic .default)
            r.2.acquired p (acq && wideScope scope) r.1 fin

/-- The die of a bank or of a home. -/
def dieOfPa (s : State) (pa : Nat) : Nat :=
  match regionOf pa with
  | .dsp d _ => d
  | .sp core _ => dieOfCore core
  | _ => homeDie s.mg.mode pa

/-- A posted atomic: `need` is what its completion waits for, `act` performs it now. At a bank, an uncorrectable word is reported as
for a posted access that a home dropped (R280, R282, R289). -/
def State.atomPost (s : State) (a : Word) (n : Nat) (r : Bool) (cls : Fin 16) (rel : Bool) (scope : Scope) (kind : ReqKind)
    (act : Place → State → State) : Eff :=
  s.atomPlace a n r fun p u =>
    u.released rel scope fun _ =>
      if !u.hasTokens p.pa n || u.atomParks p n then
        match kind with
        | .red .. =>
          let q := u.request p a cls kind
          .ok ((u.mapOrder fun o => { o with unregistered := q.serial :: o.unregistered }).send q) (.home q.serial)
        | _ => .fin (u.send (u.request p a cls kind))
      else if u.poisonedAt p.pa n then
        .fin ((u.mapCtx (·.event evInteg)).mapOrder fun o => { o with dropped := o.dropped ++ [⟨cPOISON, a, cls, dieOfPa u p.pa⟩] })
      else .fin (act p (((u.pay p.pa n).rekey p.pa n p.key).cached p .atomic .default))

/-- Performs an `AMO` at a place: the old value, and the state after. -/
def State.amoAt (s : State) (op : AmoOp) (n v : Nat) (cls : Fin 16) (posted : Bool) (p : Place) : Nat × State :=
  let (d, s) := s.atomRead p.pa n
  (d, s.atomWrite p n (amoNew op n d v) cls posted)

/-- `AMO` (R280) -/
def execAmo (sy : Sync) (op : AmoOp) (dbl : Bool) (cls : Fin 16) (scope : Scope) (ret acq rel : Bool) (rd ra rb : XReg)
    (s : State) :=
  s.runC sy 1 .both [ra, rb] fun u =>
    let n := atomBytes dbl
    let v := (u.x rb).toNat % 2 ^ (8 * n)
    if ret then
      u.atomRet (u.x ra) n cls rel acq scope (.amo op n v true) (fun p w => w.amoAt op n v cls false p)
        fun d w => w.setX rd (BitVec.ofNat 64 d)
    else u.atomPost (u.x ra) n true cls rel scope (.amo op n v false) fun p w => (w.amoAt op n v cls true p).2

/-- Performs a `CAS` at a place: a failing one is a read that the home answers (R264, R281). -/
def State.casAt (s : State) (n e v : Nat) (cls : Fin 16) (p : Place) : Nat × State :=
  let (d, s) := s.atomRead p.pa n
  (d, if d = e then s.atomWrite p n v cls false else (s.dropReplica s.dieNo (sectorOf p.pa)).note p.pa n cls false)

/-- `CAS` (R281) -/
def execCas (sy : Sync) (dbl : Bool) (cls : Fin 16) (scope : Scope) (acq rel : Bool) (rd ra rb : XReg) (s : State) :=
  s.runC sy 1 .both [rd, ra, rb] fun u =>
    let n := atomBytes dbl
    let e := (u.x rd).toNat % 2 ^ (8 * n)
    let v := (u.x rb).toNat % 2 ^ (8 * n)
    u.atomRet (u.x ra) n cls rel acq scope (.cas n e v) (fun p w => w.casAt n e v cls p) fun d w => w.setX rd (BitVec.ofNat 64 d)

/-- Performs a `RED` at a place: a reduction line in HBM, the bank unit elsewhere (R282). -/
def State.redAt (s : State) (op : RedOp) (dbl : Bool) (p : Place) (v : Nat) (cls : Fin 16) : State :=
  let n := atomBytes dbl
  if p.pa < hbmTop then (s.contribute s.coreNo op dbl p.pa (leBytes n v)).note p.pa n cls true
  else
    let (d, s) := s.atomRead p.pa n
    s.atomWrite p n (redNew op n d v) cls true

/-- `RED`: one to a further sector waits at its core while its partition's partials have no room (R282, R283). -/
def execRed (sy : Sync) (op : RedOp) (dbl : Bool) (cls : Fin 16) (ra rb : XReg) (s : State) :=
  s.runC sy 1 .both [ra, rb] fun u =>
    let n := atomBytes dbl
    let v := (u.x rb).toNat % 2 ^ (8 * n)
    let full : Bool := match (u.locate (u.x ra) n false true).1 with
      | .ok p => p.atomic && decide (p.pa < hbmTop) && !u.redRoom u.ctx.ident.part (sectorOf p.pa)
      | .error _ => false
    if full then .wait
    else u.atomPost (u.x ra) n false cls false .core (.red op dbl v) fun p w => w.redAt op dbl p v cls

end Sys2Proof.Machine
end

