-- ==== Sys2Proof/Machine/Barriers.lean ====
section
/-!
DEFINITION. Barrier descriptors and the barrier instructions (10_copy R244, R253 to R257).
-/

namespace Sys2Proof.Machine

/-- The physical address of `n` descriptor bytes at a local-window address in the own or cluster window;
`none` outside the bytes that R244 allows. -/
def State.descPlace (s : State) (a : Word) (n : Nat) : Option Nat :=
  if 2 ^ 56 ≤ a.toNat ∨ a.toNat / 2 ^ 48 < 0xFE then none
  else
    match s.windowPlace a.toNat n with
    | some (.ok p) => some p.pa
    | _ => none

/-- The window address of barrier `b` (R253). -/
def State.barAddr (s : State) (b : BReg) : Word := s.ctx.sys.barbase + BitVec.ofNat 64 (32 * b.val)

/-- A barrier descriptor's fields (R254). -/
structure Barrier where
  expected : Nat
  arrived : Nat
  zeroed : Nat
  flags : Nat
  flips : Nat

/-- Reads the descriptor at a physical address. -/
def Memory.barrier (m : Memory) (pa : Nat) : Barrier :=
  { expected := m.getLe pa 8, arrived := m.getLe (pa + 8) 8, zeroed := m.getLe (pa + 16) 4, flags := m.getLe (pa + 20) 4
    flips := m.getLe (pa + 24) 4 }

/-- Writes the fields that barrier events change. -/
def Memory.setBarrier (m : Memory) (pa : Nat) (d : Barrier) : Memory :=
  ((((m.setLe pa 8 d.expected).setLe (pa + 8) 8 d.arrived).setLe (pa + 16) 4 d.zeroed).setLe (pa + 20) 4 d.flags).setLe (pa + 24) 4 d.flips

/-- PHASE -/
def Barrier.phase (d : Barrier) : Bool := d.flags.testBit 0
/-- POSTED -/
def Barrier.posted (d : Barrier) : Bool := d.flags.testBit 1
/-- OVERFILL -/
def Barrier.overfill (d : Barrier) : Bool := d.flags.testBit 2

/-- `CheckFlip` (R255) -/
def Barrier.checkFlip (d : Barrier) : Barrier :=
  if d.posted ∧ d.arrived = d.expected then
    { d with flags := (d.flags ^^^ 1) - 2, flips := (d.flips + 1) % 2 ^ 32, expected := 0, arrived := 0 }
  else d

/-- `Arrive` and whether it raises BAROVER (R255). -/
def Barrier.arrive (d : Barrier) (n : Nat) : Barrier × Bool :=
  let d := { d with arrived := (d.arrived + n) % 2 ^ 64 }
  if d.overfill then (d, false)
  else if d.posted ∧ d.expected < d.arrived then ({ d with flags := d.flags + 4 }, true)
  else (d.checkFlip, false)

/-- `Expect`; `none` is BAROVER (R255). -/
def Barrier.expect (d : Barrier) (n : Nat) : Option Barrier :=
  if d.overfill ∨ d.expected + n < d.arrived then none
  else some { d with expected := (d.expected + n) % 2 ^ 64, flags := d.flags ||| 2 }.checkFlip

/-- The context whose SP window holds a physical address (R244, R257). -/
def State.windowOwner (s : State) (pa : Nat) : Option Ctx :=
  match regionOf pa with
  | .sp core o => s.resident.find? fun c =>
      decide (c.key.core.val = core) && decide (c.win.spBase ≤ o) && decide (o < c.win.spBase + c.win.spSize)
  | _ => none

/-- The own-window address of an SP byte for its owner. -/
def ownWindow (c : Ctx) (pa : Nat) : Word :=
  BitVec.ofNat 64 (0xFF * 2 ^ 48 + (pa - spPa c.key.core.val c.win.spBase))

/-- Counts an arrival at the descriptor at `pa`; BAROVER goes to the owner of the window (R255, R257). -/
def State.arriveAt (s : State) (pa n : Nat) : State :=
  let (d, beyond) := (s.mem.barrier pa).arrive n
  let s := { s with mem := s.mem.setBarrier pa d }
  if beyond then
    match s.windowOwner pa with
    | some c => s.mapKey c.key fun k => k.asyncTrap cBAROVER (ownWindow c pa ||| 0x8000000000000000)
    | none => s
  else s

/-- Adds to ZEROED, which saturates (R245, R254). -/
def State.addZeroed (s : State) (pa n : Nat) : State :=
  if n = 0 then s
  else
    let d := s.mem.barrier pa
    { s with mem := s.mem.setBarrier pa { d with zeroed := min (d.zeroed + n) (2 ^ 32 - 1) } }

/-- Runs an effect on a barrier's descriptor; outside its bytes it is PROT (R253). -/
def State.onBarrier (s : State) (b : BReg) (f : Nat → Eff) : Eff :=
  match s.descPlace (s.barAddr b) 32 with
  | none => .trap cPROT (s.barAddr b)
  | some pa => f pa

/-- `BINIT` (R256) -/
def execBinit (sy : Sync) (b : BReg) (s : State) :=
  s.runC sy 0 .both [] fun u => u.onBarrier b fun pa => .fin { u with mem := u.mem.setLe pa 32 0 }

/-- `BEXP` (R255, R256) -/
def execBexp (sy : Sync) (b : BReg) (ra : XReg) (s : State) :=
  s.runC sy 0 .both [ra] fun u => u.onBarrier b fun pa =>
    match (u.mem.barrier pa).expect (u.x ra).toNat with
    | none => .trap cBAROVER (u.barAddr b)
    | some d => .fin { u with mem := u.mem.setBarrier pa d }

/-- The scope of a descriptor: the own window is of the core, the cluster window of the cluster (R256). -/
def State.barScope (s : State) (b : BReg) : Scope := if (s.barAddr b).toNat / 2 ^ 48 = 0xFF then .core else .cluster

/-- `BARR`: a release of every class at the scope of the descriptor (R256, R270, R271). -/
def execBarr (sy : Sync) (b : BReg) (ra : XReg) (s : State) :=
  s.runC sy 0 .both [ra] fun u => u.onBarrier b fun pa =>
    u.fenced (BitVec.allOnes 16) (u.barScope b) .nobody fun _ => .fin (u.arriveAt pa (u.x ra).toNat)

/-- `BWAIT` (R256) -/
def execBwait (sy : Sync) (b : BReg) (k : Bool) (s : State) :=
  s.runC sy 0 .run [] fun u => u.onBarrier b fun pa => if (u.mem.barrier pa).phase = k then .wait else .fin u

/-- `BTEST` (R256) -/
def execBtest (sy : Sync) (pd : PReg) (b : BReg) (k : Bool) (s : State) :=
  s.runC sy 0 .run [] fun u => u.onBarrier b fun pa => .fin (u.setP .c pd (fillPred ((u.mem.barrier pa).phase != k)))

end Sys2Proof.Machine
end

