-- ==== Sys2Proof/Machine/Slots.lean ====
section
/-!
DEFINITION. Slot-ring descriptors and the SLOT instructions (10_copy R258 to R260).
-/

namespace Sys2Proof.Machine

/-- A ring descriptor (R258). -/
structure SlotRing where
  base : Nat
  logsize : Nat
  logcount : Nat
  bell : Nat
  pad : Bool
  res : Nat
  post : Nat
  acq : Nat
  rel : Nat
  overrun : Nat

/-- Reads the descriptor at a physical address; `pad` says that a must-be-zero field is nonzero. -/
def Memory.slotRing (m : Memory) (pa : Nat) : SlotRing :=
  let bell := m.getLe (pa + 10) 2
  { base := m.getLe pa 8, logsize := m.getLe (pa + 8) 1, logcount := m.getLe (pa + 9) 1, bell := bell
    pad := decide (bell / 2 ^ 12 % 8 ≠ 0) || decide (m.getLe (pa + 12) 4 ≠ 0) || decide (m.getLe (pa + 0x24) 28 ≠ 0)
    res := m.getLe (pa + 0x10) 4, post := m.getLe (pa + 0x14) 4, acq := m.getLe (pa + 0x18) 4, rel := m.getLe (pa + 0x1C) 4
    overrun := m.getLe (pa + 0x20) 4 }

/-- Slots of the ring. -/
def SlotRing.count (r : SlotRing) : Nat := 2 ^ r.logcount
/-- Bytes of a slot. -/
def SlotRing.size (r : SlotRing) : Nat := 2 ^ r.logsize
/-- `a − b` of two counters modulo 2^32. -/
def diff32 (a b : Nat) : Nat := (a + 2 ^ 32 - b % 2 ^ 32) % 2 ^ 32
/-- Free slots. -/
def SlotRing.free (r : SlotRing) : Nat := r.count - diff32 r.res r.rel
/-- Filled slots. -/
def SlotRing.filled (r : SlotRing) : Nat := diff32 r.post r.acq
/-- The local-window address of slot number `n`. -/
def SlotRing.addr (r : SlotRing) (n : Nat) : Nat := r.base + r.size * (n % r.count)
/-- The ring is bound to a doorbell (DBEN). -/
def SlotRing.dben (r : SlotRing) : Bool := r.bell.testBit 15
/-- Its doorbell. -/
def SlotRing.dbid (r : SlotRing) : Nat := r.bell % 2 ^ 12

/-- The window address of ring `sl` (R258). -/
def State.slotAddr (s : State) (sl : SlReg) : Word := s.ctx.sys.slbase + BitVec.ofNat 64 (64 * sl.val)

/-- The place of the slot array, when it lies in allowed bytes (R259). -/
def State.slotArray (s : State) (r : SlotRing) : Option Nat :=
  if 2 ^ 56 ≤ r.base then none
  else
    match s.windowPlace r.base (r.size * r.count) with
    | some (.ok p) => some p.pa
    | _ => none

/-- The descriptor keeps every limit of R259. -/
def State.ringOk (s : State) (r : SlotRing) : Bool :=
  decide (7 ≤ r.logsize) && decide (r.logsize ≤ 16) && decide (r.logcount ≤ 12) && decide (r.base % r.size = 0) && !r.pad &&
  (s.slotArray r).isSome

/-- SLOTOVR's value (R259). -/
def slotVal (sl : Nat) (reason : Nat) : Word := BitVec.ofNat 64 (reason * 2 ^ 8 + sl)

/-- The number under which a ring's doorbell is bound, if it is. -/
def State.boundBell (s : State) (pa : Nat) : Bool := s.ms.doorbells.any fun d => decide (d.2.2.1 = pa)

/-- A dependent copy command has still to reserve a slot of the ring at `pa`, or to acquire one, so that the next one waits (R195,
R261). -/
def State.slotOwed (s : State) (pa : Nat) : Bool :=
  s.resident.any fun c => (c.ld.flight ++ c.st.flight).any fun q => q.owes && decide (q.ringAddr = pa)

/-- Runs an effect on a ring's descriptor after its checks; `bound` allows a bound ring. -/
def State.onSlot (s : State) (sl : SlReg) (bound : Bool) (f : Nat → SlotRing → Eff) : Eff :=
  match s.descPlace (s.slotAddr sl) 64 with
  | none => .trap cPROT (s.slotAddr sl)
  | some pa =>
    let r := s.mem.slotRing pa
    if !s.ringOk r then .trap cSLOTOVR (slotVal sl.val 5)
    else if !bound ∧ s.boundBell pa then .trap cSLOTOVR (slotVal sl.val 3)
    else f pa r

/-- A copy command in flight of any context holds slot number `n` of the ring at `pa`, for a post or for a
release: an older slot must be done first (R258). -/
def State.slotHeld (s : State) (pa n : Nat) (post : Bool) : Bool :=
  let hit (q : CopyCmd) : Bool :=
    !q.done && decide (q.ringAddr = pa) && decide (q.slot = n) &&
      (match q.kind with
       | .slotIn => post
       | .slotOut => !post
       | _ => false)
  s.resident.any fun c => c.ld.flight.any hit || c.st.flight.any hit

/-- Writes a 32-bit counter of a descriptor. -/
def State.setCount (s : State) (pa off v : Nat) : State := { s with mem := s.mem.setLe (pa + off) 4 v }

/-- `SLRES` (R259) -/
def execSlres (sy : Sync) (rd : XReg) (sl : SlReg) (s : State) :=
  s.runC sy 0 .both [] fun u => u.onSlot sl false fun pa r =>
    if r.free = 0 ∨ u.slotOwed pa then .wait
    else .fin ((u.setCount pa 0x10 (r.res + 1)).setX rd (BitVec.ofNat 64 (r.addr r.res)))

/-- `SLPOST` (R259) -/
def execSlpost (sy : Sync) (sl : SlReg) (s : State) :=
  s.runC sy 0 .both [] fun u => u.onSlot sl false fun pa r =>
    if r.res = r.post then .trap cSLOTOVR (slotVal sl.val 1)
    else if u.slotHeld pa r.post true then .wait
    else .fin (u.setCount pa 0x14 (r.post + 1))

/-- A member of the partition that is saved keeps a ring bound to the doorbell: the binding lasts until its task ends (R260). -/
def State.keptBell (s : State) (p : Part) (db : Nat) : Bool :=
  s.nodes.any fun n => decide (n.part = p) && n.teams.any fun t => t.members.any fun m =>
    match m with
    | .saved k => k.bells.any fun b => decide (b.db = db)
    | _ => false

/-- Binds the ring's doorbell at the owner's first `SLACQ`; the answer is the reason of a SLOTOVR, if any (R260). -/
def State.bindBell (s : State) (pa : Nat) (r : SlotRing) : Except Nat State :=
  let owner := s.windowOwner pa
  if !r.dben ∨ s.boundBell pa ∨ ¬ (owner.any fun c => decide (c.key = s.ctx.key)) then .ok s
  else if (s.ms.doorbells.any fun d => decide (d.1 = s.ctx.ident.part) && decide (d.2.1 = r.dbid)) ||
      s.keptBell s.ctx.ident.part r.dbid then .error 4
  else
    let own : Bool := match s.slotArray r with
      | some a => (s.windowOwner a).any fun c => decide (c.key = s.ctx.key)
      | none => false
    if own then .ok (s.mapMs fun m => { m with doorbells := (s.ctx.ident.part, r.dbid, pa, s.ctx.key) :: m.doorbells })
    else .error 5

/-- `SLACQ` (R259, R260) -/
def execSlacq (sy : Sync) (rd : XReg) (sl : SlReg) (s : State) :=
  s.runC sy 0 .both [] fun u => u.onSlot sl true fun pa r =>
    match u.bindBell pa r with
    | .error k => .trap cSLOTOVR (slotVal sl.val k)
    | .ok w =>
      if r.filled = 0 ∨ u.slotOwed pa then .stay fun t =>
          match t.bindBell pa r with
          | .ok t => t
          | .error _ => t
      else .fin ((w.setCount pa 0x18 (r.acq + 1)).setX rd (BitVec.ofNat 64 (r.addr r.acq)))

/-- `SLREL` (R259) -/
def execSlrel (sy : Sync) (sl : SlReg) (s : State) :=
  s.runC sy 0 .both [] fun u => u.onSlot sl true fun pa r =>
    if r.acq = r.rel then .trap cSLOTOVR (slotVal sl.val 2)
    else if u.slotHeld pa r.rel false then .wait
    else .fin (u.setCount pa 0x1C (r.rel + 1))

end Sys2Proof.Machine
end

