-- ==== Sys2Proof/Machine/Fold.lean ====
section
/-!
DEFINITION. Folds: `CBR`, `CLEAVE`, `CQUERY` and `GSIG`, and the steps that carry contributions, results,
departures and timeouts (04_tasks R88, 13_collectives R292 to R306).
-/

namespace Sys2Proof.Machine

/-! ## Contributing (R295 to R298) -/

/-- The op's code. -/
def cbrCode : CbrOp → Nat
  | .any => 0 | .all => 1 | .maj => 2

/-- A site: the kind, and pc[15:0] (R297). -/
def siteOf (kind : Nat) (pc : Word) : Site := BitVec.ofNat 18 (kind * 2 ^ 16 + pc.toNat % 2 ^ 16)

/-- The member's group, as the package knows it. -/
def State.myGroup (s : State) : Option Group := s.group s.ctx.ident.part s.ctx.launch.group

/-- TRAPVAL of the collective traps: reason, fold and low word (R305). -/
def collVal (reason : Nat) (seq : BitVec 16) (low : Nat) : Word :=
  BitVec.ofNat 64 (reason * 2 ^ 48 + seq.toNat * 2 ^ 32 + low)

/-- COLLTIMEOUT with a reason (R305). -/
def collTimeout (reason : Nat) (seq : BitVec 16) (site : Site) : FoldRes :=
  .trap cCOLLTIMEOUT (collVal reason seq (site.toNat % 2 ^ 16))

/-- COLLSITE for a member whose own site is `own` (R305). -/
def collSite (seq : BitVec 16) (first own : Site) : FoldRes :=
  .trap cCOLLSITE (collVal 0 seq (first.toNat % 2 ^ 16 * 2 ^ 16 + own.toNat % 2 ^ 16))

/-- BrokenCause(k) (R296). -/
def Group.brokenCause (g : Group) (k : BitVec 16) (own : Site) : FoldRes :=
  match g.badSite with
  | some (q, first) => if q = k then collSite k first own else collTimeout 2 k own
  | none => collTimeout 2 k own

/-- The fold instance with a sequence number. -/
def Group.inst (g : Group) (k : BitVec 16) : Option FoldInst := g.folds.find? fun f => f.seq = k

/-- A fold instance of which only contributions at their dies are known. -/
def FoldInst.fresh (k : BitVec 16) (site : Site) (hash : BitVec 32) (atDie : List Vote) : FoldInst :=
  { seq := k, site := site, hash := hash, votes := [], atDie := atDie, far := [], sent := [], peers := [], result := none }

/-- A contribution reaches its die's fold unit; a copy of one already held is dropped (R298, R306). -/
def Group.offer (g : Group) (k : BitVec 16) (v : Vote) : Group :=
  match g.inst k with
  | some f =>
    if f.heard v.member then g
    else { g with folds := g.folds.map fun q => if q.seq = k then { q with atDie := q.atDie ++ [v] } else q }
  | none =>
    { g with folds := g.folds ++ [FoldInst.fresh k v.site v.hash [v]] }

/-- The member starts its next fold and sends its contribution (R296, R297). -/
def State.startFold (s : State) (f : Fold) (c : Bool) (hash : BitVec 32) : State :=
  let s := s.mapC fun r => { r with foldSeq := f.seq }
  let s := s.mapColl fun q => { q with fold := some f }
  s.mapGroup s.ctx.ident.part s.ctx.launch.group fun g =>
    g.offer f.seq { member := s.ctx.memberIx, die := s.dieNo, val := c, site := f.site, hash := hash }

/-- The contribution of a `CBR` (R295). -/
def State.contribution (s : State) (op : CbrOp) (p : PReg) : Bool :=
  match op with
  | .all => s.allActive p
  | _ => s.anyActive p

/-! ## Prediction (R300) -/

/-- The prediction for a site. -/
def CollSt.guess (c : CollSt) (site : Site) (hint : Bool) : Bool :=
  match c.predict.find? fun e => e.1 = site.toNat / 4 % 256 with
  | some (_, tag, b) => if tag.toNat = site.toNat / 2 ^ 10 % 64 then b else hint
  | none => hint

/-- The table with an outcome written. -/
def CollSt.learn (c : CollSt) (site : Site) (b : Bool) : CollSt :=
  let ix := site.toNat / 4 % 256
  { c with predict := (ix, BitVec.ofNat 6 (site.toNat / 2 ^ 10), b) :: c.predict.filter fun e => e.1 ≠ ix }

/-! ## CBR (R295, R296, R301) -/

/-- The outcome of the member's last completed fold is kept (R294). -/
def CollSt.finish (c : CollSt) (f : Fold) (b : Bool) (departed : Nat) : CollSt :=
  { c with fold := none, last := b, departed := departed, site := f.site.setWidth 16 }

/-- The fold of a `CBR` at `pc` that goes to `target` or `fall`. -/
def State.newFold (s : State) (kind : Nat) (target fall : Word) (coll : Option (BitVec 16)) : Fold :=
  { seq := s.ctx.c.foldSeq + 1, site := siteOf kind s.cpc, pc := s.cpc, target := target, fall := fall, guess := none
    since := s.nstime, coll := coll, res := none }

/-- Opens a speculation epoch at the `CBR`, whose pops are taken (R296, R301). -/
def State.speculate (s : State) (sy : Sync) (f : Fold) (g : Bool) : State :=
  let s := s.mapColl fun q => { q with fold := some { f with guess := some g } }
  let s := s.mapStr .c fun x => { x with held := if sy.wp || sy.wn then some (sy.wp, sy.wn, .clean) else none }
  let n := s.ctx.snap .c s.serial
  s.tick.mapCtx fun c => { c with spec := some (Epoch.fresh.take .c n) }

/-- What the package unit answers the member whose fold is `f`: the open instance's result, or the last
completed outcome (R298, R306). -/
def State.foldAnswer (s : State) (f : Fold) : Option (Bool × Nat) :=
  match s.myGroup with
  | none => none
  | some g =>
    match g.inst f.seq with
    | some i => i.result
    | none =>
      match g.last with
      | some (k, b, d) => if k = f.seq then some (b, d) else none
      | none => none

/-- The hash of the acting member's exchange `k`. -/
def State.hashOf (s : State) (k : BitVec 16) : Nat := ((s.ctx.coll.exchanges.find? fun x => decide (x.seq = k)).map (·.hash.toNat)).getD 0

/-- The trap that ends the member's wait for its fold, if one is due (R293, R297, R305, R313): none while an answer awaits it. -/
def State.foldTrap (s : State) : Option (BitVec 8 × Word) :=
  if s.ctx.ver.isSome ∨ s.ctx.spec.isSome then none
  else
    let of (r : FoldRes) : Option (BitVec 8 × Word) :=
      match r with
      | .trap c v => some (c, v)
      | .result _ _ => none
    match s.ctx.coll.fold with
    | none => none
    | some f =>
      match f.res with
      | some r => of r
      | none =>
        if (s.foldAnswer f).isSome then none
        else (s.myGroup.filter (·.broken)).bind fun g =>
          if g.badShape = some f.seq ∧ f.coll.isSome then some (cCOLLSHAPE, collVal 0 f.seq (s.hashOf f.seq))
          else of (g.brokenCause f.seq f.site)

/-- A fold returns to its member: its outcome is kept, and an exchange that it started moves (R294, R308). -/
def CollSt.returned (c : CollSt) (f : Fold) (b : Bool) (departed : Nat) : CollSt :=
  let c := c.finish f b departed
  { c with exchanges := c.exchanges.map fun x => if f.coll = some x.seq then { x with moving := true } else x }

/-- The member's fold in flight belongs to another instruction than the one at the pc: that instruction waits for it. -/
def Fold.other (f : Fold) : Eff :=
  match f.res with
  | some (.result b d) => .stay fun t => t.mapColl fun q => q.returned f b d
  | _ => .wait

/-- A started fold of the `CBR` goes on: its result, a prediction, or a wait. -/
def State.followFold (s : State) (sy : Sync) (f : Fold) (target fall : Word) (hint : Bool) : Eff :=
  match f.res with
  | some (.result b d) => .jump (s.mapColl fun q => (q.finish f b d).learn f.site b) (if b then target else fall) .now
  | some (.trap _ _) => .wait
  | none =>
    if s.ctx.launch.spec then
      let g := s.ctx.coll.guess f.site hint
      .jump (s.speculate sy { f with target := target, fall := fall } g) (if g then target else fall) .fold
    else .wait

/-- `CBR`'s effect (R296). -/
def State.cbr (s : State) (sy : Sync) (op : CbrOp) (hint : Bool) (p : PReg) (target fall : Word) : Eff :=
  if s.ctx.ver.isSome ∨ s.ctx.spec.isSome then .wait
  else if s.ctx.launch.group = 0 ∨ s.ctx.c.left then
    let c := s.contribution op p
    .jump s (if c then target else fall) .now
  else
    match s.ctx.coll.fold with
    | some f => if f.pc = s.cpc then s.followFold sy f target fall hint else f.other
    | none =>
      let f := s.newFold (cbrCode op) target fall none
      match s.myGroup.filter (·.broken) with
      | some g =>
        match g.brokenCause f.seq f.site with
        | .trap c v => .trap c v
        | .result _ _ => .wait
      | none =>
        let start (t : State) : State := t.startFold f (t.contribution op p) 0
        if s.ctx.launch.spec then (start s).followFold sy f target fall hint else .begin (start s)

/-! ## CLEAVE, CQUERY, GSIG (R294, R88) -/

/-- `CLEAVE` -/
def execCleave (sy : Sync) (s : State) :=
  s.runC sy 0 .both [] fun u =>
    if u.ctx.spec.isSome then .wait
    else if u.ctx.launch.group = 0 ∨ u.ctx.c.left then .fin u
    else
      let go (w : State) : Eff :=
        .fin ((w.depart w.ctx.ident.part w.ctx.launch.group w.ctx.memberIx).mapC fun c => { c with left := true })
      match u.ctx.coll.fold with
      | none => go u
      | some f =>
        match f.res with
        | none => .wait
        | some (.result b d) => go (u.mapColl fun q => (q.finish f b d).learn f.site b)
        | some (.trap _ _) => go (u.mapColl fun q => { q with fold := none })

/-- The snapshot of `CQUERY` (R294). -/
def State.cquery (s : State) : Word :=
  if s.ctx.launch.group = 0 then 0
  else
    let q := s.ctx.coll
    let broken := s.myGroup.any (·.broken)
    BitVec.ofNat 64 (bitOf broken * 2 ^ 63 + bitOf s.ctx.c.left * 2 ^ 62 + bitOf q.fold.isSome * 2 ^ 61 + bitOf q.last * 2 ^ 60 +
      min q.departed (2 ^ 28 - 1) * 2 ^ 32 + q.site.toNat * 2 ^ 16 + s.ctx.c.foldSeq.toNat)

/-- `CQUERY` -/
def execCquery (sy : Sync) (rd : XReg) (s : State) := s.runX sy 0 .run rd [] fun u => u.cquery

/-- `GSIG` (R88) -/
def execGsig (sy : Sync) (ra : XReg) (s : State) :=
  s.runC sy 0 .both [ra] fun u =>
    u.fenced (BitVec.allOnes 16) .system .fence fun _ => .fin (u.signal u.ctx.ident.part ((u.x ra).setWidth 32) 1)

/-! ## Steps of the fold units -/

/-- A member waits for fold `k` of a group. -/
def Ctx.inFold (c : Ctx) (p : Part) (id k : BitVec 16) : Bool :=
  c.live && decide (c.ident.part = p) && decide (c.launch.group = id) && c.coll.fold.any fun f => decide (f.seq = k)

/-- The acting member goes back to its `CBR` (R304 to R306): its fold stays as it stands, and the pushes of the `CBR`, which has not
completed, are made when it does. -/
def State.backToCbr (s : State) : State :=
  if s.ctx.spec.isNone then s
  else
    let q := s.ctx.c.foldSeq
    (s.undoSpec.mapC fun c => { c with foldSeq := q }).mapStr .c fun x =>
      { x with pushes := x.pushes.filter fun p => decide (p.need ≠ .fold) }

/-- Ends the acting member's wait for its fold with a trap, after a rollback. -/
def State.failFold (s : State) (r : Fold → FoldRes) : State :=
  s.backToCbr.mapColl fun q => { q with fold := q.fold.map fun f => { f with res := some (r f) } }

/-- Does something to each member that waits for fold `k`. -/
def State.eachInFold (s : State) (p : Part) (id k : BitVec 16) (f : State → State) : State :=
  ((s.resident.filter fun c => c.inFold p id k).map (·.key)).foldl (fun s key => s.on key f) s

/-- The packages of a group, other than this one; none while this package has no id (R362). -/
def State.packages (s : State) (g : Group) : List (BitVec 16) :=
  if s.mg.pkgid = 0xFFFF then []
  else ((List.range g.size).map (Config.packageOf g.id)).eraseDups.filter fun p => decide (p ≠ s.mg.pkgid)

/-- The port by which a package is reached: the table of routes that the tray has loaded (R362). -/
def State.routeTo (s : State) (peer : BitVec 16) : Option (Fin 12) := (s.mg.routes.find? fun r => decide (r.pkg = peer)).map (·.port)

/-- Hands a frame to the port of its peer; none goes to a package without a route, or where the port's die is dead (R350, R362). -/
def State.transmit (s : State) (peer : BitVec 16) (seq : BitVec 32) (m : ScaleMsg) : State :=
  match s.routeTo peer with
  | some p =>
    if s.mg.deadDies.contains (p.val / 2) then s
    else { s with net := { s.net with frames := s.net.frames ++ [⟨p, s.net.etherType, peer, seq, m⟩] } }
  | none => s

/-- Sends a message to a peer package under the next number: it is resent until it is acknowledged (R362). -/
def State.sendPeer (s : State) (peer : BitVec 16) (m : ScaleMsg) : State :=
  let q : Peer := (s.net.peers.find? fun q => q.id = peer).getD { id := peer, nextSend := 0, nextRecv := 0, unacked := [] }
  let u := { q with nextSend := q.nextSend + 1, unacked := q.unacked ++ [(q.nextSend, s.nstime, m)] }
  { s with net := { s.net with peers := u :: s.net.peers.filter fun r => r.id ≠ peer } }.transmit peer q.nextSend m

/-- Tells the other packages of a group that an instance stops (R297, R305, R313). -/
def State.tellStop (s : State) (p : Part) (id k : BitVec 16) (why : Stop) : State :=
  match s.group p id with
  | some g => (s.packages g).foldl (fun s q => s.sendPeer q (.stop id k why)) s
  | none => s

/-- Contributions to fold `k` carry sites that differ: the group breaks, and every member in that fold takes COLLSITE (R297). -/
def State.siteFault (s : State) (p : Part) (id k : BitVec 16) (first : Site) : State :=
  let s := s.mapGroup p id fun g =>
    { g with broken := true, badSite := if g.badSite.isSome then g.badSite else some (k, first) }
  s.eachInFold p id k fun t => t.failFold fun own => collSite k first own.site

/-- The members of a group take the end of exchange `k` when they can (R312 to R314). -/
def Group.endExchange (g : Group) (k : BitVec 16) (who : List Nat) (why : ExchangeEnd) : Group :=
  let who := who.filter fun m => decide (m < g.size) && !g.departed.contains m
  if g.ended.any fun e => decide (e.1 = k) then g else { g with ended := g.ended ++ [(k, who, why)] }

/-- Contributions to fold `k`, or the packets of its exchange, carry hashes that differ: the group breaks, and every member of the
`XCOLL` takes COLLSHAPE. Where packets show it, the fold has returned with the hash given: members whose exchange moves or is over take an
asynchronous trap (R313). -/
def State.shapeFault (s : State) (p : Part) (id k : BitVec 16) (hash : Option (BitVec 32)) : State :=
  let waiting := (s.contexts.filter fun c => c.inFold p id k).map (·.memberIx)
  let s := s.mapGroup p id fun g =>
    let g := { g with broken := true }
    match hash with
    | some h => g.endExchange k ((List.range g.size).filter fun m => !waiting.contains m) (.shape h)
    | none => { g with badShape := if g.badShape.isSome then g.badShape else some k }
  s.eachInFold p id k fun t => t.failFold fun f => .trap cCOLLSHAPE (collVal 0 f.seq (t.hashOf k))

/-- The package unit counts contributions of fold `k`, of its own members or of another package's: another site breaks the group, another
hash too (R297, R313). -/
def State.countVotes (s : State) (p : Part) (id : BitVec 16) (k : BitVec 16) (site : Site) (hash : BitVec 32)
    (upd : FoldInst → FoldInst) : State :=
  match (s.group p id).bind (·.inst k) with
  | none => s
  | some f =>
    let f := if f.votes.isEmpty ∧ f.far.isEmpty then { f with site := site, hash := hash } else f
    let s := s.mapGroup p id fun g => { g with folds := g.folds.map fun q => if q.seq = k then upd f else q }
    if f.site ≠ site then (s.siteFault p id k f.site).tellStop p id k (.site f.site)
    else if f.hash ≠ hash then (s.shapeFault p id k none).tellStop p id k (.shape f.hash)
    else s.mapGroup p id Group.settle

/-- The package unit counts a contribution of a member here. -/
def State.countVote (s : State) (p : Part) (id : BitVec 16) (k : BitVec 16) (v : Vote) : State :=
  s.countVotes p id k v.site v.hash fun f =>
    { f with atDie := f.atDie.filter (fun q => q.member ≠ v.member), votes := f.votes ++ [(v.member, v.val)] }

/-- The contributions that wait at a die: partition, group, fold and contribution. -/
def State.votesAt (s : State) (die : Nat) : List (Part × BitVec 16 × BitVec 16 × Vote) :=
  ((s.groups.map fun g => (g.folds.map fun f =>
    ((f.atDie.filter fun v => v.die = die).map fun v => (g.part, g.id, f.seq, v))).flatten)).flatten

/-- A member of the group here is queued or swapped out (R305). -/
def State.standsStill (s : State) (p : Part) (id : BitVec 16) : Bool :=
  s.nodes.any fun n => decide (n.part = p) && decide (n.launch.group = id) &&
    n.teams.any fun t => t.queued || t.members.any fun m =>
      match m with
      | .saved _ => true
      | _ => false

/-- Departed members that the group's other packages are to know of; one whose contribution waits at its die is told of behind it
(R292). -/
def Group.untold (g : Group) : List Nat :=
  g.departed.filter fun m => !g.told.contains m && !g.folds.any fun f => f.atDie.any fun v => decide (v.member = m)

/-- The fold messages of a group that are due: partials on their way to the package of member 0, results to the packages that sent
partials, departures to every package of the group, and whether a member here stands still, where that has changed (R292, R298, R305). -/
def State.messages (s : State) (g : Group) : List (BitVec 16 × ScaleMsg) :=
  if s.mg.pkgid = 0xFFFF then []
  else
    let still := s.standsStill g.part g.id
    let home := Config.packageOf g.id 0
    let fresh (f : FoldInst) : List (Nat × Bool) := f.votes.filter fun v => !f.sent.contains v.1
    let partials := if g.first ∨ home = s.mg.pkgid then []
      else (g.folds.filter fun f => f.result.isNone && !(fresh f).isEmpty).map fun f =>
        (home, ScaleMsg.fold g.id f.seq f.site f.hash (fresh f) still)
    let results := g.folds.flatMap fun f =>
      match f.result with
      | some (r, d) => f.peers.map fun p => (p, ScaleMsg.result g.id f.seq r d still)
      | none => []
    let gone := g.untold.flatMap fun m => (s.packages g).map fun p => (p, ScaleMsg.departed g.id m still)
    let news := if g.toldStill = still then [] else (s.packages g).map fun p => (p, ScaleMsg.still g.id still)
    partials ++ results ++ gone ++ news

/-- The group with its messages sent. -/
def Group.messaged (g : Group) (still : Bool) : Group :=
  { g with told := g.told ++ g.untold, toldStill := still
           folds := g.folds.map fun f => { f with sent := f.votes.map (·.1), peers := if f.result.isSome then [] else f.peers } }

/-- Some group has a fold message to send. -/
def State.mustTell (s : State) : Bool := s.groups.any fun g => !(s.messages g).isEmpty

/-- Sends every fold message that is due. -/
def State.tell (s : State) : State :=
  if !s.mustTell then s
  else
    let t := (s.groups.flatMap s.messages).foldl (fun s e => s.sendPeer e.1 e.2) s
    { t with groups := t.groups.map fun g => g.messaged (s.standsStill g.part g.id) }

/-- `FOLD_CONTRIBUTION`: a die's fold unit sends its partials to the package unit (R298). -/
def execFoldContribution (die : Die) (s : State) :=
  s.event true fun t => ((t.votesAt die.val).foldl (fun t e => t.countVote e.1 e.2.1 e.2.2.1 e.2.2.2) t).tell

/-- What a package keeps of a group whose entry it frees while members elsewhere have not departed: who has departed, and that the group
is broken (R292, R293; log entry 60). -/
def State.remember (s : State) (g : Group) : Option Absent :=
  if (s.packages g).isEmpty ∨ (List.range g.size).all g.departed.contains then none
  else
    let gone := g.departed.map fun m => (s.mg.pkgid, ScaleMsg.departed g.id m false)
    let stop := if !g.broken then [] else
      match g.badSite with
      | some (k, first) => [(s.mg.pkgid, ScaleMsg.stop g.id k (.site first))]
      | none => [(s.mg.pkgid, ScaleMsg.stop g.id 0 .timer)]
    some { id := g.id, size := some g.size, heard := gone ++ stop }

/-- Frees the entries of groups with no live node on the package (R292), once the contributions and departures that they hold have been
sent. -/
def State.freeGroups (s : State) : State :=
  let lives (g : Group) : Bool := s.nodes.any fun n => decide (n.part = g.part) && decide (n.launch.group = g.id)
  let ending := s.groups.filter fun g => !lives g
  if ending.isEmpty then s
  else
    let votes := ending.flatMap fun g => g.folds.flatMap fun f => f.atDie.map fun v => (g.part, g.id, f.seq, v)
    let s := (votes.foldl (fun t e => t.countVote e.1 e.2.1 e.2.2.1 e.2.2.2) s).tell
    let kept := (s.groups.filter fun g => !lives g).filterMap s.remember
    { s with groups := s.groups.filter lives, net := { s.net with absent := s.net.absent ++ kept } }

/-- Fold instances that every member has taken go; the last outcome stays (R298). -/
def State.dropFolds (s : State) (p : Part) (id : BitVec 16) : State :=
  s.mapGroup p id fun g => { g with folds := g.folds.filter fun f =>
    f.result.isNone || !f.peers.isEmpty || s.contexts.any fun c => c.inFold p id f.seq }

/-- The acting member learns its fold's result: the verdict of a speculation (R296, R304). -/
def State.takeFold (s : State) (f : Fold) (b : Bool) (d : Nat) : State :=
  match f.guess, s.ctx.spec with
  | some g, some _ =>
    if g = b then
      (s.mapColl fun q => (q.finish f b d).learn f.site b).closeEpoch true
    else
      let q := s.ctx.c.foldSeq
      let s := s.undoSpec
      let s := s.mapC fun c => { c with foldSeq := q }
      let s := s.mapColl fun q => (q.finish f b d).learn f.site b
      (s.mapStr .c fun x => { x with pc := if b then f.target else f.fall, held := none }).mapCtx Ctx.settle
  | _, _ => s.mapColl fun q => { q with fold := some { f with res := some (.result b d) } }

/-- The acting member's fold has an answer to take. -/
def State.foldReady (s : State) : Option (Fold × Bool × Nat) :=
  match s.ctx.coll.fold with
  | some f => if f.res.isSome then none else (s.foldAnswer f).map fun r => (f, r.1, r.2)
  | none => none

/-- `FOLD_RESULT` (R296, R304) -/
def execFoldResult (k : CtxKey) (s : State) :=
  s.eventOn k fun t =>
    match t.foldReady with
    | some (f, b, d) => (t.takeFold f b d).dropFolds t.ctx.ident.part t.ctx.launch.group
    | none => t

/-- A departure known from elsewhere, which the group's other packages know too (R292). -/
def State.departFar (s : State) (p : Part) (id : BitVec 16) (m : Nat) : State :=
  (s.mapGroup p id fun g => { g with told := if g.departed.contains m then g.told else m :: g.told }).depart p id m

/-- `DEPARTURE`: a departure known from elsewhere reaches the fold units of the groups with the id (R292). -/
def execDeparture (grp : BitVec 16) (member : Nat) (s : State) :=
  s.event true fun t =>
    ((t.groups.filter fun g => decide (g.id = grp) && decide (member < g.size)).foldl (fun t g => t.departFar g.part grp member) t).tell

/-! ## Timeouts (R305) -/

/-- The group timeout of a context in nanoseconds. -/
def Launch.foldTimeout (l : Launch) : Nat := if l.timeout = 0 then 10000000 else l.timeout

/-- A member of the group, here or on another package, is queued or swapped out, so that its timers stand still (R305). -/
def State.groupStill (s : State) (p : Part) (id : BitVec 16) : Bool :=
  s.standsStill p id || (s.group p id).any fun g => !g.still.isEmpty

/-- The acting member's fold has waited its group timeout. -/
def State.foldLapsed (s : State) : Option Fold :=
  match s.ctx.coll.fold with
  | some f =>
    if f.res.isNone ∧ f.since + s.ctx.launch.foldTimeout ≤ s.nstime ∧
        ¬ s.groupStill s.ctx.ident.part s.ctx.launch.group then some f else none
  | none => none

/-- The group breaks: every member waiting for fold `k` goes back to its instruction and takes COLLTIMEOUT
with a reason (R305). -/
def State.breakGroup (s : State) (p : Part) (id : BitVec 16) (k : BitVec 16) (reason : Nat) : State :=
  (s.mapGroup p id fun g => { g with broken := true }).eachInFold p id k fun t =>
    t.failFold fun f => collTimeout reason f.seq f.site

end Sys2Proof.Machine
end

