-- ==== Sys2Proof/Machine/Power.lean ====
section
/-!
DEFINITION. Clock ratios, the power prediction, Praline's grants, locks, and the bandwidth buckets' refills
(14_clocks R315 to R327).
-/

namespace Sys2Proof.Machine

/-! ## Grants and the prediction (R315, R317) -/

/-- Nibbles of every island: MX and VX by cluster, NET and MEM by die. -/
structure Grants where
  mx : Nat → Nat
  vx : Nat → Nat
  net : Nat → Nat
  mem : Nat → Nat

/-- A four-nibble grant: MX, VX, NET, MEM. -/
structure Grant where
  mx : Nat
  vx : Nat
  net : Nat
  mem : Nat

/-- The grant in 16 bits (R315). -/
def Grant.pack (g : Grant) : BitVec 16 := BitVec.ofNat 16 (g.mx + 16 * g.vx + 256 * g.net + 4096 * g.mem)

/-- The grant of 16 bits. -/
def Grant.ofBits (b : Nat) : Grant := ⟨b % 16, b / 16 % 16, b / 256 % 16, b / 4096 % 16⟩

/-- The larger nibble of each domain. -/
def Grant.max (a b : Grant) : Grant := ⟨Nat.max a.mx b.mx, Nat.max a.vx b.vx, Nat.max a.net b.net, Nat.max a.mem b.mem⟩

/-- What every island runs at now. -/
def State.grants (s : State) : Grants :=
  { mx := fun c => (s.island c).mx.toNat, vx := fun c => (s.island c).vx.toNat
    net := fun d => (s.pw.net.toList.getD d 0).toNat, mem := fun d => (s.pw.mem.toList.getD d 0).toNat }

/-- Cost of a cluster. -/
def PowerTable.cluster (t : PowerTable) (g : Grants) (c : Nat) : Nat :=
  Table.get 0 t.mx (16 * c + g.mx c) + Table.get 0 t.vx (16 * c + g.vx c)

/-- Cost of a die's NET and MEM. -/
def PowerTable.die (t : PowerTable) (g : Grants) (d : Nat) : Nat :=
  Table.get 0 t.net (16 * d + g.net d) + Table.get 0 t.mem (16 * d + g.mem d)

/-- The sum of a cost over a list. -/
def sumOver (l : List Nat) (f : Nat → Nat) : Nat := l.foldl (fun a x => a + f x) 0

/-- Cost of a die's islands. -/
def PowerTable.dieIslands (t : PowerTable) (g : Grants) (d : Nat) : Nat :=
  t.die g d + sumOver (List.range 16) fun k => t.cluster g (16 * d + k)

/-- Every island at nibble 15. -/
def Grants.full : Grants := ⟨fun _ => 15, fun _ => 15, fun _ => 15, fun _ => 15⟩

/-- Every island at nibble 0. -/
def Grants.zero : Grants := ⟨fun _ => 0, fun _ => 0, fun _ => 0, fun _ => 0⟩

/-- Clusters of a partition on a die. -/
def Partition.onDie (q : Partition) (d : Nat) : Nat := ((List.range 16).filter fun k => q.ownsCluster (16 * d + k)).length

/-- Sixteen times what a set of grants costs a partition. -/
def PowerTable.partCost (t : PowerTable) (g : Grants) (q : Partition) : Nat :=
  16 * sumOver ((List.range 96).filter q.ownsCluster) (t.cluster g) + sumOver (List.range 6) fun d => q.onDie d * t.die g d

/-- A partition's power share in watts; 0 means the whole cap (R360). -/
def State.shareOf (s : State) (q : Partition) : Nat := if q.powerShare = 0 then s.pw.cap else q.powerShare

/-- A set of grants fits (R317). -/
def State.fits (s : State) (g : Grants) : Bool :=
  let t := s.pw.table
  decide (t.fixed + sumOver (List.range 6) (t.dieIslands g) ≤ s.pw.cap * 1000) &&
  s.parts.all (fun q => decide (t.partCost g q ≤ 16 * s.shareOf q * 1000)) &&
  (List.range 6).all fun d =>
    match s.pw.limit.toList.getD d none with
    | some l => decide (t.dieIslands g d * 100 ≤ l * t.dieIslands .full d)
    | none => true

/-! ## Teams -/

/-- A resident team: its node and place, its clusters, and what its launch asks for. -/
structure Resident where
  part : Part
  node : BitVec 32
  team : Nat
  level : Nat
  placed : Nat
  clusters : List Nat
  request : Grant
  floor : Grant
  weight : Grant
  grant : Grant

/-- Clusters of a team's resident members. -/
def Team.clusters (t : Team) : List Nat :=
  t.members.filterMap fun m =>
    match m with
    | .resident k => some (clusterOfCore k.core.val)
    | _ => none

/-- Floors of a launch (R316). -/
def Launch.floors (l : Launch) : Grant := .ofBits (l.ratio.toNat / 2 ^ 16)

/-- Effective requests of a launch (R316). -/
def Launch.wants (l : Launch) : Grant := (Grant.ofBits (l.ratio.toNat % 2 ^ 16)).max l.floors

/-- The resident teams of a node. -/
def Node.residents (n : Node) : List Resident :=
  (n.teams.mapIdx fun i t =>
    ({ part := n.part, node := n.id, team := i, level := n.launch.priority, placed := t.placed, clusters := t.clusters
       request := n.launch.wants, floor := n.launch.floors, weight := .ofBits n.launch.weights.toNat
       grant := .ofBits t.grant.toNat } : Resident)).filter fun r => !r.clusters.isEmpty

/-- Every resident team. -/
def State.residents (s : State) : List Resident := (s.nodes.map Node.residents).flatten

/-- Runs before: higher level, then earlier placement (R319). -/
def Resident.before (a b : Resident) : Bool :=
  decide (b.level < a.level) || (decide (a.level = b.level) && decide (a.placed ≤ b.placed))

/-- A team occupies a cluster. -/
def Resident.onCluster (r : Resident) (c : Nat) : Bool := r.clusters.contains c

/-- A team occupies a die. -/
def Resident.onDie (r : Resident) (d : Nat) : Bool := r.clusters.any fun c => decide (c / 16 = d)

/-! ## Evaluation (R319 to R322) -/

/-- A cluster's nibbles are fixed by an open window. -/
def State.lockedCluster (s : State) (c : Nat) : Bool := (s.island c).lock.isSome

/-- A die's nibbles are fixed by an open window of any of its clusters. -/
def State.lockedDie (s : State) (d : Nat) : Bool := (List.range 16).any fun k => s.lockedCluster (16 * d + k)

/-- Islands of a team raised to a grant: what F prices and what the next bounds are, for the islands that a window fixes too (R319). -/
def Grants.raise (lb : Grants) (r : Resident) (g : Grant) : Grants :=
  let up (on : Bool) (b v : Nat) : Nat := if on then max b v else b
  { mx := fun c => up (r.onCluster c) (lb.mx c) g.mx
    vx := fun c => up (r.onCluster c) (lb.vx c) g.vx
    net := fun d => up (r.onDie d) (lb.net d) g.net
    mem := fun d => up (r.onDie d) (lb.mem d) g.mem }

/-- Grants of islands, but where a window fixes them what they run at (R324). -/
def State.keepLocked (s : State) (g : Grants) : Grants :=
  let now := s.grants
  { mx := fun c => if s.lockedCluster c then now.mx c else g.mx c
    vx := fun c => if s.lockedCluster c then now.vx c else g.vx c
    net := fun d => if s.lockedDie d then now.net d else g.net d
    mem := fun d => if s.lockedDie d then now.mem d else g.mem d }

/-- Lower bounds of an evaluation of partition `p` (R319). -/
def State.bounds (s : State) (p : Part) : Grants :=
  let others := s.residents.filter fun r => r.part ≠ p
  let most (on : Resident → Bool) (f : Grant → Nat) : Nat := (others.filter on).foldl (fun a r => max a (f r.grant)) 0
  s.keepLocked
    { mx := fun c => most (·.onCluster c) (·.mx), vx := fun c => most (·.onCluster c) (·.vx)
      net := fun d => most (·.onDie d) (·.net), mem := fun d => most (·.onDie d) (·.mem) }

/-- `|a − b|` -/
def absDiff (a b : Nat) : Nat := (a - b) + (b - a)

/-- The weighted distance of a grant from a team's request. -/
def Resident.distance (r : Resident) (g : Grant) : Nat :=
  r.weight.mx * absDiff r.request.mx g.mx + r.weight.vx * absDiff r.request.vx g.vx +
    r.weight.net * absDiff r.request.net g.net + r.weight.mem * absDiff r.request.mem g.mem

/-- The order in which ties are broken: MX, VX, NET, MEM. -/
def Grant.rank (g : Grant) : Nat := g.mx * 4096 + g.vx * 256 + g.net * 16 + g.mem

/-- All four-nibble grants at or above a floor. -/
def grantsFrom (f : Grant) : List Grant :=
  ((List.range 65536).map Grant.ofBits).filter fun g =>
    decide (f.mx ≤ g.mx) && decide (f.vx ≤ g.vx) && decide (f.net ≤ g.net) && decide (f.mem ≤ g.mem)

/-- The grant of a team: nearest to its request among those that fit with later teams at their floors; its floors
when none fits (R319, R320). -/
def State.choose (s : State) (lb : Grants) (r : Resident) (later : List Resident) : Grant :=
  if s.pw.shed then r.floor else
  let base := later.foldl (fun b q => b.raise q q.floor) lb
  let better (a g : Grant) : Bool :=
    decide (r.distance g < r.distance a) || (decide (r.distance g = r.distance a) && decide (a.rank < g.rank))
  let best := (grantsFrom r.floor).foldl (fun (b : Option Grant) g =>
    if (match b with | some a => better a g | none => true) && s.fits (base.raise r g) then some g else b) none
  best.getD r.floor

/-- Grants of teams in order, and the islands that result. -/
def State.assign (s : State) : Grants → List Resident → List (Resident × Grant) × Grants
  | lb, [] => ([], lb)
  | lb, r :: rest =>
    let g := s.choose lb r rest
    let (l, lb) := State.assign s (lb.raise r g) rest
    ((r, g) :: l, lb)

/-- The grant word of a cluster (R322). -/
def State.grantWord (s : State) (c : Nat) : Word :=
  let i := s.island c
  let d := c / 16
  BitVec.ofNat 64 (i.gen.toNat * 2 ^ 16 + (s.pw.mem.toList.getD d 0).toNat * 2 ^ 12 +
    (s.pw.net.toList.getD d 0).toNat * 2 ^ 8 + i.vx.toNat * 2 ^ 4 + i.mx.toNat)

/-- VX cycles that a cluster's island has counted by now (R117, R315). -/
def State.countVx (s : State) (c : Nat) : State :=
  s.mapIsland c fun i =>
    { i with cycles := i.cycles + (s.nstime - i.since) * 5 * (i.vx.toNat + 1) / 32, since := s.nstime }

/-- NET cycles that a die has counted by now, in eighths (R326). -/
def State.netCount (s : State) (d : Nat) : Nat :=
  s.pw.netEighths.toList.getD d 0 + (s.nstime - s.pw.netAt.toList.getD d 0) * ((s.pw.net.toList.getD d 0).toNat + 1)

/-- Sets a die's NET and MEM nibbles. -/
def State.setDie (s : State) (d net mem : Nat) : State :=
  let k := s.netCount d
  s.mapPw fun w =>
    { w with netEighths := w.netEighths.set! d k, netAt := w.netAt.set! d s.nstime
             net := w.net.set! d (BitVec.ofNat 4 net), mem := w.mem.set! d (BitVec.ofNat 4 mem) }

/-- Sets a cluster's MX and VX nibbles. -/
def State.setCluster (s : State) (c mx vx : Nat) : State :=
  (s.countVx c).mapIsland c fun i => { i with mx := BitVec.ofNat 4 mx, vx := BitVec.ofNat 4 vx }

/-- The contexts of a cluster read its grant word, with EVT.RATIO where it changed (R321, R322). -/
def State.publish (s : State) (c : Nat) : State :=
  let w := s.grantWord c
  s.mapAll fun x =>
    if x.live ∧ clusterOfCore x.key.core.val = c ∧ x.sys.ratiogrant ≠ w then
      { x.event evRatio with sys := { (x.event evRatio).sys with ratiogrant := w } } else x

/-- Some clusters and dies run at a set of grants: GEN counts each change of a word (R322). -/
def State.applyGrants (s : State) (g : Grants) (clusters dies : List Nat) : State :=
  let before := (List.range 96).map fun c => (s.grantWord c).toNat % 2 ^ 16
  let s := clusters.foldl (fun s c => s.setCluster c (g.mx c) (g.vx c)) s
  let s := dies.foldl (fun s d => s.setDie d (g.net d) (g.mem d)) s
  (List.range 96).foldl (fun s c =>
    if (s.grantWord c).toNat % 2 ^ 16 = before.getD c 0 then s
    else (s.mapIsland c fun i => { i with gen := i.gen + 1 }).publish c) s

/-- The islands of some clusters and of their dies run at a set of grants: those whose predicted cost falls change first, then the
others (R321; log entry 13). -/
def State.runAt (s : State) (g : Grants) (clusters : List Nat) : State :=
  let t := s.pw.table
  let now := s.grants
  let dies := (List.range 6).filter fun d => clusters.any fun c => decide (c / 16 = d)
  let falls (c : Nat) : Bool := decide (t.cluster g c < t.cluster now c)
  let dieFalls (d : Nat) : Bool := decide (t.die g d < t.die now d)
  let s := s.applyGrants g (clusters.filter falls) (dies.filter dieFalls)
  s.applyGrants g (clusters.filter fun c => !falls c) (dies.filter fun d => !dieFalls d)

/-- Inserts by order of evaluation. -/
def insertTeam (r : Resident) : List Resident → List Resident
  | [] => [r]
  | q :: rest => if r.before q then r :: q :: rest else q :: insertTeam r rest

/-- Writes the grant of a team. -/
def State.grantTeam (s : State) (r : Resident) (g : Grant) : State :=
  s.mapNode r.part r.node fun n => { n with teams := n.teams.mapIdx fun i t => if i = r.team then { t with grant := g.pack } else t }

/-- The costs of a domain that a version of the power table gives, on so many islands. -/
def costsOf (v domain islands : Nat) : Table Nat :=
  ((List.range (16 * islands)).map fun k => (k, Config.powerCost v domain k)).filter fun e => decide (e.2 ≠ 0)

/-- The power table that a version holds (R317; log entry 13). -/
def PowerTable.ofVersion (v : Nat) : PowerTable :=
  { fixed := Config.powerFixed v, mx := costsOf v 0 96, vx := costsOf v 1 96, net := costsOf v 2 6, mem := costsOf v 3 6 }

/-- The management controller loads a version of the power table, unless its checksum fails (R213, R317). -/
def State.loadTable (s : State) (v : Nat) : State :=
  if Config.powerTableOk v then
    (s.mapPw fun w => { w with table := .ofVersion v }).mapMg fun m => { m with versions := m.versions.set! 2 v }
  else s

/-- The index of a component's version. -/
def componentIx (c : Component) : Nat :=
  match c with
  | .vemund => 0 | .dieController => 1 | .powerTable => 2 | .nougat => 3

/-- A component's image that waits for this moment becomes active (R365). -/
def State.loadPending (s : State) (c : Component) : State :=
  match s.mg.pendingVersions.toList.getD (componentIx c) none with
  | some v =>
    let s := s.mapMg fun m => { m with pendingVersions := m.pendingVersions.set! (componentIx c) none }
    if c = .powerTable then s.loadTable v else s.mapMg fun m => { m with versions := m.versions.set! (componentIx c) v }
  | none => s

/-- Clusters whose grants an evaluation of a partition sets: its own, and those of no partition, which have no team (R315, R319). -/
def State.evaluated (s : State) (p : Part) : List Nat :=
  (List.range 96).filter fun c => (s.parts.filter fun q => decide (q.p ≠ p)).all fun q => !q.ownsCluster c

/-- One evaluation of a partition (R319). -/
def State.evaluate (s : State) (p : Part) : State :=
  let s := s.loadPending .powerTable
  let teams := (s.residents.filter fun r => r.part = p).foldr insertTeam []
  let (l, lb) := s.assign (s.bounds p) teams
  let s := l.foldl (fun s e => s.grantTeam e.1 e.2) s
  let mine := s.evaluated p
  let s := s.runAt (s.keepLocked lb) mine
  let s := (mine.filter fun c => teams.any (·.onCluster c)).foldl (fun s c => s.mapIsland c fun i => { i with evalAt := s.nstime }) s
  s.mapPw fun w => { w with due := w.due.filter (· ≠ p) }

/-- An evaluation is due and no cluster of the partition was evaluated less than 100 µs ago (R320). -/
def State.evalReady (s : State) (p : Part) : Bool :=
  s.pw.due.contains p && (s.evaluated p).all fun c =>
    decide ((s.island c).evalAt = 0) || decide ((s.island c).evalAt + 100000 ≤ s.nstime)

/-- `PRALINE_EVALUATION` -/
def execPralineEvaluation (p : Part) (s : State) := s.event (s.evalReady p) fun t => t.evaluate p

/-- Islands of a new team are raised at once to its floors (R320). -/
def State.raiseFloors (s : State) (r : Resident) : State :=
  s.runAt (s.keepLocked (s.grants.raise r r.floor)) (List.range 96)

/-- The islands fit with every resident team and the new one at their floors (R318), and no floor asks for a change
of a locked island (R324). -/
def State.floorsFit (s : State) (r : Resident) : Bool :=
  let now := s.grants
  let kept : Bool :=
    r.clusters.all fun c =>
      (!s.lockedCluster c || (decide (r.floor.mx ≤ now.mx c) && decide (r.floor.vx ≤ now.vx c))) &&
      (!s.lockedDie (c / 16) || (decide (r.floor.net ≤ now.net (c / 16)) && decide (r.floor.mem ≤ now.mem (c / 16))))
  kept && s.fits ((s.residents ++ [r]).foldl (fun b q => b.raise q q.floor) (s.keepLocked .zero))

/-- The floors of the resident teams fit (R320). -/
def State.residentsFit (s : State) : Bool :=
  s.fits (s.residents.foldl (fun b q => b.raise q q.floor) .zero)

/-- The locks of some clusters end, and partitions are evaluated at once: those that are named, or every one where the floors of the
resident teams no longer fit, so that all have their floors (R320). -/
def State.evaluateNow (s : State) (clusters : List Nat) (l : List Part) : State :=
  let s := clusters.foldl (fun s c => if s.lockedCluster c then s.closeLock c else s) s
  if s.residentsFit then l.foldl State.evaluate s
  else (s.parts.map (·.p)).foldl State.evaluate (s.mapPw fun w => { w with shed := true })

/-- The floors fit again: the saves are done, and every partition is evaluated (R320). -/
def State.endShed (s : State) : State :=
  (s.parts.map (·.p)).foldl State.trigger (s.mapPw fun w => { w with shed := false })

/-! ## GETRATIO, RLOCK, RUNLOCK (R324) -/

/-- `GETRATIO` -/
def execGetratio (sy : Sync) (rd : XReg) (s : State) := s.runX sy 0 .run rd [] fun u => u.ctx.sys.ratiogrant

/-- The acting context's cluster. -/
def State.clusterNo (s : State) : Nat := clusterOfCore s.coreNo

/-- `RLOCK` -/
def execRlock (sy : Sync) (s : State) :=
  s.runC sy 0 .spec [] fun u =>
    let i := u.island u.clusterNo
    if i.holders.contains u.ctx.key then .fin u
    else if i.restUntil.isSome then .wait
    else .fin (u.mapIsland u.clusterNo fun i =>
      { i with lock := if i.lock.isSome then i.lock else some u.nstime, holders := i.holders ++ [u.ctx.key] })

/-- `RUNLOCK` -/
def execRunlock (sy : Sync) (s : State) := s.runC sy 0 .spec [] fun u => .fin (u.leaveLock u.ctx.key)

/-- A cluster's window has been open for 1 ms. -/
def State.lockOver (s : State) (cl : Nat) : Bool := (s.island cl).lock.any fun t => decide (t + 1000000 ≤ s.nstime)

/-- `LOCK_WINDOW_EXPIRY` -/
def execLockWindowExpiry (cl : Cluster) (s : State) := s.event (s.lockOver cl.val) fun t => t.closeLock cl.val

/-- A cluster's rest has lasted 1 ms. -/
def State.restOver (s : State) (cl : Nat) : Bool := (s.island cl).restUntil.any fun t => decide (t ≤ s.nstime)

/-- `LOCK_REST_END` -/
def execLockRestEnd (cl : Cluster) (s : State) :=
  s.event (s.restOver cl.val) fun t => t.mapIsland cl.val fun i => { i with restUntil := none }

/-! ## Buckets (R325 to R327) -/

/-- A partition's share on a die. -/
def Partition.share (q : Partition) (d : Nat) : Nat := q.shares.getD d 0

/-- Tokens per refill of a die (R326). -/
def State.tokens (s : State) (d : Nat) : Nat :=
  25600 * ((s.pw.mem.toList.getD d 0).toNat + 1) / ((s.pw.net.toList.getD d 0).toNat + 1)

/-- A refill of a die's buckets (R326). -/
def State.refill (s : State) (d : Nat) : State :=
  let t := s.tokens d
  let a (q : Partition) : Nat := t * q.share d / 256
  let starved := s.parts.filter fun q => (s.bucket q.p d).starved
  let rest := s.parts.filter fun q => !(s.bucket q.p d).starved
  let u := rest.foldl (fun n q => n + (s.bucket q.p d).balance) 0 + (t - s.parts.foldl (fun n q => n + a q) 0)
  let shares := starved.foldl (fun n q => n + q.share d) 0
  let bonus (q : Partition) : Nat := if shares = 0 then u / starved.length else u * q.share d / shares
  let s := s.parts.foldl (fun s q =>
    s.mapBucket q.p d fun b =>
      if b.starved then
        { b with balance := a q + bonus q, allot := a q, throttled := (b.throttled + 1) % 2 ^ 32
                 bonus := (b.bonus + bonus q) % 2 ^ 32, starved := false }
      else { b with balance := a q, allot := a q }) s
  s.mapPw fun w => { w with periods := w.periods.set! d (w.periods.toList.getD d 0 + 1) }

/-- The die has counted 1,024 NET cycles since its last refill. -/
def State.refillDue (s : State) (d : Nat) : Bool := decide (8192 * (s.pw.periods.toList.getD d 0 + 1) ≤ s.netCount d)

/-- `BUCKET_REFILL` -/
def execBucketRefill (die : Die) (s : State) := s.event (s.refillDue die.val) fun t => t.refill die.val

end Sys2Proof.Machine
end

