-- ==== Sys2Proof/Machine/Bands.lean ====
section
/-!
DEFINITION. Ownership of accumulator bands, `AMALLOC`, `AMFREE`, `AMGRANT`, `AMQUERY`, and the VFY instructions
(07_matrix R162 to R171, 08_verification R208, R209).
-/

namespace Sys2Proof.Machine

/-! ## Ownership (R164) -/

/-- The mask of bands that satisfy a condition. -/
def maskOf (f : Nat → Bool) : BitVec 32 := BitVec.ofNat 32 ((List.range 32).foldl (fun m b => m + bitOf (f b) * 2 ^ b) 0)

/-- Free bands. -/
def Core.freeMask (c : Core) : BitVec 32 := maskOf fun b => (c.ownerOf b).isNone

/-- Bands that a context owns. -/
def Core.ownMask (c : Core) (slot : Nat) : BitVec 32 := maskOf fun b => decide (c.ownerOf b = some slot)

/-- Bands granted to a context, by any owner or by the one given. -/
def Core.grantedMask (c : Core) (slot : Nat) (owner : Option Nat) : BitVec 32 :=
  maskOf fun b => c.grants.any fun g =>
    decide (g.1 = b) && decide (g.2.2 = slot) && owner.all fun o => decide (g.2.1 = o)

/-- The acting core. -/
def State.here (s : State) : Core := s.core s.coreNo

/-- The acting context's CTXID. -/
def State.slotNo (s : State) : Nat := s.ctx.key.slot.val

/-- The lowest band of a mask. -/
def lowestBand (m : BitVec 32) : Option Nat := (List.range 32).find? fun b => m.getLsbD b

/-! ## AMALLOC (R166) -/

/-- The bands that the mask form takes. -/
def takeMask (free want : BitVec 32) (room : Nat) : BitVec 32 :=
  ((List.range 32).foldl (fun (a : BitVec 32 × Nat) b =>
    if want.getLsbD b ∧ free.getLsbD b ∧ 0 < a.2 then (a.1 ||| bandMask b 1, a.2 - 1) else a) (0, room)).1

/-- The bands that the count form takes: the lowest run of `n` free ones. -/
def takeRun (free : BitVec 32) (n : Nat) : BitVec 32 :=
  match (List.range (33 - n)).find? fun b => free &&& bandMask b n = bandMask b n with
  | some b => bandMask b n
  | none => 0

/-- Zeroes bands in both stores, with their tags (R166, R181, R190). -/
def Core.zeroBands (c : Core) (l : List Nat) : Core :=
  l.foldl (fun c b =>
    { c with main := c.main.copyBand .empty b, shadow := c.shadow.copyBand .empty b, tags := putBand b c.tags [] }) c

/-- The bands an `AMALLOC` takes. -/
def State.amTake (s : State) (a : Word) : BitVec 32 :=
  let c := s.here
  let room := s.ctx.launch.amBanks - popcount (c.ownMask s.slotNo) 32
  if a.getLsbD 63 then
    let n := a.toNat % 64
    if 1 ≤ n ∧ n ≤ 32 ∧ n ≤ room then takeRun c.freeMask n else 0
  else takeMask c.freeMask (a.setWidth 32) room

/-- `AMALLOC`'s effect. -/
def State.amalloc (s : State) (rd : XReg) (a : Word) : State :=
  let own := s.here.ownMask s.slotNo
  let got := s.amTake a
  let s := s.mapCore s.coreNo fun c =>
    { c.zeroBands (bandsOf got) with owner := (bandsOf got).map (fun b => (b, s.slotNo)) ++ c.owner }
  s.setX rd ((own ||| got) ++ got)

/-- `AMALLOC` -/
def execAmalloc (sy : Sync) (rd ra : XReg) (s : State) := s.runC sy 0 .both [ra] fun u => .fin (u.amalloc rd (u.x ra))

/-! ## AMFREE (R167) -/

/-- A chain of any context of the core is open on the bands, or a drain or an arbitration on them is not settled. -/
def State.bandsBusy (s : State) (m : BitVec 32) : Bool :=
  s.resident.any fun c => decide (c.key.core = s.ctx.key.core) &&
    ((c.mx.chain.any fun k => decide (bandMask k.band k.nb &&& m ≠ 0)) ||
     (c.mx.drain.any fun d => decide (bandMask d.band d.nb &&& m ≠ 0)) ||
     (c.mx.dispute.isSome && decide (c.mx.spanBands &&& m ≠ 0)))

/-- Runs an effect on owned bands; AMBANK names the lowest band that is not owned. -/
def State.onOwned (s : State) (m : BitVec 32) (f : Unit → Eff) : Eff :=
  match lowestBand (m &&& ~~~(s.here.ownMask s.slotNo)) with
  | some b => .trap cAMBANK (BitVec.ofNat 64 b)
  | none => f ()

/-- Grants of bands that a context has made and that do not stand on the core now go with the bands (R167, R168). -/
def Ctx.dropOwed (c : Ctx) (m : BitVec 32) : Ctx :=
  let drop (o : Owed) : Owed := if o.made then { o with bands := (BitVec.ofNat 32 o.bands &&& ~~~m).toNat } else o
  { c with owed := (c.owed.map drop).filter (·.bands ≠ 0) }

/-- `AMFREE` -/
def execAmfree (sy : Sync) (ra : XReg) (s : State) :=
  s.runC sy 0 .both [ra] fun u =>
    let m : BitVec 32 := (u.x ra).setWidth 32
    u.onOwned m fun _ =>
      if u.bandsBusy m then .wait
      else
        let u := (u.mapMx (·.leaveSpan m)).mapCtx (·.dropOwed m)
        .fin (u.mapCore u.coreNo fun c =>
          { c.zeroBands (bandsOf m) with owner := c.owner.filter (fun o => !m.getLsbD o.1)
                                         grants := c.grants.filter fun g => !m.getLsbD g.1 })

/-- `AMFREE.discard` -/
def execAmfreeDiscard (sy : Sync) (ra : XReg) (s : State) :=
  s.runC sy 0 .both [ra] fun u =>
    let m : BitVec 32 := (u.x ra).setWidth 32
    u.onOwned m fun _ =>
      if u.bandsBusy m then .wait
      else
        let mark (st : Store) : Store := (bandsOf m).foldl (fun st b => st.setBand b { st.band b with discard := true }) st
        .fin (u.mapCore u.coreNo fun c => { c with main := mark c.main, shadow := mark c.shadow })

/-! ## AMGRANT (R168) -/

/-- The target of a grant: a resident task of the same node in another context of the core. -/
def State.grantee (s : State) (slot : Nat) : Option Ctx :=
  s.resident.find? fun c => decide (c.key.core = s.ctx.key.core) && decide (c.key.slot.val = slot) &&
    decide (slot ≠ s.slotNo) && s.ctx.sameNode c

/-- `AMGRANT` -/
def execAmgrant (sy : Sync) (rd ra rb : XReg) (s : State) :=
  s.runC sy 0 .both [ra, rb] fun u =>
    let m : BitVec 32 := (u.x ra).setWidth 32
    let dest := (u.x rb).toNat % 4
    let out (w : State) : Eff := .fin (w.setX rd (zext64 (w.here.grantedMask dest none)))
    u.onOwned m fun _ =>
      match u.grantee dest with
      | none => .fin (u.setX rd 0)
      | some t =>
        let drop := u.mapCore u.coreNo fun c =>
          { c with grants := c.grants.filter fun g => !(m.getLsbD g.1 && decide (g.2.1 = u.slotNo) && decide (g.2.2 = dest)) }
        if (u.x rb).getLsbD 8 then
          (if t.mx.drain.any fun d => decide (bandMask d.band d.nb &&& m ≠ 0) then .wait else out drop)
        else out (drop.mapCore u.coreNo fun c => { c with grants := (bandsOf m).map (fun b => (b, u.slotNo, dest)) ++ c.grants })

/-! ## MXFLAGS (R185) -/

/-- MXFLAGS changed by what a speculation epoch is not to undo, or by a dependent drain: only the latter's change leaves the
checkpoint of the stream as it is (R185, R303). -/
def Ctx.mapFlags (c : Ctx) (spec : Bool) (f : BitVec 6 → BitVec 6) : Ctx :=
  let inSnap (n : Snap) : Snap :=
    match n.regs with
    | .mx r => { n with regs := .mx { r with mxflags := f r.mxflags } }
    | _ => n
  { c with
    mx := { c.mx with mxflags := f c.mx.mxflags }
    spec := if spec then c.spec else c.spec.map fun e => { e with snaps := e.snaps.map (·.map inSnap) } }

/-! ## AMQUERY (R169) -/

/-- The code of a band's KIND. -/
def kindCode : BandKind → Nat
  | .none => 0 | .narrow => 1 | .wide => 2

/-- The store that AM names: the good one on a degraded core (R204). -/
def Core.am (c : Core) : Store := if c.mainFailed then c.shadow else c.main

/-- The state that `AMQUERY` reads. -/
def State.amState (s : State) (a : Word) : Word :=
  let c := s.here
  let own := c.ownMask s.slotNo
  let got := c.grantedMask s.slotNo none
  match a.toNat % 8 with
  | 0 => got ++ own
  | 1 => BitVec.ofNat 64 (popcount own 32 * 2 ^ 40 + s.ctx.launch.amBanks * 2 ^ 32 + c.freeMask.toNat)
  | 2 => zext64 (own &&& maskOf fun b => (c.am.band b).discard)
  | 3 | 4 => zext64 s.ctx.mx.mxflags
  | 5 =>
    let b := a.toNat / 2 ^ 8 % 32
    let st := c.am.band b
    if (own ||| got).getLsbD b then
      BitVec.ofNat 64 ((BitVec.ofInt 10 st.anchor).toNat * 2 ^ 32 + bitOf st.discard * 8 + kindCode st.kind)
    else 0
  | _ => 0

/-- `AMQUERY` -/
def execAmquery (sy : Sync) (rd ra : XReg) (s : State) :=
  s.runC sy 0 .both [ra] fun u =>
    let v := u.amState (u.x ra)
    let clear := decide ((u.x ra).toNat % 8 = 4)
    .fin ((if clear then u.mapCtx (·.mapFlags false fun _ => 0) else u).setX rd v)

/-! ## VWAIT, VSIG, VSTAT (R208, R209) -/

/-- The drains that the `VWAIT` or `VSIG` at the pc waits for have their verdicts: those issued before it (R209). -/
def Ctx.verified (c : Ctx) : Bool := reached c.sys.verdicts (c.c.vwait.getD c.sys.drains)

/-- `VWAIT` and `VSIG`: the drains counted when it issues are waited for; a later one is not (R209). -/
def State.awaitVerdicts (s : State) (f : State → State) : Eff :=
  if s.ctx.verified then .fin ((f s).mapC fun c => { c with vwait := none })
  else .begin (s.mapC fun c => { c with vwait := some (c.vwait.getD s.ctx.sys.drains) })

/-- `VWAIT` -/
def execVwait (sy : Sync) (rd : XReg) (s : State) :=
  s.runC sy 0 .both [] fun u => u.awaitVerdicts fun u => u.setX rd u.integ

/-- `VSIG` -/
def execVsig (sy : Sync) (rd : XReg) (s : State) :=
  s.runC sy 0 .ver [] fun u => u.awaitVerdicts fun u => u.setX rd u.ctx.mx.signature

/-- Products added in the span to its fullest slot. -/
def MRegs.fullest (m : MRegs) : Nat := m.spanProducts.foldl (fun a e => max a e.2) 0

/-- The snapshot of `VSTAT`. -/
def State.vstat (s : State) : Word :=
  let c := s.ctx
  BitVec.ofNat 64 (bitOf (c.ver.isSome || c.spec.isSome) + 2 * bitOf c.mx.dispute.isSome + 4 * bitOf (decide (c.mx.spanBands ≠ 0)) +
    min c.cb.length 255 * 2 ^ 8 + c.journalUsed % 2 ^ 16 * 2 ^ 16 + c.mx.fullest % 2 ^ 16 * 2 ^ 32)

/-- `VSTAT` -/
def execVstat (sy : Sync) (rd : XReg) (s : State) := s.runX sy 0 .run rd [] fun u => u.vstat

end Sys2Proof.Machine
end

