-- ==== Sys2Proof/Machine/Functions.lean ====
section
/-!
DEFINITION. The seven functions of R144, rounded once: square roots exactly, and the transcendental ones
through fixed-point enclosures of 400 fraction bits (06_registers R144; log entry 17).
-/

namespace Sys2Proof.Machine

/-- Fraction bits of the fixed-point arithmetic. -/
def fxBits : Nat := 400

/-- 1 in fixed point. -/
def fxOne : Nat := 2 ^ fxBits

/-- A product in fixed point. -/
def fxMul (a b : Nat) : Nat := a * b / fxOne

/-- The square root of a natural number, from bit `b − 1` down. -/
def sqrtBits (n : Nat) : Nat → Nat → Nat
  | 0, r => r
  | b + 1, r => if (r + 2 ^ b) * (r + 2 ^ b) ≤ n then sqrtBits n b (r + 2 ^ b) else sqrtBits n b r

/-- Floor of the square root. -/
def natSqrt (n : Nat) : Nat := sqrtBits n (Nat.log2 n / 2 + 1) 0

/-- A value between neighbours of the grid of 2^(−k): every rounding boundary of the formats lies on that grid,
so it rounds as the exact value does. -/
def between (m k : Nat) : Rat := ((2 * m + 1 : Nat) : Rat) / ((2 ^ (k + 1) : Nat) : Rat)

/-- The square root of a positive rational, exact or between its neighbours on a fine grid. -/
def sqrtRat (q : Rat) : Rat :=
  let n := q.num.natAbs * 2 ^ (2 * fxBits)
  let m := natSqrt (n / q.den)
  if m * m * q.den = n then ((m : Nat) : Rat) / ((fxOne : Nat) : Rat) else between m fxBits

/-! ## Constants and series -/

/-- Sum of 1/(k·2^k) for k from `k` on: ln 2 from 1. -/
def lnTwoFrom : Nat → Nat → Nat
  | 0, _ => 0
  | n + 1, k => fxOne / (k * 2 ^ k) + lnTwoFrom n (k + 1)

/-- ln 2 -/
def lnTwo : Nat := lnTwoFrom fxBits 1

/-- atan(1/m) from the term `t` of index `k` on, positive terms only when `even`. -/
def atanInv (m : Nat) : Nat → Nat → Nat → Bool → Int
  | 0, _, _, _ => 0
  | n + 1, t, k, plus =>
    (if plus then ((t / k : Nat) : Int) else -((t / k : Nat) : Int)) + atanInv m n (t / (m * m)) (k + 2) (!plus)

/-- π by Machin's formula. -/
def piFx : Nat := (16 * atanInv 5 100 (fxOne / 5) 1 true - 4 * atanInv 239 100 (fxOne / 239) 1 true).toNat

/-- exp y from the term `t` of index `k` on, for y below 1. -/
def expFrom (y : Nat) : Nat → Nat → Nat → Nat
  | 0, _, _ => 0
  | n + 1, t, k => t + expFrom y n (fxMul t y / k) (k + 1)

/-- sin or cos from the term `t` of index `k` on. -/
def trigFrom (y2 : Nat) : Nat → Nat → Nat → Bool → Int
  | 0, _, _, _ => 0
  | n + 1, t, k, plus =>
    (if plus then ((t : Nat) : Int) else -((t : Nat) : Int)) + trigFrom y2 n (fxMul t y2 / ((k + 1) * (k + 2))) (k + 2) (!plus)

/-- atanh z from the power `t` of index `k` on. -/
def atanhFrom (z2 : Nat) : Nat → Nat → Nat → Nat
  | 0, _, _ => 0
  | n + 1, t, k => t / k + atanhFrom z2 n (fxMul t z2) (k + 2)

/-- A nonnegative rational in fixed point. -/
def toFx (q : Rat) : Nat := (q * ((fxOne : Nat) : Rat)).floor.toNat

/-- A fixed-point value known within 2^16 units of its 400 fraction bits, placed between its neighbours on the grid of 200 fraction bits,
which holds every rounding boundary of the formats (log entry 17). -/
def settleFx (a : Nat) : Rat := between (a / 2 ^ 200) 200

/-! ## The functions -/

/-- The seven functions. -/
inductive UFn where
  | rcp | rsq | sqrt | exp2 | log2 | sin | cos
deriving DecidableEq, Repr

/-- A function's value for the rounding, with the flags of its special cases. -/
abbrev FnValue := Val × BitVec 5

/-- 2^x for a nonzero finite x. -/
def exp2Of (q : Rat) : FnValue :=
  let n := q.floor
  if q = ((n : Int) : Rat) then (.num (pow2 (if n < -1024 then -1024 else if 1024 < n then 1024 else n)), 0)
  else if n < -1024 then (.num (pow2 (-1024)), 0)
  else if 1024 < n then (.num (pow2 1024), 0)
  else (.num (settleFx (expFrom (fxMul (toFx (q - n)) lnTwo) 120 fxOne 1) * pow2 n), 0)

/-- log2 x for a positive x. -/
def log2Of (q : Rat) : FnValue :=
  let e := floorLog2 q.num.natAbs q.den
  let m := q / pow2 e
  if m = 1 then (Val.ofRat ((e : Int) : Rat), 0)
  else
    let z := toFx ((m - 1) / (m + 1))
    let l := 2 * atanhFrom (fxMul z z) 140 z 1
    let a : Int := ((l * fxOne / lnTwo : Nat) : Int) + e * ((fxOne : Nat) : Int)
    let v := settleFx a.natAbs
    (.num (if a < 0 then -v else v), 0)

/-- sin(2πr) for r strictly between 0 and 1/4. -/
def sinQuarter (r : Rat) : Rat :=
  let y := fxMul (toFx (r * 2)) piFx
  settleFx (trigFrom (fxMul y y) 100 y 1 true).toNat

/-- sin(2πx) for 0 ≤ x < 1. -/
def sinTurn (x : Rat) : Rat :=
  let neg := decide ((1 : Rat) / 2 ≤ x)
  let h := if neg then x - 1 / 2 else x
  let r := if (1 : Rat) / 4 < h then 1 / 2 - h else h
  let v : Rat := if r = 0 then 0 else if r = 1 / 4 then 1 else sinQuarter r
  if neg then -v else v

/-- The fraction of x in turns. -/
def turn (q : Rat) : Rat := q - ((q.floor : Int) : Rat)

/-- A function of a value (R144). -/
def UFn.eval (f : UFn) (x : Val) : FnValue :=
  match f, x with
  | _, .nan => (.nan, 0)
  | .rcp, .zero n => (.inf n, fDZ)
  | .rcp, .inf n => (.zero n, 0)
  | .rcp, .num q => (.num (1 / q), 0)
  | .rsq, .zero n => (.inf n, fDZ)
  | .rsq, .inf n => (if n then (.nan, fNV) else (.zero false, 0))
  | .rsq, .num q => (if q < 0 then (.nan, fNV) else (.num (sqrtRat (1 / q)), 0))
  | .sqrt, .zero n => (.zero n, 0)
  | .sqrt, .inf n => (if n then (.nan, fNV) else (.inf false, 0))
  | .sqrt, .num q => (if q < 0 then (.nan, fNV) else (.num (sqrtRat q), 0))
  | .exp2, .zero _ => (.num 1, 0)
  | .exp2, .inf n => (if n then .zero false else .inf false, 0)
  | .exp2, .num q => exp2Of q
  | .log2, .zero _ => (.inf true, fDZ)
  | .log2, .inf n => (if n then (.nan, fNV) else (.inf false, 0))
  | .log2, .num q => if q < 0 then (.nan, fNV) else log2Of q
  | .sin, .zero n => (.zero n, 0)
  | .sin, .inf _ => (.nan, fNV)
  | .sin, .num q => let v := sinTurn (turn q); (if v = 0 then .zero (decide (q < 0)) else .num v, 0)
  | .cos, .zero _ => (.num 1, 0)
  | .cos, .inf _ => (.nan, fNV)
  | .cos, .num q => (Val.ofRat (sinTurn (turn (q + 1 / 4))), 0)

/-- A function rounded to a type by RNE (R144). -/
def UFn.round (f : UFn) (x : Val) (t : ElemTy) (sat : Bool) : Nat × BitVec 5 :=
  let v := f.eval x
  let r := roundToFormat v.1 t .rne sat
  (r.1, r.2 ||| v.2)

end Sys2Proof.Machine
end

