-- ==== Sys2Proof/Machine/Flags.lean ====
section
/-!
DEFINITION. Every flag computation: the lane flags of VX (R55, R136, R139) and the matrix flags of a drain
(R183, R185).
-/

namespace Sys2Proof.Machine

/-- ORs flags into the lanes of elements: element e belongs to lane e mod 128 (R128, R136). -/
def orLanes (v : Vector (BitVec 5) 128) : List (Nat × BitVec 5) → Vector (BitVec 5) 128
  | [] => v
  | (e, f) :: rest => orLanes (v.set (e % 128) (v[e % 128]'(Nat.mod_lt _ (by decide)) ||| f) (Nat.mod_lt _ (by decide))) rest

/-- An instruction's flags reach the lanes of their elements unless nf is set (R139). -/
def State.raiseLanes (s : State) (nf : Bool) (l : List (Nat × BitVec 5)) : State :=
  if nf then s else s.mapVx fun v => { v with flags := orLanes v.flags l }

/-- `VFLGC` clears every flag (R142). -/
def State.clearLanes (s : State) : State := s.mapVx fun v => { v with flags := Vector.replicate 128 0 }

/-- What a drained slot raises in MXFLAGS: the flags of R55 and SAT (R183, R185). -/
def drainFlags (f : BitVec 5) (sat : Bool) : BitVec 6 := BitVec.ofNat 6 (f.toNat + bitOf sat * 32)

/-- ORs the flags of a drain into MXFLAGS; those of one that depends on the speculation go if it is undone (R183, R185). -/
def State.raiseMx (s : State) (spec : Bool) (f : BitVec 6) : State := s.mapCtx (·.mapFlags spec (· ||| f))

end Sys2Proof.Machine
end

