-- ==== Sys2Proof/Machine/Views.lean ====
section
/-!
DEFINITION. Views: their maps, the places of their elements, and the checks of their use (06_registers R129 to R133,
R138 to R141, 03_numbers R49, R56).
-/

namespace Sys2Proof.Machine

/-- A view's fields (R129, R130). `pitch` counts bytes. -/
structure View where
  ty : ElemTy
  tile : Bool
  base : Nat
  rows : Nat
  cols : Nat
  pitch : Nat
  rm : Nat
  /-- The must-be-zero bits. -/
  mbz : Nat
deriving DecidableEq, Repr

/-- The type of a code (R50). -/
def tyOfCode (n : Nat) : ElemTy :=
  match n % 16 with
  | 0 => .int8 | 1 => .uint8 | 2 => .int16 | 3 => .int32 | 4 => .uint32 | 5 => .uint16 | 6 => .fp4 | 7 => .e4m3
  | 8 => .e5m2 | 9 => .fp16 | 10 => .bf16 | 11 => .fp32 | 12 => .e3m5 | 13 => .qs4 | 14 => .int64 | _ => .invalid

/-- The view that a descriptor describes (R129, R130). -/
def View.ofWord (w : Word) : View :=
  let n := w.toNat
  let f (lo k : Nat) : Nat := n / 2 ^ lo % 2 ^ k
  if n.testBit 22 then
    { ty := tyOfCode (f 18 4), tile := true, base := f 0 18, rows := f 23 6 + 1, cols := f 29 6 + 1, pitch := 16 * f 35 12
      rm := f 47 3, mbz := f 50 14 }
  else
    { ty := tyOfCode (f 18 4), tile := false, base := f 0 18, rows := 1, cols := f 23 10 + 1, pitch := 0
      rm := f 33 3, mbz := f 36 28 }

/-- Elements of the view; a QS4 tile's columns are sectors of 192 (R131, R177). -/
def View.len (v : View) : Nat := v.rows * v.cols

/-- Bits per element. -/
def View.size (v : View) : Nat := bitsOf v.ty

/-- Bit offset of element `e` in the window (R131). -/
def View.bit (v : View) (e : Nat) : Nat :=
  if v.tile then 8 * (v.base + v.pitch * (e / v.cols)) + e % v.cols * v.size
  else if v.ty = .qs4 then 8 * (v.base + 128 * (e / 192)) + e % 192 * 4
  else 8 * v.base + e * v.size

/-- First byte above element `e`. -/
def View.top (v : View) (e : Nat) : Nat := (v.bit e + v.size + 7) / 8

/-- A view of the acting context. -/
def State.view (s : State) (r : VReg) : View := .ofWord s.ctx.vx.v[r]

/-- The bits of `k` bits at bit offset `b` of the window. -/
def State.rsBits (s : State) (b k : Nat) : Nat :=
  leValue (s.rsGet (b / 8) ((b % 8 + k + 7) / 8)) / 2 ^ (b % 8) % 2 ^ k

/-- The bits of element `e` of a view. -/
def State.elem (s : State) (v : View) (e : Nat) : Nat := s.rsBits (v.bit e) v.size

/-- TRAPVAL of a VIEW fault (R133). -/
def viewVal (r : VReg) (reason : Nat) : Word := BitVec.ofNat 64 (reason * 2 ^ 8 + r.val)

/-- DESC, TYPE, SHORT, WINDOW, SLICE (R133). -/
def rDESC : Nat := 1
/-- TYPE -/
def rTYPE : Nat := 2
/-- SHORT -/
def rSHORT : Nat := 3
/-- WINDOW -/
def rWINDOW : Nat := 4
/-- SLICE -/
def rSLICE : Nat := 5

/-- A view that `VVIEW` would not have written, of no type or of a QS4 base or pitch that is no multiple of 128, found at its use: only an
edited save block holds one (R50, R56, R133, R177). -/
def View.misformed (v : View) : Bool :=
  decide (v.ty = .invalid) || (decide (v.ty = .qs4) && (decide (v.base % 128 ≠ 0) || decide (v.pitch % 128 ≠ 0)))

/-- The fault of one operand view: its form, its type, the number of elements it must have, and the bytes of the elements
named (R133). -/
def State.viewFault (s : State) (r : VReg) (ok : ElemTy → Bool) (need : Nat) (elems : List Nat) : Option Word :=
  let v := s.view r
  if v.misformed then some (viewVal r rDESC)
  else if !ok v.ty ∨ (v.tile ∧ v.ty = .qs4) then some (viewVal r rTYPE)
  else if v.len < need then some (viewVal r rSHORT)
  else if elems.any fun e => decide (s.ctx.win.rsSize < v.top e) then some (viewVal r rWINDOW)
  else none

/-- The first fault in the order given. -/
def firstFault : List (Option Word) → Option Word
  | [] => none
  | some v :: _ => some v
  | none :: rest => firstFault rest

/-- The byte ranges of the window that elements of a view take. -/
def State.elemsAt (s : State) (r : VReg) (elems : List Nat) : List (Nat × Nat) :=
  let v := s.view r
  elems.map fun e => (v.bit e / 8, v.top e - v.bit e / 8)

/-! ## Writing elements -/

/-- The write of element `e` of a view. -/
def View.put (v : View) (e val : Nat) : BitWrite := ⟨v.bit e, v.size, val % 2 ^ v.size⟩

/-- The bytes that a write leaves, with their offset: a nibble keeps the other nibble of its byte (R49). -/
def State.bytesOf (s : State) (w : BitWrite) : Nat × List Byte :=
  let off := w.bit / 8
  let sh := w.bit % 8
  let n := (sh + w.size + 7) / 8
  let old := leValue (s.rsGet off n)
  (off, leBytes n (old - (old / 2 ^ sh % 2 ^ w.size) * 2 ^ sh + w.val * 2 ^ sh))

/-- Makes writes one after the other, of the dependence given. `none`: it waits. -/
def State.putBits (d : Dep) : State → List BitWrite → Option State
  | s, [] => some s
  | s, w :: rest =>
    match s.rsPut d (s.bytesOf w).1 (s.bytesOf w).2 with
    | none => none
    | some s => State.putBits d s rest

/-- Makes the writes of one instruction in order, of the dependence given. `none`: it waits. -/
def State.writeBitsAs (d : Dep) (s : State) (l : List BitWrite) : Option State :=
  (State.putBits d s l).map fun u => u.cleanUnion d (l.map fun w => (w.bit, w.size))

/-- Makes the writes of one instruction in order as stream `t`. `none`: it waits. -/
def State.writeBits (t : Stream) (s : State) (l : List BitWrite) : Option State := State.writeBitsAs (s.dep t) s l

/-- What the writes of an instruction do while they wait (R196). -/
def State.waitBits (s : State) (t : Stream) (l : List BitWrite) : State → State :=
  s.waitWrite t (l.map fun w => (w.bit / 8, (w.bit % 8 + w.size + 7) / 8))

/-! ## Active elements and common controls (R137 to R139) -/

/-- pe and pm: element `e` is selected. -/
def State.selected (s : State) (x : Option VExt) (e : Nat) : Bool :=
  match x with
  | some x => !x.pe || (s.pr x.pm).getLsbD e
  | none => true

/-- VL. -/
def State.vl (s : State) : Nat := s.ctx.vx.vl

/-- Elements 0 to VL − 1. -/
def State.named (s : State) : List Nat := List.range s.vl

/-- The active elements (R138). -/
def State.actives (s : State) (x : Option VExt) : List Nat := s.named.filter (s.selected x)

/-- Inactive elements below VL that are set to zero (R138). -/
def State.cleared (s : State) (x : Option VExt) : List Nat :=
  if x.any (·.pz) then s.named.filter fun e => !s.selected x e else []

/-- The rounding mode: E1.rm, or the destination view's (R139). -/
def rmOf (x : Option VExt) (d : View) : Rm := Rm.ofField (match x with | some x => x.rm.val | none => d.rm)

/-- The saturate bit. -/
def satOf (x : Option VExt) : Bool := x.any (·.sat)

/-- nf -/
def nfOf (x : Option VExt) : Bool := x.any (·.nf)

/-- bs -/
def bsOf (x : Option VExt) : Bool := x.any (·.bs)

/-- imm11, unsigned. -/
def immOf (x : Option VExt) : Nat := (x.map fun x => x.imm.toNat).getD 0

/-- The vector scalar that a field names. -/
def State.vs (s : State) (r : VReg) : Word := s.ctx.vx.vs.toList.getD (r.val % 8) 0

/-- E1's word is present. -/
def extLen (x : Option VExt) : Nat := if x.isSome then 1 else 0

/-- What an instruction's predicate depends on. -/
def State.maskDep (s : State) (x : Option VExt) : Dep :=
  match x with
  | some x => if x.pe then s.predDep x.pm else .clean
  | none => .clean

/-- Runs a VX instruction, which reads its predicate and the byte ranges of the RS window given. -/
def State.runV (s : State) (sy : Sync) (x : Option VExt) (reads : State → List (Nat × Nat)) (body : State → Eff) :
    Host.Outcome State Fault Refusal :=
  s.run .vx sy (extLen x) .run (fun u => ⟨u.maskDep x, reads u, []⟩) body

/-- A VX instruction's results: element writes and flags by element. -/
structure VOut where
  writes : List BitWrite
  flags : List (Nat × BitVec 5)

/-- Makes the results, or faults with the first VIEW fault (R133, R140). -/
def State.vfinish (s : State) (x : Option VExt) (fault : Option Word) (out : Unit → VOut) : Eff :=
  match fault with
  | some v => .trap cVIEW v
  | none =>
    let o := out ()
    match State.writeBits .vx s o.writes with
    | none => .stay (s.waitBits .vx o.writes)
    | some s => .fin (s.raiseLanes (nfOf x) o.flags)

/-! ## Element-wise forms -/

/-- A source of an element-wise form: its view and the types it allows. -/
structure Src where
  r : VReg
  ok : ElemTy → Bool

/-- An element-wise form: va, vb or a scalar, and vc. -/
structure Form where
  x : Option VExt
  vd : VReg
  dok : ElemTy → Bool
  srcs : List Src
  readsDst : Bool

/-- The faults of an element-wise form in the order vd, va, vb, vc. -/
def State.formFault (s : State) (f : Form) : Option Word :=
  firstFault ((f.vd, f.dok) :: f.srcs.map (fun q => (q.r, q.ok)) |>.map fun q => s.viewFault q.1 q.2 s.vl s.named)

/-- What an element-wise form reads. -/
def State.formReads (s : State) (f : Form) : List (Nat × Nat) :=
  ((if f.readsDst then [f.vd] else []) ++ f.srcs.map (·.r)).flatMap fun r => s.elemsAt r (s.actives f.x)

/-- Runs an element-wise form; `f` computes an element's bits and flags. -/
def State.runForm (s : State) (sy : Sync) (m : Form) (f : State → Nat → Nat × BitVec 5) : Host.Outcome State Fault Refusal :=
  s.runV sy m.x (·.formReads m) fun u => u.vfinish m.x (u.formFault m) fun _ =>
    let d := u.view m.vd
    let r := (u.actives m.x).map fun e => (e, f u e)
    { writes := r.map (fun e => d.put e.1 e.2.1) ++ (u.cleared m.x).map (fun e => d.put e 0)
      flags := r.map fun e => (e.1, e.2.2) }

/-- Runs a compare: it writes predicate `pd` (R145, R147). -/
def State.runCompare (s : State) (sy : Sync) (x : Option VExt) (pd : PReg) (srcs : List Src) (f : State → Nat → Bool) :
    Host.Outcome State Fault Refusal :=
  s.run .vx sy (extLen x) .run (fun u =>
      ⟨(u.maskDep x).or (u.predDep pd), srcs.flatMap fun q => u.elemsAt q.r (u.actives x), []⟩) fun u =>
    match firstFault (srcs.map fun q => u.viewFault q.r q.ok u.vl u.named) with
    | some v => .trap cVIEW v
    | none =>
      let put (p : BitVec 1024) (e : Nat) (b : Bool) : BitVec 1024 :=
        if b then p ||| BitVec.ofNat 1024 (2 ^ e) else p &&& ~~~(BitVec.ofNat 1024 (2 ^ e))
      let p := (u.actives x).foldl (fun p e => put p e (f u e)) (u.pr pd)
      .fin (u.setP .vx pd ((u.cleared x).foldl (fun p e => put p e false) p))

/-- The vb operand of element `e`: the scalar's low bits at the width of `t`, or the element (R141). -/
def State.vbBits (s : State) (x : Option VExt) (vb : VReg) (t : ElemTy) (e : Nat) : Nat :=
  if bsOf x then (s.vs vb).toNat % 2 ^ bitsOf t else s.elem (s.view vb) e

/-- The type by which the vb operand is read. -/
def State.vbTy (s : State) (x : Option VExt) (vb : VReg) (t : ElemTy) : ElemTy := if bsOf x then t else (s.view vb).ty

/-- An unsigned amount of element `e`: the element's bits, or the whole scalar (R141). -/
def State.vbAmount (s : State) (x : Option VExt) (vb : VReg) (e : Nat) : Nat :=
  if bsOf x then (s.vs vb).toNat else s.elem (s.view vb) e

/-- The source vb, unless it is a scalar. -/
def vbSrc (x : Option VExt) (vb : VReg) (ok : ElemTy → Bool) : List Src := if bsOf x then [] else [⟨vb, ok⟩]

end Sys2Proof.Machine
end

