-- ==== Sys2Proof/Machine/VxSys.lean ====
section
/-!
DEFINITION. The system forms of VX (06_registers R142).
-/

namespace Sys2Proof.Machine

/-- `VNOP` -/
def execVnop (sy : Sync) (s : State) := s.run .vx sy 0 .run (fun _ => .none) Eff.fin

/-- A stream that has ended (R28, R119). -/
def State.stopStream (s : State) (t : Stream) : State := s.mapStr t fun x => { x with busy := false }

/-- `VEND` -/
def execVend (sy : Sync) (s : State) := s.run .vx sy 0 .spec (fun _ => .none) fun u => .fin (u.stopStream .vx)

/-- Writes a vector scalar. -/
def State.setVs (s : State) (r : VsReg) (w : Word) : State := s.mapVx fun v => { v with vs := v.vs.set r w }

/-- The mark that a dependent write of VL or of a view leaves (R194). -/
def State.taintVl (s : State) : State := s.mapCtx fun c => c.mapEpochs (c.dep .vx) fun e => { e with vlTaint := true }

/-- The mark of a dependent view write. -/
def State.taintView (s : State) : State := s.mapCtx fun c => c.mapEpochs (c.dep .vx) fun e => { e with viewTaint := true }

/-- `VPQ` -/
def execVpq (sy : Sync) (vsd : VsReg) (s : State) :=
  s.run .vx sy 0 .run (fun u => ⟨u.queueDep 2, [], []⟩) fun u =>
    match (u.ctx.queues[2]).peek with
    | none => .wait
    | some w => .fin ((u.popQ .vx 2).setVs vsd w)

/-- `VSETVL` -/
def execVsetvl (sy : Sync) (vsd vsa : VsReg) (s : State) :=
  s.run .vx sy 0 .run (fun _ => .none) fun u =>
    let n := min (u.ctx.vx.vs[vsa]).toNat 1024
    .fin (((u.mapVx fun v => { v with vl := n }).setVs vsd (BitVec.ofNat 64 n)).taintVl)

/-- `VFLGR` -/
def execVflgr (sy : Sync) (vd : VReg) (s : State) :=
  s.run .vx sy 0 .run (fun _ => .none) fun u =>
    let d := u.view vd
    u.vfinish none (u.viewFault vd isInt 128 (List.range 128)) fun _ =>
      { writes := (List.range 128).map (fun l => d.put l (u.ctx.vx.flags.toList.getD l 0).toNat), flags := [] }

/-- `VFLGC` -/
def execVflgc (sy : Sync) (s : State) := s.run .vx sy 0 .run (fun _ => .none) fun u => .fin u.clearLanes

/-- A descriptor that `VVIEW` accepts (R142, R177). -/
def View.valid (v : View) : Bool :=
  decide (v.mbz = 0) && decide (v.ty ≠ .invalid) && decide (v.rm ≤ 4) &&
  (if v.tile then
     decide (v.base % 64 = 0) &&
     (if v.ty = .qs4 then
        decide (v.base % 128 = 0) && decide (v.pitch % 128 = 0) && (decide (v.rows = 1) || decide (128 * v.cols ≤ v.pitch))
      else decide (v.rows = 1) || decide ((v.cols * v.size + 7) / 8 ≤ v.pitch))
   else decide (v.ty ≠ .qs4) || decide (v.base % 128 = 0))

/-- `VVIEW` -/
def execVview (sy : Sync) (vd : VReg) (vsa : VsReg) (s : State) :=
  s.run .vx sy 0 .run (fun _ => .none) fun u =>
    let w := u.ctx.vx.vs[vsa]
    if (View.ofWord w).valid then .fin ((u.mapVx fun v => { v with v := v.v.set vd w }).taintView)
    else .trap cVIEW (viewVal vd rDESC)

/-- `VGETV` -/
def execVgetv (sy : Sync) (vsd : VsReg) (va : VReg) (s : State) :=
  s.run .vx sy 0 .run (fun _ => .none) fun u => .fin (u.setVs vsd (u.ctx.vx.v[va]))

end Sys2Proof.Machine
end

