-- ==== Sys2Proof/Machine/VxFloat.lean ====
section
/-!
DEFINITION. Floating-point arithmetic, functions and compares of VX (06_registers R143 to R145).
-/

namespace Sys2Proof.Machine

/-! ## Binary and fused forms (R143) -/

/-- Rounds an exact result that no NaN operand made: a NaN made here raises NV. -/
def settle (v : Val × BitVec 5) (t : ElemTy) (rm : Rm) (sat : Bool) : Nat × BitVec 5 :=
  let r := roundToFormat v.1 t rm sat
  (r.1, r.2 ||| v.2)

/-- Some operand is NaN. -/
def anyNaN (l : List Val) : Bool := l.any fun v => decide (v = .nan)

/-- A binary operation of exact values under `rm`, with flags. -/
abbrev BinFn := Val → Val → Rm → Val × BitVec 5

/-- Runs a binary form. -/
def State.fbin (s : State) (sy : Sync) (vd va vb : VReg) (x : Option VExt) (nanRule : Bool) (f : BinFn) :
    Host.Outcome State Fault Refusal :=
  s.runForm sy { x := x, vd := vd, dok := isFloat, srcs := ⟨va, isFloat⟩ :: vbSrc x vb isFloat, readsDst := false } fun u e =>
    let d := u.view vd
    let ta := (u.view va).ty
    let a := valueOf ta (u.elem (u.view va) e)
    let b := valueOf (u.vbTy x vb ta) (u.vbBits x vb ta e)
    let rm := rmOf x d
    if nanRule && anyNaN [a, b] then roundToFormat .nan d.ty rm (satOf x) else settle (f a b rm) d.ty rm (satOf x)

/-- `FADD` -/
def execFadd (sy : Sync) (vd va vb : VReg) (e1 : Option VExt) (s : State) := s.fbin sy vd va vb e1 true fun a b rm => a.add b rm
/-- `FSUB` -/
def execFsub (sy : Sync) (vd va vb : VReg) (e1 : Option VExt) (s : State) :=
  s.fbin sy vd va vb e1 true fun a b rm => a.add b.negate rm
/-- `FMUL` -/
def execFmul (sy : Sync) (vd va vb : VReg) (e1 : Option VExt) (s : State) := s.fbin sy vd va vb e1 true fun a b _ => a.mul b
/-- `FMIN` -/
def execFmin (sy : Sync) (vd va vb : VReg) (e1 : Option VExt) (s : State) :=
  s.fbin sy vd va vb e1 false fun a b _ => (a.minmax false b, 0)
/-- `FMAX` -/
def execFmax (sy : Sync) (vd va vb : VReg) (e1 : Option VExt) (s : State) :=
  s.fbin sy vd va vb e1 false fun a b _ => (a.minmax true b, 0)

/-- A fused value: the product, negated where `np` says so, plus the addend, negated where `nc` does. -/
def fusedVal (np nc : Bool) (a b c : Val) (rm : Rm) : Val × BitVec 5 :=
  let p := a.mul b
  if p.1 = .nan then p else (if np then p.1.negate else p.1).add (if nc then c.negate else c) rm

/-- Runs a fused form. -/
def State.ffused (s : State) (sy : Sync) (vd va vb : VReg) (x : VExt) (np nc : Bool) : Host.Outcome State Fault Refusal :=
  s.runForm sy { x := some x, vd := vd, dok := isFloat
                 srcs := ⟨va, isFloat⟩ :: vbSrc (some x) vb isFloat ++ [⟨x.vc, isFloat⟩], readsDst := false } fun u e =>
    let d := u.view vd
    let ta := (u.view va).ty
    let a := valueOf ta (u.elem (u.view va) e)
    let b := valueOf (u.vbTy (some x) vb ta) (u.vbBits (some x) vb ta e)
    let c := valueOf (u.view x.vc).ty (u.elem (u.view x.vc) e)
    let rm := rmOf (some x) d
    if anyNaN [a, b, c] then roundToFormat .nan d.ty rm x.sat else settle (fusedVal np nc a b c rm) d.ty rm x.sat

/-- `FMA` -/
def execFma (sy : Sync) (vd va vb : VReg) (e1 : VExt) (s : State) := s.ffused sy vd va vb e1 false false
/-- `FMS` -/
def execFms (sy : Sync) (vd va vb : VReg) (e1 : VExt) (s : State) := s.ffused sy vd va vb e1 false true
/-- `FNMA` -/
def execFnma (sy : Sync) (vd va vb : VReg) (e1 : VExt) (s : State) := s.ffused sy vd va vb e1 true false

/-! ## Unary forms (R144) -/

/-- Runs a unary form; `f` computes bits and flags from the operand's bits, its type, and the destination. -/
def State.funary (s : State) (sy : Sync) (vd va : VReg) (x : Option VExt) (f : Nat → ElemTy → View → Nat × BitVec 5) :
    Host.Outcome State Fault Refusal :=
  s.runForm sy { x := x, vd := vd, dok := isFloat, srcs := [⟨va, isFloat⟩], readsDst := false } fun u e =>
    f (u.elem (u.view va) e) (u.view va).ty (u.view vd)

/-- Runs a form that changes the value and converts it. -/
def State.fmap (s : State) (sy : Sync) (vd va : VReg) (x : Option VExt) (f : Val → Rm → Val) : Host.Outcome State Fault Refusal :=
  s.funary sy vd va x fun a t d => roundToFormat (f (valueOf t a) (rmOf x d)) d.ty (rmOf x d) (satOf x)

/-- `FABS` -/
def execFabs (sy : Sync) (vd va : VReg) (e1 : Option VExt) (s : State) := s.fmap sy vd va e1 fun v _ => v.abs
/-- `FNEG` -/
def execFneg (sy : Sync) (vd va : VReg) (e1 : Option VExt) (s : State) := s.fmap sy vd va e1 fun v _ => v.negate

/-- A value rounded to an integer; a zero keeps the operand's sign. -/
def Val.toIntegral (v : Val) (rm : Rm) : Val :=
  match v with
  | .num q =>
    let n := (roundRat rm q).1
    if n = 0 then .zero (decide (q < 0)) else .num ((n : Int) : Rat)
  | v => v

/-- `FRND` -/
def execFrnd (sy : Sync) (vd va : VReg) (e1 : Option VExt) (s : State) := s.fmap sy vd va e1 fun v rm => v.toIntegral rm

/-- Runs a function rounded by RNE. -/
def State.ffun (s : State) (sy : Sync) (vd va : VReg) (x : Option VExt) (f : UFn) : Host.Outcome State Fault Refusal :=
  s.funary sy vd va x fun a t d => f.round (valueOf t a) d.ty (satOf x)

/-- `FRCP` -/
def execFrcp (sy : Sync) (vd va : VReg) (e1 : Option VExt) (s : State) := s.ffun sy vd va e1 .rcp
/-- `FRSQ` -/
def execFrsq (sy : Sync) (vd va : VReg) (e1 : Option VExt) (s : State) := s.ffun sy vd va e1 .rsq
/-- `FSQRT` -/
def execFsqrt (sy : Sync) (vd va : VReg) (e1 : Option VExt) (s : State) := s.ffun sy vd va e1 .sqrt
/-- `FEXP2` -/
def execFexp2 (sy : Sync) (vd va : VReg) (e1 : Option VExt) (s : State) := s.ffun sy vd va e1 .exp2
/-- `FLOG2` -/
def execFlog2 (sy : Sync) (vd va : VReg) (e1 : Option VExt) (s : State) := s.ffun sy vd va e1 .log2
/-- `FSIN` -/
def execFsin (sy : Sync) (vd va : VReg) (e1 : Option VExt) (s : State) := s.ffun sy vd va e1 .sin
/-- `FCOS` -/
def execFcos (sy : Sync) (vd va : VReg) (e1 : Option VExt) (s : State) := s.ffun sy vd va e1 .cos

/-! ## Compares (R145) -/

/-- Runs a floating-point compare. -/
def State.fcompare (s : State) (sy : Sync) (pd : PReg) (va vb : VReg) (x : Option VExt) (f : Val → Val → Bool) :
    Host.Outcome State Fault Refusal :=
  s.runCompare sy x pd (⟨va, isFloat⟩ :: vbSrc x vb isFloat) fun u e =>
    let ta := (u.view va).ty
    f (valueOf ta (u.elem (u.view va) e)) (valueOf (u.vbTy x vb ta) (u.vbBits x vb ta e))

/-- `FEQ` -/
def execFeq (sy : Sync) (pd : PReg) (va vb : VReg) (e1 : Option VExt) (s : State) := s.fcompare sy pd va vb e1 fun a b => a.eqN b
/-- `FNE` -/
def execFne (sy : Sync) (pd : PReg) (va vb : VReg) (e1 : Option VExt) (s : State) := s.fcompare sy pd va vb e1 fun a b => !a.eqN b
/-- `FLT` -/
def execFlt (sy : Sync) (pd : PReg) (va vb : VReg) (e1 : Option VExt) (s : State) := s.fcompare sy pd va vb e1 fun a b => a.ltN b
/-- `FLE` -/
def execFle (sy : Sync) (pd : PReg) (va vb : VReg) (e1 : Option VExt) (s : State) :=
  s.fcompare sy pd va vb e1 fun a b => a.ltN b || a.eqN b
/-- `FUN` -/
def execFun (sy : Sync) (pd : PReg) (va vb : VReg) (e1 : Option VExt) (s : State) := s.fcompare sy pd va vb e1 fun a b => anyNaN [a, b]

end Sys2Proof.Machine
end

