-- ==== Sys2Proof/Machine/VxInt.lean ====
section
/-!
DEFINITION. Integer arithmetic, compares, bit fields and bit counts of VX (06_registers R146 to R148).
-/

namespace Sys2Proof.Machine

/-! ## Arithmetic (R146) -/

/-- The signed value of `w` bits. -/
def signedOf (w n : Nat) : Int := (BitVec.ofNat w n).toInt

/-- The value of `n` by a type's signedness. -/
def byType (t : ElemTy) (n : Nat) : Int := if isSigned t then signedOf (bitsOf t) n else n

/-- The bits of an exact integer result: clamped to the type's range, or wrapped. -/
def intOut (t : ElemTy) (sat : Bool) (n : Int) : Nat := intBits t (if sat then clampInt t n else n)

/-- Runs an integer form whose vd, va and vb view have one class I type; `f` takes the type and the bits. The type is va's: where another
view's differs, that view is blamed, and vd where va has no such type (R146 does not say which; log entry 27). -/
def State.ibin (s : State) (sy : Sync) (vd va vb : VReg) (x : Option VExt) (f : ElemTy → Nat → Nat → Nat) :
    Host.Outcome State Fault Refusal :=
  let t := (s.view va).ty
  let ok (q : ElemTy) : Bool := isInt q && decide (q = t)
  s.runForm sy { x := x, vd := vd, dok := ok, srcs := ⟨va, ok⟩ :: vbSrc x vb ok, readsDst := false } fun u e =>
    (f t (u.elem (u.view va) e) (u.vbBits x vb t e), 0)

/-- Runs a shift: its amount may have any class I type. -/
def State.ishift (s : State) (sy : Sync) (vd va vb : VReg) (x : Option VExt) (f : ElemTy → Nat → Nat → Nat) :
    Host.Outcome State Fault Refusal :=
  let t := (s.view va).ty
  let ok (q : ElemTy) : Bool := isInt q && decide (q = t)
  s.runForm sy { x := x, vd := vd, dok := ok, srcs := ⟨va, ok⟩ :: vbSrc x vb isInt, readsDst := false } fun u e =>
    (f t (u.elem (u.view va) e) (u.vbAmount x vb e % bitsOf t), 0)

/-- `IADD` -/
def execIadd (sy : Sync) (vd va vb : VReg) (e1 : Option VExt) (s : State) :=
  s.ibin sy vd va vb e1 fun t a b => intOut t (satOf e1) (byType t a + byType t b)
/-- `ISUB` -/
def execIsub (sy : Sync) (vd va vb : VReg) (e1 : Option VExt) (s : State) :=
  s.ibin sy vd va vb e1 fun t a b => intOut t (satOf e1) (byType t a - byType t b)
/-- `IMUL` -/
def execImul (sy : Sync) (vd va vb : VReg) (e1 : Option VExt) (s : State) :=
  s.ibin sy vd va vb e1 fun t a b => intOut t (satOf e1) (byType t a * byType t b)
/-- `IMULH` -/
def execImulh (sy : Sync) (vd va vb : VReg) (e1 : Option VExt) (s : State) :=
  s.ibin sy vd va vb e1 fun t a b => intBits t (signedOf (bitsOf t) a * signedOf (bitsOf t) b / 2 ^ bitsOf t)
/-- `IMULHU` -/
def execImulhu (sy : Sync) (vd va vb : VReg) (e1 : Option VExt) (s : State) :=
  s.ibin sy vd va vb e1 fun t a b => a * b / 2 ^ bitsOf t
/-- `IMIN` -/
def execImin (sy : Sync) (vd va vb : VReg) (e1 : Option VExt) (s : State) :=
  s.ibin sy vd va vb e1 fun t a b => if signedOf (bitsOf t) a < signedOf (bitsOf t) b then a else b
/-- `IMAX` -/
def execImax (sy : Sync) (vd va vb : VReg) (e1 : Option VExt) (s : State) :=
  s.ibin sy vd va vb e1 fun t a b => if signedOf (bitsOf t) a < signedOf (bitsOf t) b then b else a
/-- `IMINU` -/
def execIminu (sy : Sync) (vd va vb : VReg) (e1 : Option VExt) (s : State) := s.ibin sy vd va vb e1 fun _ a b => min a b
/-- `IMAXU` -/
def execImaxu (sy : Sync) (vd va vb : VReg) (e1 : Option VExt) (s : State) := s.ibin sy vd va vb e1 fun _ a b => max a b
/-- `IAND` -/
def execIand (sy : Sync) (vd va vb : VReg) (e1 : Option VExt) (s : State) := s.ibin sy vd va vb e1 fun _ a b => a &&& b
/-- `IOR` -/
def execIor (sy : Sync) (vd va vb : VReg) (e1 : Option VExt) (s : State) := s.ibin sy vd va vb e1 fun _ a b => a ||| b
/-- `IXOR` -/
def execIxor (sy : Sync) (vd va vb : VReg) (e1 : Option VExt) (s : State) := s.ibin sy vd va vb e1 fun _ a b => a ^^^ b
/-- `ISHL` -/
def execIshl (sy : Sync) (vd va vb : VReg) (e1 : Option VExt) (s : State) :=
  s.ishift sy vd va vb e1 fun t a n => intOut t (satOf e1) (byType t a * 2 ^ n)
/-- `ISHR` -/
def execIshr (sy : Sync) (vd va vb : VReg) (e1 : Option VExt) (s : State) := s.ishift sy vd va vb e1 fun _ a n => a / 2 ^ n
/-- `ISRA` -/
def execIsra (sy : Sync) (vd va vb : VReg) (e1 : Option VExt) (s : State) :=
  s.ishift sy vd va vb e1 fun t a n => intBits t (signedOf (bitsOf t) a / 2 ^ n)
/-- `IADDS` -/
def execIadds (sy : Sync) (vd va vb : VReg) (e1 : Option VExt) (s : State) :=
  s.ibin sy vd va vb e1 fun t a b => intOut t true (byType t a + byType t b)
/-- `ISUBS` -/
def execIsubs (sy : Sync) (vd va vb : VReg) (e1 : Option VExt) (s : State) :=
  s.ibin sy vd va vb e1 fun t a b => intOut t true (byType t a - byType t b)

/-- Runs a unary integer form whose vd and va have one class I type. -/
def State.iunary (s : State) (sy : Sync) (vd va : VReg) (x : Option VExt) (f : ElemTy → Nat → Nat) :
    Host.Outcome State Fault Refusal :=
  let t := (s.view va).ty
  let ok (q : ElemTy) : Bool := isInt q && decide (q = t)
  s.runForm sy { x := x, vd := vd, dok := ok, srcs := [⟨va, ok⟩], readsDst := false } fun u e => (f t (u.elem (u.view va) e), 0)

/-- `IABS` -/
def execIabs (sy : Sync) (vd va : VReg) (e1 : Option VExt) (s : State) :=
  s.iunary sy vd va e1 fun t a => intOut t (satOf e1) (byType t a).natAbs

/-! ## Compares (R147) -/

/-- Runs an integer compare. -/
def State.icompare (s : State) (sy : Sync) (pd : PReg) (va vb : VReg) (x : Option VExt) (f : Nat → Nat → Nat → Bool) :
    Host.Outcome State Fault Refusal :=
  let t := (s.view va).ty
  let ok (q : ElemTy) : Bool := isInt q && decide (q = t)
  s.runCompare sy x pd (⟨va, ok⟩ :: vbSrc x vb ok) fun u e => f (bitsOf t) (u.elem (u.view va) e) (u.vbBits x vb t e)

/-- `IEQ` -/
def execIeq (sy : Sync) (pd : PReg) (va vb : VReg) (e1 : Option VExt) (s : State) :=
  s.icompare sy pd va vb e1 fun _ a b => decide (a = b)
/-- `INE` -/
def execIne (sy : Sync) (pd : PReg) (va vb : VReg) (e1 : Option VExt) (s : State) :=
  s.icompare sy pd va vb e1 fun _ a b => decide (a ≠ b)
/-- `ILT` -/
def execIlt (sy : Sync) (pd : PReg) (va vb : VReg) (e1 : Option VExt) (s : State) :=
  s.icompare sy pd va vb e1 fun w a b => decide (signedOf w a < signedOf w b)
/-- `IGE` -/
def execIge (sy : Sync) (pd : PReg) (va vb : VReg) (e1 : Option VExt) (s : State) :=
  s.icompare sy pd va vb e1 fun w a b => decide (signedOf w b ≤ signedOf w a)
/-- `ILTU` -/
def execIltu (sy : Sync) (pd : PReg) (va vb : VReg) (e1 : Option VExt) (s : State) :=
  s.icompare sy pd va vb e1 fun _ a b => decide (a < b)
/-- `IGEU` -/
def execIgeu (sy : Sync) (pd : PReg) (va vb : VReg) (e1 : Option VExt) (s : State) :=
  s.icompare sy pd va vb e1 fun _ a b => decide (b ≤ a)

/-! ## Bit fields (R148) -/

/-- INT32 or UINT32. -/
def is32 (t : ElemTy) : Bool := decide (t = .int32) || decide (t = .uint32)

/-- The field's offset and width. -/
def fieldOff (x : VExt) : Nat := x.imm.toNat / 2 ^ 5 % 2 ^ 5
/-- The field's width; 0 means 32. -/
def fieldWidth (x : VExt) : Nat := if x.imm.toNat % 2 ^ 5 = 0 then 32 else x.imm.toNat % 2 ^ 5

/-- Runs a bit-field form; `f` takes va's and vd's bits. -/
def State.field (s : State) (sy : Sync) (vd va : VReg) (x : VExt) (readsDst : Bool) (f : Nat → Nat → Nat) :
    Host.Outcome State Fault Refusal :=
  s.runForm sy { x := some x, vd := vd, dok := is32, srcs := [⟨va, is32⟩], readsDst := readsDst } fun u e =>
    (f (u.elem (u.view va) e) (u.elem (u.view vd) e), 0)

/-- The bits [off+w−1:off] of a value. -/
def bitField (n off w : Nat) : Nat := n / 2 ^ off % 2 ^ w

/-- `BFX` -/
def execBfx (sy : Sync) (vd va : VReg) (e1 : VExt) (s : State) :=
  s.field sy vd va e1 false fun a _ =>
    ((signedOf (fieldWidth e1) (bitField a (fieldOff e1) (fieldWidth e1))) % 2 ^ 32).toNat
/-- `BFXU` -/
def execBfxu (sy : Sync) (vd va : VReg) (e1 : VExt) (s : State) :=
  s.field sy vd va e1 false fun a _ => bitField a (fieldOff e1) (fieldWidth e1)
/-- `BFI` -/
def execBfi (sy : Sync) (vd va : VReg) (e1 : VExt) (s : State) :=
  s.field sy vd va e1 true fun a d =>
    d - bitField d (fieldOff e1) (fieldWidth e1) * 2 ^ fieldOff e1 + a % 2 ^ fieldWidth e1 * 2 ^ fieldOff e1

/-- Runs a funnel shift; `f` takes va's and vd's bits and the amount. -/
def State.funnel (s : State) (sy : Sync) (vd va vb : VReg) (x : Option VExt) (f : Nat → Nat → Nat → Nat) :
    Host.Outcome State Fault Refusal :=
  s.runForm sy { x := x, vd := vd, dok := is32, srcs := ⟨va, is32⟩ :: vbSrc x vb isInt, readsDst := true } fun u e =>
    (f (u.elem (u.view va) e) (u.elem (u.view vd) e) (u.vbAmount x vb e % 32), 0)

/-- `FSHL` -/
def execFshl (sy : Sync) (vd va vb : VReg) (e1 : Option VExt) (s : State) :=
  s.funnel sy vd va vb e1 fun a d n => (d * 2 ^ 32 + a) * 2 ^ n / 2 ^ 32 % 2 ^ 32
/-- `FSHR` -/
def execFshr (sy : Sync) (vd va vb : VReg) (e1 : Option VExt) (s : State) :=
  s.funnel sy vd va vb e1 fun a d n => (a * 2 ^ 32 + d) / 2 ^ n % 2 ^ 32

/-- The low `w` bits reversed. -/
def reverseBits : Nat → Nat → Nat
  | 0, _ => 0
  | w + 1, n => n % 2 * 2 ^ w + reverseBits w (n / 2)

/-- `POPCV` -/
def execPopcv (sy : Sync) (vd va : VReg) (e1 : Option VExt) (s : State) :=
  s.iunary sy vd va e1 fun t a => popcount (BitVec.ofNat 64 a) (bitsOf t)
/-- `CLZV` -/
def execClzv (sy : Sync) (vd va : VReg) (e1 : Option VExt) (s : State) :=
  s.iunary sy vd va e1 fun t a => leadingZeros (BitVec.ofNat 64 a) (bitsOf t)
/-- `BREVV` -/
def execBrevv (sy : Sync) (vd va : VReg) (e1 : Option VExt) (s : State) := s.iunary sy vd va e1 fun t a => reverseBits (bitsOf t) a

end Sys2Proof.Machine
end

