-- ==== Sys2Proof/Machine/VxMove.lean ====
section
/-!
DEFINITION. Moves, permutations, reductions and scans of VX (06_registers R153, R154).
-/

namespace Sys2Proof.Machine

/-- A type of a given element size that moves allow (R153). -/
def sameSize (n : Nat) (t : ElemTy) : Bool := decide (t ≠ .qs4) && decide (t ≠ .invalid) && decide (bitsOf t = n)

/-- Any type but QS4. -/
def anyType (t : ElemTy) : Bool := decide (t ≠ .qs4) && decide (t ≠ .invalid)

/-- A source operand of a move: its view, how many elements it must have, and the elements read. -/
structure MoveSrc where
  r : VReg
  ok : ElemTy → Bool
  need : Nat
  elems : List Nat

/-- Runs a move: `srcs` says what it reads, `f` the values written to elements of vd. -/
def State.runMove (s : State) (sy : Sync) (x : Option VExt) (vd : VReg) (dok : State → ElemTy → Bool)
    (srcs : State → List MoveSrc) (f : State → List (Nat × Nat)) : Host.Outcome State Fault Refusal :=
  s.runV sy x (fun u => (srcs u).flatMap fun q => u.elemsAt q.r q.elems) fun u =>
    u.vfinish x
      (firstFault (u.viewFault vd (dok u) u.vl u.named :: (srcs u).map fun q => u.viewFault q.r q.ok q.need q.elems)) fun _ =>
      { writes := (f u).map fun e => (u.view vd).put e.1 e.2, flags := [] }

/-- A type of the element size of `vd` (R153). -/
def State.sizeOf (s : State) (vd : VReg) : ElemTy → Bool := sameSize (s.view vd).size

/-- Zeros for the inactive elements below VL, where pz says so. -/
def State.zeros (s : State) (x : Option VExt) : List (Nat × Nat) := (s.cleared x).map fun e => (e, 0)

/-- `VMOV` -/
def execVmov (sy : Sync) (vd va : VReg) (e1 : Option VExt) (s : State) :=
  s.runMove sy e1 vd (fun _ => anyType) (fun u => [⟨va, u.sizeOf vd, u.vl, u.named⟩]) fun u =>
    (u.actives e1).map (fun e => (e, u.elem (u.view va) e)) ++ u.zeros e1

/-- `VSEL` -/
def execVsel (sy : Sync) (vd va vb : VReg) (e1 : Option VExt) (s : State) :=
  s.runMove sy e1 vd (fun _ => anyType)
    (fun u => ⟨va, u.sizeOf vd, u.vl, u.named⟩ :: if bsOf e1 then [] else [⟨vb, u.sizeOf vd, u.vl, u.named⟩]) fun u =>
    u.named.map fun e => (e, if u.selected e1 e then u.elem (u.view va) e else u.vbBits e1 vb (u.view va).ty e)

/-- `VBCST` -/
def execVbcst (sy : Sync) (vd va vb : VReg) (e1 : Option VExt) (s : State) :=
  s.runMove sy e1 vd (fun _ => anyType)
    (fun u => if bsOf e1 then [] else [⟨va, u.sizeOf vd, immOf e1 + 1, [immOf e1]⟩]) fun u =>
    let v := if bsOf e1 then (u.vs vb).toNat else u.elem (u.view va) (immOf e1)
    (u.actives e1).map (fun e => (e, v)) ++ u.zeros e1

/-- `VIDX` -/
def execVidx (sy : Sync) (vd : VReg) (e1 : Option VExt) (s : State) :=
  s.runMove sy e1 vd (fun _ => isInt) (fun _ => []) fun u =>
    (u.actives e1).map (fun e => (e, immOf e1 + e)) ++ u.zeros e1

/-- Indices that a `VPERM` uses. -/
def State.permIndices (s : State) (x : Option VExt) (va vb : VReg) : List Nat :=
  ((s.actives x).map fun e => s.elem (s.view vb) e).filter fun i => decide (i < (s.view va).len)

/-- `VPERM` -/
def execVperm (sy : Sync) (vd va vb : VReg) (e1 : Option VExt) (s : State) :=
  s.runMove sy e1 vd (fun _ => anyType)
    (fun u => [⟨va, u.sizeOf vd, 0, u.permIndices e1 va vb⟩, ⟨vb, isInt, u.vl, u.named⟩]) fun u =>
    (u.actives e1).map (fun e =>
      let i := u.elem (u.view vb) e
      (e, if i < (u.view va).len then u.elem (u.view va) i else 0)) ++ u.zeros e1

/-- `VCMPRS` -/
def execVcmprs (sy : Sync) (vd va : VReg) (e1 : Option VExt) (s : State) :=
  s.runMove sy e1 vd (fun _ => anyType) (fun u => [⟨va, u.sizeOf vd, u.vl, u.named⟩]) fun u =>
    let l := (u.actives e1).map fun e => u.elem (u.view va) e
    let rest := if e1.any (·.pz) then (u.named.drop l.length).map fun e => (e, 0) else []
    (l.zipIdx.map fun q => (q.2, q.1)) ++ rest

/-- `VEXPND` -/
def execVexpnd (sy : Sync) (vd va : VReg) (e1 : Option VExt) (s : State) :=
  s.runMove sy e1 vd (fun _ => anyType)
    (fun u => [⟨va, u.sizeOf vd, (u.actives e1).length, List.range (u.actives e1).length⟩]) fun u =>
    ((u.actives e1).zipIdx.map fun q => (q.1, u.elem (u.view va) q.2)) ++ u.zeros e1

/-- The slide amount (R153). -/
def State.slide (s : State) (x : Option VExt) (vb : VReg) : Nat :=
  match x with
  | none => 1
  | some x => if x.bs then (s.vs vb).toNat else x.imm.toNat

/-- `VSLDN` -/
def execVsldn (sy : Sync) (vd va vb : VReg) (e1 : Option VExt) (s : State) :=
  s.runMove sy e1 vd (fun _ => anyType) (fun u => [⟨va, u.sizeOf vd, u.vl, u.named⟩]) fun u =>
    let n := u.slide e1 vb
    (u.actives e1).map (fun e => (e, if e + n < u.vl then u.elem (u.view va) (e + n) else 0)) ++ u.zeros e1

/-- `VSLUP` -/
def execVslup (sy : Sync) (vd va vb : VReg) (e1 : Option VExt) (s : State) :=
  s.runMove sy e1 vd (fun _ => anyType)
    (fun u => [⟨va, u.sizeOf vd, u.vl - u.slide e1 vb, List.range (u.vl - u.slide e1 vb)⟩]) fun u =>
    let n := u.slide e1 vb
    ((u.actives e1).filter fun e => decide (n ≤ e)).map (fun e => (e, u.elem (u.view va) (e - n))) ++ u.zeros e1

/-! ## Reductions and scans (R154) -/

/-- FP32, FP16 and BF16. -/
def isSumTy (t : ElemTy) : Bool := decide (t = .fp32) || decide (t = .fp16) || decide (t = .bf16)

/-- Runs a reduction: `f` takes the active elements' bits and va's type and vd. -/
def State.reduce (s : State) (sy : Sync) (vd va : VReg) (x : Option VExt) (dok aok : ElemTy → Bool)
    (f : List Nat → ElemTy → View → Nat × BitVec 5) : Host.Outcome State Fault Refusal :=
  s.runV sy x (fun u => u.elemsAt va (u.actives x)) fun u =>
    u.vfinish x (firstFault [u.viewFault vd dok 1 [0], u.viewFault va aok u.vl u.named]) fun _ =>
      let r := f ((u.actives x).map fun e => u.elem (u.view va) e) (u.view va).ty (u.view vd)
      { writes := [(u.view vd).put 0 r.1], flags := [(0, r.2)] }

/-- Runs a scan: `f` takes the active elements' bits up to and with the element. -/
def State.scan (s : State) (sy : Sync) (vd va : VReg) (x : Option VExt) (dok aok : ElemTy → Bool)
    (f : List Nat → ElemTy → View → Nat × BitVec 5) : Host.Outcome State Fault Refusal :=
  s.runForm sy { x := x, vd := vd, dok := dok, srcs := [⟨va, aok⟩], readsDst := false } fun u e =>
    f (((u.actives x).filter fun k => decide (k ≤ e)).map fun k => u.elem (u.view va) k) (u.view va).ty (u.view vd)

/-- The sum of integers by a type's signedness. -/
def intSum (t : ElemTy) (l : List Nat) : Int := l.foldl (fun a n => a + byType t n) 0

/-- `VRADD` -/
def execVradd (sy : Sync) (vd va : VReg) (e1 : Option VExt) (s : State) :=
  s.reduce sy vd va e1 isInt isInt fun l t d => (intBits d.ty (intSum t l), 0)
/-- `VRFADD` -/
def execVrfadd (sy : Sync) (vd va : VReg) (e1 : Option VExt) (s : State) :=
  s.reduce sy vd va e1 isFloat isSumTy fun l t d => exactSum (l.map (valueOf t)) d.ty (rmOf e1 d) (satOf e1)

/-- The least or greatest of integers by a type's signedness. -/
def intPick (max : Bool) (t : ElemTy) (l : List Nat) : Int :=
  match l.map (byType t) with
  | [] => if max then intMin t else intMax t
  | a :: rest => rest.foldl (fun a b => if max then (if a < b then b else a) else (if b < a then b else a)) a

/-- Runs an integer minimum or maximum. -/
def State.reducePick (s : State) (sy : Sync) (vd va : VReg) (x : Option VExt) (max : Bool) : Host.Outcome State Fault Refusal :=
  let ok (q : ElemTy) : Bool := isInt q && decide (q = (s.view va).ty)
  s.reduce sy vd va x ok ok fun l t d => (intBits d.ty (intPick max t l), 0)

/-- `VRMIN` -/
def execVrmin (sy : Sync) (vd va : VReg) (e1 : Option VExt) (s : State) := s.reducePick sy vd va e1 false
/-- `VRMAX` -/
def execVrmax (sy : Sync) (vd va : VReg) (e1 : Option VExt) (s : State) := s.reducePick sy vd va e1 true

/-- Runs a floating-point minimum or maximum. -/
def State.reduceF (s : State) (sy : Sync) (vd va : VReg) (x : Option VExt) (max : Bool) : Host.Outcome State Fault Refusal :=
  s.reduce sy vd va x isFloat isFloat fun l t d =>
    let v := match l.map (valueOf t) with
      | [] => Val.inf max
      | a :: rest => rest.foldl (Val.minmax max) a
    roundToFormat v d.ty (rmOf x d) (satOf x)

/-- `VRFMIN` -/
def execVrfmin (sy : Sync) (vd va : VReg) (e1 : Option VExt) (s : State) := s.reduceF sy vd va e1 false
/-- `VRFMAX` -/
def execVrfmax (sy : Sync) (vd va : VReg) (e1 : Option VExt) (s : State) := s.reduceF sy vd va e1 true

/-- `VSCAN` -/
def execVscan (sy : Sync) (vd va : VReg) (e1 : Option VExt) (s : State) :=
  s.scan sy vd va e1 isInt isInt fun l t d => (intBits d.ty (intSum t l), 0)
/-- `VFSCAN` -/
def execVfscan (sy : Sync) (vd va : VReg) (e1 : Option VExt) (s : State) :=
  s.scan sy vd va e1 isFloat isSumTy fun l t d => exactSum (l.map (valueOf t)) d.ty (rmOf e1 d) (satOf e1)

end Sys2Proof.Machine
end

