-- ==== Sys2Proof/Machine/VxQuant.lean ====
section
/-!
DEFINITION. Conversion and quantisation of VX, and the QS4 sector (03_numbers R56 to R59, 06_registers R149 to
R152).
-/

namespace Sys2Proof.Machine

/-! ## CVT (R149) -/

/-- An element converted between types: equal types copy the bits, but for a NaN (R149). -/
def convert (ta td : ElemTy) (rm : Rm) (sat : Bool) (bits : Nat) : Nat × BitVec 5 :=
  if ta = td ∧ valueOf ta bits ≠ .nan then (bits, 0) else roundToFormat (valueOf ta bits) td rm sat

/-- `CVT` -/
def execCvt (sy : Sync) (vd va : VReg) (e1 : Option VExt) (s : State) :=
  s.runForm sy { x := e1, vd := vd, dok := anyType, srcs := [⟨va, anyType⟩], readsDst := false } fun u e =>
    convert (u.view va).ty (u.view vd).ty (rmOf e1 (u.view vd)) (satOf e1) (u.elem (u.view va) e)

/-! ## QSCALE (R150) -/

/-- A value is NaN or an infinity. -/
def Val.special (v : Val) : Bool :=
  match v with
  | .nan => true
  | .inf _ => true
  | _ => false

/-- The greatest magnitude of finite values. -/
def maxMag (l : List Val) : Rat := l.foldl (fun a v => if a < v.abs.toRat then v.abs.toRat else a) 0

/-- A rational as a value rounded up into a scale. -/
def scaleUp (q : Rat) (t : ElemTy) (sat : Bool) : Nat := (roundToFormat (Val.ofRat q) t .rup sat).1

/-- What `QSCALE` leaves in vd[0], with its flags. -/
def qscaleOf (old : Nat) (l : List Val) : Nat × BitVec 5 :=
  let o := valueOf .bf16 old
  if o = .nan ∨ l.isEmpty ∧ ¬ l.any Val.special then (old, 0)
  else if l.any Val.special then (0x7FC0, fNV)
  else
    let c := scaleUp (maxMag l / 96) .bf16 false
    let above : Bool := match o with
      | .inf n => !n
      | v => decide ((valueOf .bf16 c).toRat < v.toRat) && !(valueOf .bf16 c).special
    (if above then old else c, 0)

/-- `QSCALE` -/
def execQscale (sy : Sync) (vd va : VReg) (e1 : Option VExt) (s : State) :=
  s.runV sy e1 (fun u => u.elemsAt va (u.actives e1) ++ u.elemsAt vd [0]) fun u =>
    u.vfinish e1 (firstFault [u.viewFault vd (fun t => decide (t = .bf16)) 1 [0], u.viewFault va isSumTy u.vl u.named]) fun _ =>
      let t := (u.view va).ty
      let r := qscaleOf (u.elem (u.view vd) 0) ((u.actives e1).map fun e => valueOf t (u.elem (u.view va) e))
      { writes := [(u.view vd).put 0 r.1], flags := [(0, r.2)] }

/-! ## The QS4 sector (R56) -/

/-- Packs nibbles, low first. -/
def packNibbles : List Nat → List Byte
  | a :: b :: rest => BitVec.ofNat 8 (a % 16 + b % 16 * 16) :: packNibbles rest
  | [a] => [BitVec.ofNat 8 (a % 16)]
  | [] => []

/-- The bytes of a sector from its 192 nibbles, 24 scale codes, band field and band index. -/
def sectorBytes (nibs codes : List Nat) (band idx : Nat) : List Byte :=
  let body := packNibbles nibs ++ codes.map (BitVec.ofNat 8) ++ leBytes 2 band ++ leBytes 2 idx
  body ++ leBytes 4 (crc32c body)

/-- A sector's CRC holds (R57). -/
def sectorOk (b : List Byte) : Bool := decide (leValue (b.drop 124) = crc32c (b.take 124))

/-- FP4 element `i` of a sector. -/
def sectorNibble (b : List Byte) (i : Nat) : Nat := (b.getD (i / 2) 0).toNat / 16 ^ (i % 2) % 16

/-- Scale code of the block of element `i`. -/
def sectorCode (b : List Byte) (i : Nat) : Nat := (b.getD (96 + i / 8) 0).toNat

/-- Band field. -/
def sectorBand (b : List Byte) : Nat := leValue ((b.drop 120).take 2)

/-- FP4·E3M5 of element `i`, exactly (R56); a block with scale code 0 gives +0 (R59). -/
def sectorValue (b : List Byte) (i : Nat) : Val :=
  if sectorCode b i = 0 then .zero false
  else ((valueOf .fp4 (sectorNibble b i)).mul (valueOf .e3m5 (sectorCode b i))).1

/-! ## QNT (R151) -/

/-- A quantised block: its scale code, its eight nibbles, its flags, and whether its scale was free. -/
structure QBlock where
  code : Nat
  nibs : List Nat
  flags : BitVec 5
  free : Bool

/-- The block of all zeros. -/
def QBlock.zero : QBlock := ⟨0, List.replicate 8 0, 0, false⟩

/-- A nonnegative magnitude as a value. -/
def magOf (l : List Val) : Val := if l.any fun v => v.special then .inf false else Val.ofRat (maxMag l)

/-- Quantises a block with band scale `band`, `free` being the scale code of a block that holds a NaN, for which the
spec states none (R58, R151; log entry 9). -/
def quantBlock (band : Rat) (free : Nat) (l : List Val) : QBlock :=
  let nan := anyNaN l
  let a := magOf l
  if a = .zero false then .zero
  else
    let raw := if nan then free
      else (match a with
        | .inf _ => (specialInto (.inf false) .e3m5 true).1
        | v => scaleUp (v.toRat / (6 * band)) .e3m5 true)
    let code := max raw 1
    let sc := (valueOf .e3m5 code).toRat
    let es := l.map fun v =>
      match v with
      | .num q => roundToFormat (.num (q / (band * sc))) .fp4 .rne true
      | v => roundToFormat v .fp4 .rne true
    { code := code, nibs := es.map (·.1), flags := es.foldl (fun f e => f ||| (e.2 &&& ~~~fUF)) 0, free := nan }

/-- Splits a list into blocks of eight. -/
def blocksOf : Nat → List Val → List (List Val)
  | 0, _ => []
  | n + 1, l => l.take 8 :: blocksOf n (l.drop 8)

/-- The quantised row of `QNT`: the band field and its blocks. The NV of a bad band scale is raised for each block that holds an
element below VL (log entry 40). -/
def quantRow (b fresh : Nat) (l : List Val) : Nat × List QBlock :=
  let n := (l.length + 191) / 192 * 24
  let blocks := blocksOf n (l ++ List.replicate (n * 8 - l.length) (.zero false))
  let live := (l.length + 7) / 8
  match valueOf .bf16 b with
  | .zero false => (0x3F80, List.replicate n .zero)
  | .num q =>
    if q < 0 then (0x7FC0, blocks.mapIdx fun i _ => { QBlock.zero with flags := if i < live then fNV else 0 })
    else (b, blocks.mapIdx fun i k => quantBlock q (Config.anyByte (fresh + i)).toNat k)
  | .nan => (0x7FC0, List.replicate n .zero)
  | _ => (0x7FC0, blocks.mapIdx fun i _ => { QBlock.zero with flags := if i < live then fNV else 0 })

/-- Writes the sectors of a quantised row. -/
def sectorWrites (base band idx : Nat) (blocks : List QBlock) : Nat → List (Nat × List Byte)
  | 0 => []
  | k + 1 =>
    let mine := (blocks.drop (24 * k)).take 24
    sectorWrites base band idx blocks k ++
      [(base + 128 * k, sectorBytes (mine.map (·.nibs)).flatten (mine.map (·.code)) band idx)]

/-- `QNT` -/
def execQnt (sy : Sync) (vd va vb : VReg) (e1 : Option VExt) (s : State) :=
  let x := e1
  s.runV sy x (fun u => u.elemsAt va u.named ++ if bsOf x then [] else u.elemsAt vb [0]) fun u =>
    let d := u.view vd
    let n := (u.vl + 191) / 192
    let dFault := u.viewFault vd (fun t => decide (t = .qs4)) u.vl []
    let beyond := if dFault.isNone ∧ n ≠ 0 ∧ u.ctx.win.rsSize < d.base + 128 * n then some (viewVal vd rWINDOW) else dFault
    match firstFault ([beyond, u.viewFault va isSumTy u.vl u.named] ++
        if bsOf x then [] else [u.viewFault vb (fun t => decide (t = .bf16)) 1 [0]]) with
    | some v => .trap cVIEW v
    | none =>
      let b := if bsOf x then (u.vs vb).toNat % 2 ^ 16 else u.elem (u.view vb) 0
      let (band, blocks) := quantRow b u.fresh (u.named.map fun e => valueOf (u.view va).ty (u.elem (u.view va) e))
      match u.rsWriteAll .vx (sectorWrites d.base band (immOf x) blocks n) with
      | none => .stay (u.waitWrite .vx ((sectorWrites d.base band (immOf x) blocks n).map fun q => (q.1, 128)))
      | some w =>
        let w := { w with fresh := w.fresh + blocks.length }
        .fin (w.raiseLanes (nfOf x) (blocks.zipIdx.map fun q => (8 * q.2, q.1.flags)))

/-! ## DQNT (R152) -/

/-- The bytes of sector `k` of a QS4 vector view. -/
def State.viewSector (s : State) (v : View) (k : Nat) : List Byte := s.rsGet (v.base + 128 * k) 128

/-- The value of a QS4 element with its band scale (R59). A band scale of an infinity beside a block scale code of 0x00, for which
the rule says both +0 and NaN with NV, gives NaN with NV (log entry 39). -/
def dequant (b : List Byte) (i : Nat) : Val × BitVec 5 :=
  let band := valueOf .bf16 (sectorBand b)
  match band with
  | .nan => (.nan, 0)
  | .inf _ =>
    let e := (valueOf .fp4 (sectorNibble b i)).mul (valueOf .e3m5 (sectorCode b i))
    e.1.mul band
  | v => if sectorCode b i = 0 then (.zero false, 0) else (sectorValue b i).mul v

/-- `DQNT` -/
def execDqnt (sy : Sync) (vd va : VReg) (e1 : Option VExt) (s : State) :=
  let dok (t : ElemTy) : Bool := anyType t && decide (t ≠ .e3m5)
  s.runV sy e1 (fun u => (u.actives e1).map fun e => ((u.view va).base + 128 * (e / 192), 128))
    fun u =>
    let a := u.view va
    let aFault := u.viewFault va (fun t => decide (t = .qs4)) u.vl []
    let top := 128 * ((u.vl + 191) / 192)
    let aFault := if aFault.isNone ∧ top ≠ 0 ∧ u.ctx.win.rsSize < a.base + top then some (viewVal va rWINDOW) else aFault
    match firstFault [u.viewFault vd dok u.vl u.named, aFault] with
    | some v => .trap cVIEW v
    | none =>
      let secs := (List.range ((u.vl + 191) / 192)).filter fun k => (u.actives e1).any fun e => decide (e / 192 = k)
      match secs.find? fun k => !sectorOk (u.viewSector a k) with
      | some k => .trap cPOISON (BitVec.ofNat 64 (a.base + 128 * k))
      | none =>
        u.vfinish e1 none fun _ =>
          let d := u.view vd
          let r := (u.actives e1).map fun e =>
            let v := dequant (u.viewSector a (e / 192)) (e % 192)
            let q := roundToFormat v.1 d.ty (rmOf e1 d) (satOf e1)
            (e, q.1, q.2 ||| v.2)
          { writes := r.map (fun e => d.put e.1 e.2.1) ++ (u.cleared e1).map (fun e => d.put e 0)
            flags := r.map fun e => (e.1, e.2.2) }

end Sys2Proof.Machine
end

