-- ==== Sys2Proof/Machine/VxMem.lean ====
section
/-!
DEFINITION. The memory forms of VX: scratchpad windows and lane slices (06_registers R155 to R158).
-/

namespace Sys2Proof.Machine

/-! ## Scratchpad forms (R155 to R157) -/

/-- The base address A (R155). -/
def State.spBaseAddr (s : State) (vsa : VsReg) (x : Option VExt) : Word :=
  s.ctx.vx.vs[vsa] + (match x with
    | some x => sext64 x.imm
    | none => 0)

/-- Bytes that hold one element. -/
def View.bytes (v : View) : Nat := (v.size + 7) / 8

/-- An element's place in the own or cluster window: the physical address, or the address that fails. -/
def State.spPlace (s : State) (a : Word) (n : Nat) : Except Word Nat :=
  match s.descPlace a n with
  | some pa => .ok pa
  | none => .error a

/-- An access to one element: the element, its address, its physical address, and the nibble for FP4. -/
structure SpElem where
  e : Nat
  va : Word
  pa : Nat
  high : Bool

/-- The places of the active elements, or the first that fails. An address beyond 2^64 − 1 lies in no window (R155, R156: the sum has no
width, so that it is exact as R6 says; its low 64 bits are reported, log entry 55). -/
def State.spElems (s : State) (a : Word) (v : View) (idx : Nat → Nat) : List Nat → Except Word (List SpElem)
  | [] => .ok []
  | e :: rest =>
    let bit := idx e * v.size
    let at' := a + BitVec.ofNat 64 (bit / 8)
    match if a.toNat + bit / 8 < 2 ^ 64 then s.spPlace at' v.bytes else .error at' with
    | .error w => .error w
    | .ok pa =>
      match State.spElems s a v idx rest with
      | .error w => .error w
      | .ok l => .ok (⟨e, at', pa, decide (bit % 8 = 4)⟩ :: l)

/-- The checks of R155 in their order: ALIGN, PROT, POISON. -/
def State.spCheck (s : State) (a : Word) (v : View) (idx : Nat → Nat) (es : List Nat) (read : Bool)
    (f : List SpElem → Eff) : Eff :=
  if a.toNat % v.bytes ≠ 0 then .trap cALIGN a
  else
    match s.spElems a v idx es with
    | .error w => .trap cPROT w
    | .ok l =>
      match l.find? fun q => read && s.badAt q.pa v.bytes with
      | some q => .trap cPOISON (a + BitVec.ofNat 64 (idx q.e * v.size / 8))
      | none => f l

/-- The bits of an element in SP, read through the commit buffer. -/
def State.spRead (s : State) (v : View) (q : SpElem) : Nat :=
  let n := leValue (s.through q.pa (s.mem.getBytes q.pa v.bytes))
  if v.size = 4 then (if q.high then n / 16 else n % 16) else n

/-- One element stored to SP by the VX stream; a nibble keeps the other one. `none`: it waits for room in the
commit buffer. -/
def State.spWrite (s : State) (v : View) (q : SpElem) (bits : Nat) : Option State :=
  let old := leValue (s.through q.pa (s.mem.getBytes q.pa v.bytes))
  let new := if v.size = 4 then (if q.high then old % 16 + bits % 16 * 16 else old / 16 * 16 + bits % 16) else bits
  let d := s.dep .vx
  let p : Place := ⟨q.pa, true, 0, false⟩
  if d.ver || d.spec then s.hold p q.va (leBytes v.bytes new) 0 d else some (s.perform p (leBytes v.bytes new) 0 .default)

/-- Stores in order. -/
def State.spWriteAll (v : View) : State → List (SpElem × Nat) → Option State
  | s, [] => some s
  | s, (q, bits) :: rest =>
    match s.spWrite v q bits with
    | none => none
    | some s => State.spWriteAll v s rest

/-- Types of the SP forms; the indexed ones need elements of at least 8 bits. -/
def spType (indexed : Bool) (t : ElemTy) : Bool := anyType t && (!indexed || decide (8 ≤ bitsOf t))

/-- What an index operand reads. -/
def State.indexAt (s : State) (x : Option VExt) (vb : Option VReg) : List (Nat × Nat) :=
  match vb with
  | some r => s.elemsAt r (s.actives x)
  | none => []

/-- Runs a load from SP. -/
def State.spLoad (s : State) (sy : Sync) (vd : VReg) (vsa : VsReg) (x : Option VExt) (vb : Option VReg) :
    Host.Outcome State Fault Refusal :=
  s.runV sy x (·.indexAt x vb) fun u =>
    match firstFault (u.viewFault vd (spType vb.isSome) u.vl u.named ::
        (match vb with
         | some r => [u.viewFault r isInt u.vl u.named]
         | none => [])) with
    | some w => .trap cVIEW w
    | none =>
      let d := u.view vd
      let idx (e : Nat) : Nat := match vb with
        | some r => u.elem (u.view r) e
        | none => e
      u.spCheck (u.spBaseAddr vsa x) d idx (u.actives x) true fun l =>
        u.vfinish x none fun _ =>
          { writes := l.map (fun q => d.put q.e (u.spRead d q)) ++ (u.cleared x).map (fun e => d.put e 0), flags := [] }

/-- `VLD` -/
def execVld (sy : Sync) (vd : VReg) (vsa : VsReg) (e1 : Option VExt) (s : State) := s.spLoad sy vd vsa e1 none
/-- `VGTH` -/
def execVgth (sy : Sync) (vd : VReg) (vsa : VsReg) (vb : VReg) (e1 : Option VExt) (s : State) := s.spLoad sy vd vsa e1 (some vb)

/-- Among elements that name one address, keeps one: which is free (R157; log entry 9). -/
def pickWinners : Nat → List SpElem → Nat → List SpElem × Nat
  | 0, _, k => ([], k)
  | fuel + 1, l, k =>
    match l with
    | [] => ([], k)
    | q :: rest =>
      let same := q :: rest.filter fun r => decide (r.pa = q.pa)
      let others := rest.filter fun r => decide (r.pa ≠ q.pa)
      if same.length = 1 then
        let (w, k) := pickWinners fuel others k
        (q :: w, k)
      else
        let (w, j) := pickWinners fuel others (k + 1)
        (same.getD (Config.winner k same.length % same.length) q :: w, j)

/-- Runs a store to SP. -/
def State.spStore (s : State) (sy : Sync) (vd : VReg) (vsa : VsReg) (x : Option VExt) (vb : Option VReg) :
    Host.Outcome State Fault Refusal :=
  s.runV sy x (fun u => u.elemsAt vd (u.actives x) ++ u.indexAt x vb) fun u =>
    match firstFault (u.viewFault vd (spType vb.isSome) u.vl u.named ::
        (match vb with
         | some r => [u.viewFault r isInt u.vl u.named]
         | none => [])) with
    | some w => .trap cVIEW w
    | none =>
      let d := u.view vd
      let idx (e : Nat) : Nat := match vb with
        | some r => u.elem (u.view r) e
        | none => e
      u.spCheck (u.spBaseAddr vsa x) d idx (u.actives x) false fun l =>
        let (l, k) := if vb.isSome then pickWinners l.length l u.fresh else (l, u.fresh)
        match State.spWriteAll d { u with fresh := k } (l.map fun q => (q, u.elem d q.e)) with
        | none => .wait
        | some w => .fin w

/-- `VST` -/
def execVst (sy : Sync) (vd : VReg) (vsa : VsReg) (e1 : Option VExt) (s : State) := s.spStore sy vd vsa e1 none
/-- `VSCT` -/
def execVsct (sy : Sync) (vd : VReg) (vsa : VsReg) (vb : VReg) (e1 : Option VExt) (s : State) := s.spStore sy vd vsa e1 (some vb)

/-! ## Lane slices (R158) -/

/-- The window offset of lane `l`'s slice offset `o`. -/
def sliceOffset (l o : Nat) : Nat := o / 4 * 512 + l * 4 + o % 4

/-- A slice offset is out of the window's part or not aligned to the element size. -/
def State.badSlice (s : State) (v : View) (o : Nat) : Bool :=
  decide (o % v.bytes ≠ 0) || decide (4 * (s.ctx.win.rsSize / 512) ≤ o)

/-- Element sizes of the lane-slice forms. -/
def sliceType (t : ElemTy) : Bool := anyType t && (decide (bitsOf t = 8) || decide (bitsOf t = 16) || decide (bitsOf t = 32))

/-- The window offsets that the active elements reach. -/
def State.slices (s : State) (x : Option VExt) (vb : VReg) : List (Nat × Nat) :=
  (s.actives x).map fun e => (e, sliceOffset (e % 128) (s.elem (s.view vb) e))

/-- The fault of a lane-slice form. -/
def State.sliceFault (s : State) (x : Option VExt) (vd vb : VReg) : Option Word :=
  let view := firstFault [s.viewFault vd sliceType s.vl s.named, s.viewFault vb isInt s.vl s.named]
  match view with
  | some w => some w
  | none =>
    if (s.actives x).any fun e => s.badSlice (s.view vd) (s.elem (s.view vb) e) then some (viewVal vb rSLICE) else none

/-- `VLDL` -/
def execVldl (sy : Sync) (vd vb : VReg) (e1 : Option VExt) (s : State) :=
  s.runV sy e1 (fun u => (u.slices e1 vb).map (fun q => (q.2, (u.view vd).bytes)) ++ u.elemsAt vb (u.actives e1)) fun u =>
    u.vfinish e1 (u.sliceFault e1 vd vb) fun _ =>
      let d := u.view vd
      { writes := (u.slices e1 vb).map (fun q => d.put q.1 (leValue (u.rsGet q.2 d.bytes))) ++ (u.cleared e1).map (fun e => d.put e 0)
        flags := [] }

/-- `VSTL` -/
def execVstl (sy : Sync) (vd vb : VReg) (e1 : Option VExt) (s : State) :=
  s.runV sy e1 (fun u => u.elemsAt vd (u.actives e1) ++ u.elemsAt vb (u.actives e1)) fun u =>
    u.vfinish e1 (u.sliceFault e1 vd vb) fun _ =>
      let d := u.view vd
      { writes := (u.slices e1 vb).map fun q => ⟨8 * q.2, d.size, u.elem d q.1⟩, flags := [] }

end Sys2Proof.Machine
end

