-- ==== Sys2Proof/Machine/Mx.lean ====
section
/-!
DEFINITION. The matrix stream: format words, chains, tile commands and their checks (07_matrix R170 to R188,
08_verification R190, R193, 13_collectives R303).
-/

namespace Sys2Proof.Machine

/-! ## The format word (R172 to R174) -/

/-- The fields of a format word. -/
structure Fmt where
  a : ElemTy
  b : ElemTy
  cmd : Nat
  d : ElemTy
  rm : Nat
  sat : Bool
  bsp : Bool
  anchor : Int
  nine : Bool
  sa : Nat
  sb : Nat

/-- The format word's fields (R172). -/
def Fmt.ofWord (w : Word) : Fmt :=
  let n := w.toNat
  { a := tyOfCode n, b := tyOfCode (n / 2 ^ 4), cmd := n / 2 ^ 8 % 16, d := tyOfCode (n / 2 ^ 12), rm := n / 2 ^ 16 % 8
    sat := n.testBit 19, bsp := n.testBit 20, anchor := (BitVec.ofNat 10 (n / 2 ^ 21)).toInt, nine := n.testBit 31
    sa := n / 2 ^ 32 % 2 ^ 16, sb := n / 2 ^ 48 }

/-- The kind of a type that appears in the table of pairs (R173). -/
def kindOf (t : ElemTy) : Option BandKind :=
  match t with
  | .e4m3 | .e5m2 | .int8 | .fp4 | .qs4 => some .narrow
  | .bf16 | .fp16 | .fp32 => some .wide
  | _ => none

/-- The kind that a pair of operand types selects, if the pair is legal (R173). -/
def pairKind (a b : ElemTy) : Option BandKind :=
  let group (t : ElemTy) : Nat :=
    match t with
    | .e4m3 | .e5m2 => 1
    | .int8 => 2
    | .fp4 | .qs4 => 3
    | .bf16 => 4
    | .fp16 => 5
    | .fp32 => 6
    | _ => 0
  if group a = 0 ∨ group a ≠ group b then none else kindOf a

/-- The fields that are 0 outside `MDRN`. -/
def Fmt.noDrain (f : Fmt) : Bool :=
  decide (f.d = .int8) && decide (f.rm = 0) && !f.sat && !f.bsp && decide (f.sa = 0) && decide (f.sb = 0)

/-- The format word of an adding command is legal, with its kind (R172, R174). -/
def Fmt.adding (f : Fmt) (cmd : Nat) : Option BandKind :=
  match pairKind f.a f.b with
  | some k =>
    if f.cmd = cmd ∧ f.noDrain ∧ (k = .wide ∨ f.anchor = 0) ∧ (f.nine → f.a = .fp32) then some k else none
  | none => none

/-- The format word of `MLDA` is legal, with its kind. -/
def Fmt.loading (f : Fmt) : Option BandKind :=
  match kindOf f.b with
  | some k =>
    if f.cmd = 4 ∧ f.noDrain ∧ (k = .wide ∨ f.anchor = 0) ∧ ¬ f.nine ∧ (isInt f.a ∨ isFloat f.a) then some k else none
  | none => none

/-- The format word of `MDRN` is legal. -/
def Fmt.draining (f : Fmt) : Bool :=
  decide (f.cmd = 3) && decide (f.a = .int8) && decide (f.b = .int8) && decide (f.anchor = 0) && !f.nine && decide (f.rm ≤ 4) &&
  (f.bsp || (decide (f.sa = 0) && decide (f.sb = 0))) && (isInt f.d || isFloat f.d)

/-! ## Operands (R131, R177) -/

/-- A reader of register space by window offset and count. -/
abbrev Rd := Nat → Nat → List Byte

/-- Elements along a row of a tile. -/
def View.width (v : View) : Nat := if v.ty = .qs4 then 192 * v.cols else v.cols

/-- Bytes of a row. -/
def View.rowBytes (v : View) : Nat := if v.ty = .qs4 then 128 * v.cols else (v.cols * v.size + 7) / 8

/-- The window offset of row `r`. -/
def View.rowAt (v : View) (r : Nat) : Nat := v.base + v.pitch * r

/-- The window offset of element (r, c) of a tile that is not QS4, in bits. -/
def View.tileBit (v : View) (r c : Nat) : Nat := 8 * v.rowAt r + c * v.size

/-- The value of element (r, c) of a tile operand; for QS4 it is FP4·E3M5 (R56). -/
def View.at (v : View) (rd : Rd) (r c : Nat) : Val :=
  if v.ty = .qs4 then sectorValue (rd (v.rowAt r + 128 * (c / 192)) 128) (c % 192)
  else
    let b := v.tileBit r c
    valueOf v.ty (leValue (rd (b / 8) ((b % 8 + v.size + 7) / 8)) / 2 ^ (b % 8) % 2 ^ v.size)

/-- The unsigned value of element `e` of an index view. -/
def View.index (v : View) (rd : Rd) (e : Nat) : Nat :=
  let b := v.bit e
  leValue (rd (b / 8) ((b % 8 + v.size + 7) / 8)) / 2 ^ (b % 8) % 2 ^ v.size

/-- The window's bytes as a reader. -/
def State.rd (s : State) : Rd := s.rsGet

/-- The byte ranges of the window that a view's elements take. -/
def View.ranges (v : View) : List (Nat × Nat) :=
  if v.tile then (List.range v.rows).map fun r => (v.rowAt r, v.rowBytes)
  else [(v.base, (v.len * v.size + 7) / 8)]

/-- Byte ranges lie in the window. -/
def State.inWindow (s : State) (l : List (Nat × Nat)) : Bool := l.all fun q => decide (q.1 + q.2 ≤ s.ctx.win.rsSize)

/-- The byte ranges of some rows of a tile view. -/
def View.rowRanges (v : View) (rows : List Nat) : List (Nat × Nat) := rows.map fun r => (v.rowAt r, v.rowBytes)

/-- An operand that a tile command reads: its view, and the byte ranges of it that are read. -/
structure Operand where
  view : View
  at' : List (Nat × Nat)

/-- A view read whole. -/
def State.whole (s : State) (r : VReg) : Operand := ⟨s.view r, (s.view r).ranges⟩

/-- The rows of a tile below `top` that a valid index view names (R179, R180); none while the index view itself is at fault. -/
def State.namedRows (s : State) (vi : VReg) (top : Nat) : List Nat :=
  let v := s.view vi
  if v.tile ∨ !isInt v.ty ∨ !s.inWindow v.ranges then []
  else (((List.range v.len).map (v.index s.rd)).filter fun r => decide (r < top)).eraseDups

/-- A tile view of which the rows that an index view names are read. -/
def State.gathered (s : State) (r vi : VReg) : Operand :=
  let v := s.view r
  ⟨v, if v.tile then v.rowRanges (s.namedRows vi v.rows) else []⟩

/-- The first place of an operand whose bytes cannot be used: a QS4 sector with a wrong CRC (R57), or bytes with an uncorrectable
error (R186). The place is an offset in the window, as R152 has it for `DQNT`: R57's RS byte address is read so for MX too (log entry
56). -/
def State.badOperand (s : State) (o : Operand) : Option Nat :=
  o.at'.findSome? fun q =>
    if o.view.ty = .qs4 then
      ((List.range (q.2 / 128)).map fun k => q.1 + 128 * k).find? fun a => !sectorOk (s.rsGet a 128) || s.poisonedAt (s.rsAddr a) 128
    else if s.poisonedAt (s.rsAddr q.1) q.2 then some q.1 else none

/-! ## Products (R178 to R180) -/

/-- The products that a pair of elements adds. -/
def productsOf (fp32 nine : Bool) (a b : Val) : List (Val × Val) :=
  if !fp32 ∨ a.special ∨ b.special then [(a, b)] else slicePairs nine (split3 a) (split3 b)

/-- The products that an element adds against 1. -/
def onesOf (fp32 : Bool) (a : Val) : List (Val × Val) :=
  if !fp32 ∨ a.special then [(a, .num 1)]
  else
    let (h, m, l) := split3 a
    [(h, .num 1), (m, .num 1), (l, .num 1)]

/-- A list of positions (i, j). -/
def grid (m n : Nat) : List (Nat × Nat) := ((List.range m).map fun i => (List.range n).map fun j => (i, j)).flatten

/-- What an adding command adds to each position of its chain (R178 to R180). -/
def SpanCmd.adds (q : SpanCmd) (rd : Rd) : List (Nat × Nat × List (Val × Val)) :=
  let f := Fmt.ofWord q.fmt
  let fp := decide (f.a = .fp32)
  let va := View.ofWord q.va
  let vb := View.ofWord q.vb
  let vc := View.ofWord q.vc
  match q.cmd with
  | .mma _ _ _ ta tb neg =>
    let a (i k : Nat) : Val := if ta then va.at rd k i else va.at rd i k
    let b (k j : Nat) : Val := if tb then vb.at rd j k else vb.at rd k j
    let m := if ta then va.width else va.rows
    let kk := if ta then va.rows else va.width
    let n := if tb then vb.rows else vb.width
    (grid m n).map fun (i, j) => (i, j, ((List.range kk).map fun k =>
      productsOf fp f.nine (if neg then (a i k).negate else a i k) (b k j)).flatten)
  | .mmag _ _ _ _ =>
    (grid va.len vb.width).map fun (i, j) =>
      let r := va.index rd i
      (i, j, ((List.range vc.width).map fun k => productsOf fp f.nine (vc.at rd r k) (vb.at rd k j)).flatten)
  | .mtrn _ _ => (grid va.width va.rows).map fun (i, j) => (i, j, onesOf fp (va.at rd j i))
  | .mperm _ _ _ => (grid vb.len va.width).map fun (i, j) => (i, j, onesOf fp (va.at rd (vb.index rd i) j))
  | .mrsum _ _ =>
    (grid va.rows q.chain.cols).map fun (i, j) =>
      (i, j, ((List.range va.width).map fun k => onesOf fp (va.at rd i k)).flatten)
  | .mcsum _ _ =>
    (grid (16 * q.chain.nb) va.width).map fun (i, j) =>
      (i, j, ((List.range va.rows).map fun k => onesOf fp (va.at rd k j)).flatten)
  | _ => []

/-- The key of position (i, j) of a chain. -/
def Chain.key (c : Chain) (i j : Nat) : Nat := slotKey (c.band + i / 16) (i % 16) j

/-- Adds products to a slot. -/
def Slot.addAll (v : Slot) (k : BandKind) (anchor : Int) (l : List (Val × Val)) : Slot :=
  l.foldl (fun v p => v.addProduct k anchor p.1 p.2) v

/-- What the adder of position (i, j) in one array leaves in a slot: the sum, with the error of a stuck digit (R162, R372). -/
def Core.adder (c : Core) (shadow : Bool) (k : BandKind) (i j : Nat) (v : Slot) : Slot :=
  match c.stuck.find? fun q => q.shadow == shadow && decide (q.row = i) && decide (q.col = j) with
  | some q => { v with s := wrapInt (if k = .wide then 240 else 128) (v.s + q.err) }
  | none => v

/-- Adds a command's products to a store, through the adders of its array (R61, R162). -/
def Store.addCmd (st : Store) (ch : Chain) (k : BandKind) (anchor : Int) (l : List (Nat × Nat × List (Val × Val)))
    (adder : Nat → Nat → Slot → Slot) : Store :=
  l.foldl (fun st e =>
    let key := ch.key e.1 e.2.1
    st.setSlot key (adder e.1 e.2.1 ((st.slot key).addAll k anchor e.2.2))) st

/-- Sets the kind of every band of a range whose KIND is NONE, and clears its DISCARD mark (R163, R167). -/
def Store.open (st : Store) (bands : List Nat) (k : BandKind) (anchor : Int) : Store :=
  bands.foldl (fun st b =>
    let q := st.band b
    st.setBand b (if q.kind = .none then ⟨k, if k = .wide then anchor else 0, false⟩ else { q with discard := false })) st

/-- The bands of a range. -/
def rangeBands (b n : Nat) : List Nat := (List.range n).map (b + ·)

/-- Some band of a range has another kind or anchor (R163). -/
def Store.clash (st : Store) (bands : List Nat) (k : BandKind) (anchor : Int) : Bool :=
  bands.any fun b =>
    let q := st.band b
    decide (q.kind ≠ .none) && (decide (q.kind ≠ k) || decide (q.anchor ≠ if k = .wide then anchor else 0))

/-! ## Waiting and checks -/

/-- Of two contexts with open chains, the first has the engine. -/
def Ctx.chainFirst (a b : Ctx) : Bool :=
  decide (a.mx.chainAt < b.mx.chainAt) || (decide (a.mx.chainAt = b.mx.chainAt) && decide (a.key.slot.val < b.key.slot.val))

/-- Another context of the core has the engine through an open chain. Of two chains, one of which came back with a resume, the
one that took the engine first has it (R94). -/
def State.mxTaken (s : State) : Bool :=
  s.resident.any fun c => decide (c.key.core = s.ctx.key.core) && decide (c.key ≠ s.ctx.key) && c.mx.chain.isSome &&
    (s.ctx.mx.chain.isNone || c.chainFirst s.ctx)

/-- The stream may issue a command that uses the engine (R94, R193, R200). -/
def State.mxReady (s : State) : Bool := s.ctx.mx.drain.isNone && s.ctx.mx.dispute.isNone && !s.mxTaken

/-- The lowest band of a range that the context may not use (R170). -/
def State.bandFault (s : State) (b n : Nat) (drain : Bool) : Option Nat :=
  let own := s.here.ownMask s.slotNo
  let m := if drain then own ||| s.here.grantedMask s.slotNo none else own
  (rangeBands b n).find? fun k => !m.getLsbD k

/-- AMBANK with a band number. -/
def amFault (b : Nat) : Eff := .trap cAMBANK (BitVec.ofNat 64 b)

/-- Keeps bands for undoing before a dependent command of a speculation touches them; `none`: it waits for the
verdict (R302, R303). -/
def State.keepBands (s : State) (bands : List Nat) (full : Bool) : Option State :=
  if !(s.dep .mx).spec then some s
  else
    let c := s.here
    let add (l : List BandImage) (b : Nat) : List BandImage :=
      if l.any (·.band = b) then l.map fun q => if q.band = b then { q with full := q.full || full } else q
      else l ++ [{ band := b, full := full, main := Store.empty.copyBand c.main b, shadow := Store.empty.copyBand c.shadow b
                   tags := inBand b c.tags }]
    if s.ctx.spec.any fun e => decide (64 ≤ e.tiles) then none
    else
      let t := s.mapCtx fun x => { x with spec := x.spec.map fun e => { e with bands := bands.foldl add e.bands, tiles := e.tiles + 1 } }
      if t.ctx.journalUsed ≤ max t.ctx.journalCap s.ctx.journalUsed then some t else none

/-- Runs an MX command that pops a format word: `f` takes the word (R186). It reads the operands given, through its views
(R132). -/
def State.runTile (s : State) (sy : Sync) (len : Nat) (reads : State → List Operand) (f : State → Word → Eff) :
    Host.Outcome State Fault Refusal :=
  s.run .mx sy len .run (fun u => ⟨(u.queueDep 0).or u.viewDep, (reads u).flatMap (·.at'), []⟩) fun u =>
    if !u.mxReady then .wait
    else
      match (u.ctx.queues[0]).peek with
      | none => .trap cFQUNDER 0
      | some w => f u w

/-! ## Adding commands (R178 to R180, R190) -/

/-- Products that a command adds to each slot. -/
def addCounts (ch : Chain) (l : List (Nat × Nat × List (Val × Val))) : List (Nat × Nat) :=
  l.map fun e => (ch.key e.1 e.2.1, e.2.2.length)

/-- The command would carry the span over a limit of R190. -/
def MRegs.spanFull (m : MRegs) (l : List (Nat × Nat)) : Bool :=
  decide (m.spanBands ≠ 0) &&
    (decide (64 ≤ m.spanLog.length) || l.any fun e => decide (2048 < Table.get 0 m.spanProducts e.1 + e.2))

/-- Logs an adding command in the span (R190, R196). -/
def MRegs.log (m : MRegs) (q : SpanCmd) (counts : List (Nat × Nat)) (rows : List Nat) : MRegs :=
  { m with spanLog := m.spanLog ++ [q]
           spanProducts := counts.foldl (fun t e => Table.set 0 t e.1 (Table.get 0 t e.1 + e.2)) m.spanProducts
           spanBands := m.spanBands ||| bandMask q.chain.band q.chain.nb
           opRows := rows.foldl (fun l r => if l.contains r then l else r :: l) m.opRows }

/-- The RS rows of operands. -/
def operandRows (l : List Operand) : List Nat := (l.flatMap fun o => o.at'.flatMap fun q => rowsOf q.1 q.2).eraseDups

/-- The effect of an adding command whose checks passed. -/
def State.addTile (s : State) (q : SpanCmd) (k : BandKind) (ops : List Operand) : Eff :=
  let l := q.adds s.rd
  let counts := addCounts q.chain l
  let bands := rangeBands q.chain.band q.chain.nb
  let anchor := (Fmt.ofWord q.fmt).anchor
  if s.ctx.mx.spanFull counts then .stay State.implicitPoint
  else
    match s.keepBands bands false with
    | none => .wait
    | some s =>
      let s := s.popQ .mx 0
      let put (st : Store) (adder : Nat → Nat → Slot → Slot) : Store := (st.open bands k anchor).addCmd q.chain k anchor l adder
      let s := s.mapCore s.coreNo fun c =>
        { c with main := put c.main (c.adder false k), shadow := put c.shadow (c.adder true k) }
      .fin (s.mapMx fun m => m.log q counts (operandRows ops))

/-- Runs an adding command: its operands' types, its shape faults, and its log entry. Of several places that cannot be used, POISON
names the first in the order of the operands read, row by row (log entry 41). -/
def State.runAdd (s : State) (sy : Sync) (len : Nat) (cmd : Nat) (ops : List (VReg × (Fmt → ElemTy)))
    (read : State → List Operand) (shape : State → Chain → Fmt → List (Option Word)) (entry : State → Chain → Word → SpanCmd) :
    Host.Outcome State Fault Refusal :=
  s.runTile sy len read fun u w =>
    match u.ctx.mx.chain with
    | none => amFault 32
    | some ch =>
      match u.bandFault ch.band ch.nb false with
      | some b => amFault b
      | none =>
        let f := Fmt.ofWord w
        let bad : Bool := ops.any fun q => decide ((u.view q.1).ty ≠ q.2 f)
        match (if bad then none else f.adding cmd) with
        | none => .trap cFMTKIND w
        | some k =>
          if u.here.am.clash (rangeBands ch.band ch.nb) k f.anchor then .trap cFMTKIND w
          else
            match firstFault (shape u ch f) with
            | some v => .trap cVIEW v
            | none =>
              match (read u).findSome? u.badOperand with
              | some o => .trap cPOISON (BitVec.ofNat 64 o)
              | none => u.addTile (entry u ch w) k (read u)

/-- The DESC or TYPE fault of a tile operand; `qs4` says that a QS4 view is allowed there. -/
def State.tileType (s : State) (r : VReg) (qs4 : Bool) : Option Word :=
  let v := s.view r
  if v.misformed then some (viewVal r rDESC) else if !v.tile ∨ (v.ty = .qs4 ∧ ¬ qs4) then some (viewVal r rTYPE) else none

/-- A SHORT fault where a condition holds. -/
def shortIf (b : Bool) (r : VReg) : Option Word := if b then some (viewVal r rSHORT) else none

/-- The WINDOW fault of an operand: bytes of it that are read lie above the window. -/
def State.windowFault (s : State) (r : VReg) (o : Operand) : Option Word := if s.inWindow o.at' then none else some (viewVal r rWINDOW)

/-- The view is one that an operand of a tile command may have. -/
def State.tileOk (s : State) (r : VReg) (qs4 : Bool) : Bool := (s.tileType r qs4).isNone

/-- The log entry of an adding command. -/
def State.spanCmd (s : State) (ch : Chain) (w : Word) (cmd : Instr) (va vb vc : Option VReg) : SpanCmd :=
  let word (r : Option VReg) : Word := (r.map fun r => s.ctx.vx.v[r]).getD 0
  { cmd := cmd, va := word va, vb := word vb, vc := word vc, fmt := w, chain := ch, bands := bandMask ch.band ch.nb }

/-- `MMA` -/
def execMma (sy : Sync) (va vb : VReg) (ta tb neg : Bool) (s : State) :=
  s.runAdd sy 0 0 [(va, (·.a)), (vb, (·.b))] (fun u => [u.whole va, u.whole vb]) (fun u ch _ =>
      let a := u.view va
      let b := u.view vb
      let m := if ta then a.width else a.rows
      let ka := if ta then a.rows else a.width
      let kb := if tb then b.width else b.rows
      let n := if tb then b.rows else b.width
      [u.tileType va (!ta), shortIf (decide (ka ≠ kb) && u.tileOk vb tb) va, shortIf (decide (16 * ch.nb < m)) va,
       u.windowFault va (u.whole va), u.tileType vb tb, shortIf (decide (ch.cols < n)) vb, u.windowFault vb (u.whole vb)])
    fun u ch w => u.spanCmd ch w (.mma Sync.none va vb ta tb neg) (some va) (some vb) none

/-- The fault of an index view of `most` elements at most, each below `top`. -/
def State.indexFault (s : State) (r : VReg) (most top : Nat) : List (Option Word) :=
  let v := s.view r
  [if v.misformed then some (viewVal r rDESC) else if v.tile ∨ !isInt v.ty then some (viewVal r rTYPE) else none, shortIf (decide (most < v.len)) r, s.windowFault r (s.whole r),
   shortIf ((List.range v.len).any fun e => decide (top ≤ v.index s.rd e)) r]

/-- `MMAG` -/
def execMmag (sy : Sync) (vi vb vc : VReg) (s : State) :=
  s.runAdd sy 1 1 [(vc, (·.a)), (vb, (·.b))] (fun u => [u.whole vi, u.whole vb, u.gathered vc vi]) (fun u ch _ =>
      let b := u.view vb
      let c := u.view vc
      u.indexFault vi (16 * ch.nb) (if u.tileOk vc true then c.rows else 2 ^ 64) ++
      [u.tileType vb false, shortIf (decide (b.rows ≠ c.width) && u.tileOk vc true) vb, shortIf (decide (ch.cols < b.width)) vb,
       u.windowFault vb (u.whole vb), u.tileType vc true, u.windowFault vc (u.gathered vc vi)])
    fun u ch w => u.spanCmd ch w (.mmag Sync.none vi vb vc) (some vi) (some vb) (some vc)

/-- Runs an MCON form on one tile. -/
def State.runCon (s : State) (sy : Sync) (va : VReg) (cmd : Instr) (qs4 : Bool) (shape : View → Chain → Bool) :
    Host.Outcome State Fault Refusal :=
  s.runAdd sy 0 2 [(va, (·.a)), (va, (·.b))] (fun u => [u.whole va]) (fun u ch _ =>
      [u.tileType va qs4, shortIf (!shape (u.view va) ch) va, u.windowFault va (u.whole va)])
    fun u ch w => u.spanCmd ch w cmd (some va) none none

/-- `MTRN` -/
def execMtrn (sy : Sync) (va : VReg) (s : State) :=
  s.runCon sy va (.mtrn Sync.none va) false fun v ch => decide (v.width ≤ 16 * ch.nb) && decide (v.rows ≤ ch.cols)
/-- `MRSUM` -/
def execMrsum (sy : Sync) (va : VReg) (s : State) :=
  s.runCon sy va (.mrsum Sync.none va) true fun v ch => decide (v.rows ≤ 16 * ch.nb)
/-- `MCSUM` -/
def execMcsum (sy : Sync) (va : VReg) (s : State) :=
  s.runCon sy va (.mcsum Sync.none va) false fun v ch => decide (v.width ≤ ch.cols)

/-- `MPERM` -/
def execMperm (sy : Sync) (va vb : VReg) (s : State) :=
  s.runAdd sy 0 2 [(va, (·.a)), (va, (·.b))] (fun u => [u.gathered va vb, u.whole vb]) (fun u ch _ =>
      let a := u.view va
      [u.tileType va false, shortIf (decide (ch.cols < a.width)) va, u.windowFault va (u.gathered va vb)] ++
      u.indexFault vb (16 * ch.nb) a.rows)
    fun u ch w => u.spanCmd ch w (.mperm Sync.none va vb) (some va) (some vb) none

/-! ## Chains and system forms (R175, R184) -/

/-- `MNOP` -/
def execMnop (sy : Sync) (s : State) := s.run .mx sy 0 .run (fun _ => .none) Eff.fin

/-- The chain closes. -/
def State.closeChain (s : State) : State := s.mapMx fun m => { m with chain := none }

/-- A hold-mode drain of the context awaits its verdict, at which its `MDRN` completes (R193). -/
def Ctx.drainHeld (c : Ctx) : Bool := c.mx.drain.any fun d => !d.forward || !d.rest.isEmpty

/-- `MCHE`: it completes with the tile commands of the chain, a held drain among them (R175). -/
def execMche (sy : Sync) (s : State) := s.run .mx sy 0 .run (fun _ => .none) fun u =>
  .ok u.closeChain (if u.ctx.mx.chain.isSome && u.ctx.drainHeld then .verdict else .now)

/-- `MEND`: it waits for a held drain; a forward `MDRN` has completed (R28, R193). -/
def execMend (sy : Sync) (s : State) :=
  s.run .mx sy 0 .spec (fun _ => .none) fun u =>
    if u.ctx.drainHeld then (if u.ctx.mx.chain.isSome then .stay State.closeChain else .wait)
    else .fin (u.closeChain.stopStream .mx)

/-- `MCHB` -/
def execMchb (sy : Sync) (band : Band) (nb : Fin 8) (cols : Fin 64) (s : State) :=
  s.run .mx sy 0 .spec (fun _ => .none) fun u =>
    if !u.mxReady then .wait
    else
      match u.bandFault band.val nb.val false with
      | some b => amFault b
      | none => .fin (u.mapMx fun m => { m with chain := some ⟨band.val, nb.val, cols.val + 1⟩, chainAt := u.serial })

/-! ## MZRO and MLDA (R181, R182) -/

/-- Bands of the span outside a range. -/
def State.spanBeside (s : State) (band nb : Nat) : List Nat := bandsOf (s.ctx.mx.spanBands &&& ~~~(bandMask band nb))

/-- `MZRO`: a verification point for every band of the span; those that it does not zero are compared before it (R190; log entry
37). -/
def execMzro (sy : Sync) (band : Band) (nb : Fin 8) (s : State) :=
  s.run .mx sy 0 .run (fun _ => .none) fun u =>
    if !u.mxReady then .wait
    else
      match u.bandFault band.val nb.val false with
      | some b => amFault b
      | none =>
        if !u.here.agreeAll (u.spanBeside band.val nb.val) then .stay fun t => t.pointOn (t.spanBeside band.val nb.val)
        else
          match u.keepBands (rangeBands band.val nb.val) true with
          | none => .wait
          | some u =>
            let u := u.mapCore u.coreNo fun c => c.zeroBands (rangeBands band.val nb.val)
            .fin (u.agreeOn (rangeBands band.val nb.val))

/-- The slot that `MLDA` loads from a value. -/
def loadSlot (k : BandKind) (anchor : Int) (v : Val) : Slot :=
  match v with
  | .nan => { Slot.zero with nan := true }
  | .inf n => if n then { Slot.zero with ninf := true } else { Slot.zero with pinf := true }
  | v =>
    if k = .wide then
      let (f, c) := floor192 v.toRat anchor
      { Slot.zero with s := f, clamp := c }
    else
      let n := (v.toRat * 2 ^ 48).floor
      { Slot.zero with s := if n < -2 ^ 127 then -2 ^ 127 else if 2 ^ 127 - 1 < n then 2 ^ 127 - 1 else n }

/-- A store with a tile loaded into a range (R182). -/
def Store.loadTile (st : Store) (v : View) (rd : Rd) (band nb : Nat) (k : BandKind) (anchor : Int) : Store :=
  (grid v.rows v.width).foldl (fun st q =>
    st.setSlot (slotKey (band + q.1 / 16) (q.1 % 16) q.2) (loadSlot k anchor (v.at rd q.1 q.2)))
    (st.open (rangeBands band nb) k anchor)

/-- `MLDA`: its completion is a verification point for every band of the span and of its range (R190; log entry 37). -/
def execMlda (sy : Sync) (va : VReg) (band : Band) (nb : Fin 8) (s : State) :=
  s.runTile sy 0 (fun u => [u.whole va]) fun u w =>
    let f := Fmt.ofWord w
    let v := u.view va
    let bands := rangeBands band.val nb.val
    match u.bandFault band.val nb.val false with
    | some b => amFault b
    | none =>
      match (if v.ty = f.a then f.loading else none) with
      | none => .trap cFMTKIND w
      | some k =>
        if u.here.am.clash bands k f.anchor then .trap cFMTKIND w
        else
          match firstFault [u.tileType va false, shortIf (decide (16 * nb.val < v.rows) || decide (64 < v.width)) va,
              u.windowFault va (u.whole va)] with
          | some x => .trap cVIEW x
          | none =>
            match u.badOperand (u.whole va) with
            | some o => .trap cPOISON (BitVec.ofNat 64 o)
            | none =>
              let load (st : Store) : Store := st.loadTile v u.rd band.val nb.val k f.anchor
              let put (c : Core) : Core := { c with main := load c.main, shadow := load c.shadow }
              if !(put u.here).agreeAll (bandsOf u.ctx.mx.spanBands ++ bands) then
                .stay fun t => t.pointOn (bandsOf t.ctx.mx.spanBands ++ bands)
              else
                match u.keepBands bands true with
                | none => .wait
                | some u =>
                  let u := (u.popQ .mx 0).mapCore u.coreNo put
                  .fin (u.agreeOn bands)

/-! ## MDRN (R183, R189, R193) -/

/-- A drained tile: its element writes with flags, by row and column. -/
structure Tile where
  writes : List BitWrite
  flags : BitVec 6

/-- Drains the slots under a view from one store (R65, R183). -/
def Store.drainTile (st : Store) (v : View) (band : Nat) (f : Fmt) : Tile :=
  let sA := if f.bsp then valueOf .bf16 f.sa else .num 1
  let sB := if f.bsp then valueOf .bf16 f.sb else .num 1
  let l := (grid v.rows v.cols).map fun q =>
    let b := band + q.1 / 16
    let k := st.band b
    let r := (st.slot (slotKey b (q.1 % 16) q.2)).drain k.kind k.anchor sA sB f.d (Rm.ofField f.rm) f.sat
    ((⟨v.tileBit q.1 q.2, v.size, r.1⟩ : BitWrite), drainFlags r.2.1 r.2.2)
  { writes := l.map (·.1), flags := l.foldl (fun a e => a ||| e.2) 0 }

/-- The bytes of a drained tile, in row-major order; a row of an odd number of FP4 elements is padded to a whole byte with a zero
nibble (R69; log entry 42). -/
def tileBytes (v : View) (l : List BitWrite) : List Byte :=
  (List.range v.rows).flatMap fun r =>
    let q := ((l.drop (r * v.cols)).take v.cols).map (·.val)
    if v.size = 4 then packNibbles q else q.flatMap fun n => leBytes (v.size / 8) n

/-- The signature of a drained tile (R69, R189). -/
def tileSig (v : View) (l : List BitWrite) : Word := m61Fold (tileBytes v l)

/-- Writes a drain's tile to RS with the drain's own dependence, whatever the stream has come to depend on since (R188); `none`: it
waits. -/
def State.tileWrite (s : State) (d : Dep) (l : List BitWrite) : Option State := State.writeBitsAs d s l

/-- Writes of a tile that the journal has room for are made, and the others are left (R196). -/
def State.tileForward : State → List BitWrite → State × List BitWrite
  | s, [] => (s, [])
  | s, w :: rest =>
    match s.rsWrite .mx (s.bytesOf w).1 (s.bytesOf w).2 with
    | none => (s, w :: rest)
    | some s => State.tileForward s rest

/-- Zeroes drained bands after the verdict (R183). A DISCARD mark goes only where the owner's command writes the band (R167). -/
def State.clearDrained (s : State) (d : Drain) : State :=
  if d.clear then
    s.mapCore s.coreNo fun c =>
      let kept := (rangeBands d.band d.nb).filter fun b => decide (c.ownerOf b ≠ some s.slotNo) && (c.main.band b).discard
      let mark (st : Store) : Store := kept.foldl (fun st b => st.setBand b { st.band b with discard := true }) st
      let z := c.zeroBands (rangeBands d.band d.nb)
      { z with main := mark z.main, shadow := mark z.shadow }
  else s

/-- A drain's verdict is reached: VERDICTS, LASTVERDICT and the signature of the bytes written (R191, R192, R209). -/
def State.verdict (s : State) (v : BitVec 4) (sig : Word) : State :=
  (s.mapSys fun r => { r with verdicts := r.verdicts + 1, lastVerdict := v }).mapMx fun m => { m with signature := sig }

/-- The drain that `MDRN` starts. -/
def State.newDrain (s : State) (sy : Sync) (vd : VReg) (band nb : Nat) (clear : Bool) (w : Word) (d : Dep) : Drain :=
  let f := Fmt.ofWord w
  let v := s.view vd
  let a := s.here.main.drainTile v band f
  let b := s.here.shadow.drainTile v band f
  { vd := s.ctx.vx.v[vd], band := band, nb := nb, clear := clear, forward := s.ctx.launch.forward
    main := a.writes, shadow := b.writes, rest := [], mainSig := tileSig v a.writes, shadowSig := tileSig v b.writes
    mainFlags := a.flags, shadowFlags := b.flags, flagsBefore := s.ctx.mx.mxflags, word := (w, s.queueDep 0)
    pc := (s.str .mx).pc, sy := sy, dep := d }

/-- The MX stream becomes dependent from the `MDRN` onward: its checkpoint is the instruction after it (R194). -/
def State.openVer (s : State) : State :=
  let x := s.str .mx
  let n : Snap := { serial := s.serial, st := { x with pc := x.pc + 4, held := none }, regs := .mx s.ctx.mx }
  s.tick.mapCtx fun c => { c with ver := some (Epoch.fresh.take .mx n) }

/-- A drain whose checks passed, in forward mode, hold mode, or on a degraded core (R193, R204). -/
def State.startDrain (s : State) (d : Drain) : Eff :=
  let u := (s.popQ .mx 0).mapSys fun r => { r with drains := r.drains + 1 }
  if u.here.oneArray then
    let (l, f) := if u.here.mainFailed then (d.shadow, d.shadowFlags) else (d.main, d.mainFlags)
    match u.tileWrite d.dep l with
    | none => .stay (u.waitBits .mx l)
    | some u => .fin ((((u.raiseMx d.dep.spec f).verdict 5 (tileSig (View.ofWord d.vd) l)).mapCtx (·.event evInteg)).clearDrained d)
  else if d.forward then
    let (u, rest) := u.openVer.tileForward d.main
    .ok ((u.raiseMx d.dep.spec d.mainFlags).mapMx fun m => { m with drain := some { d with rest := rest } }) (if rest.isEmpty then .now else .verdict)
  else .ok (u.mapMx fun m => { m with drain := some d }) .verdict

/-- Contexts of the acting core that own one of the bands. -/
def State.owners (s : State) (bands : List Nat) : List Ctx :=
  s.resident.filter fun c => decide (c.key.core = s.ctx.key.core) &&
    bands.any fun b => decide (s.here.ownerOf b = some c.key.slot.val)

/-- The bands of the spans of the owners of the bands given. -/
def State.spanOf (s : State) (bands : List Nat) : List Nat :=
  ((s.owners bands).map fun c => bandsOf c.mx.spanBands).flatten

/-- The bands whose state an `MDRN` compares: its range, and the spans of the owners (R189). -/
def State.drainBands (s : State) (band nb : Nat) : List Nat := rangeBands band nb ++ s.spanOf (rangeBands band nb)

/-- `MDRN` -/
def execMdrn (sy : Sync) (vd : VReg) (band : Band) (nb : Fin 8) (clear : Bool) (s : State) :=
  s.runTile sy 0 (fun _ => []) fun u w =>
    let f := Fmt.ofWord w
    let v := u.view vd
    match u.bandFault band.val nb.val true with
    | some b => amFault b
    | none =>
      if !f.draining ∨ v.ty ≠ f.d then .trap cFMTKIND w
      else
        match firstFault [u.tileType vd false, shortIf (decide (16 * nb.val < v.rows) || decide (64 < v.cols)) vd,
            u.windowFault vd (u.whole vd)] with
        | some x => .trap cVIEW x
        | none =>
          match u.keepBands (if clear then rangeBands band.val nb.val else []) true with
          | none => .wait
          | some u =>
            match u.here.lost (u.drainBands band.val nb.val) with
            | some k => .trap cPOISON (spanVal band.val nb.val k)
            | none =>
              let u := u.mendBands (u.drainBands band.val nb.val)
              u.startDrain (u.newDrain sy vd band.val nb.val clear w (u.dep .mx))

end Sys2Proof.Machine
end

