-- ==== Sys2Proof/Machine/VerifyEv.lean ====
section
/-!
DEFINITION. Verdicts of drains and implicit points, Nougat's arbitration, and its self-test (08_verification R189,
R199 to R207, R213).
-/

namespace Sys2Proof.Machine

/-! ## Teams of contexts, and pre-emption's decision (R91, R204) -/

/-- Changes a team of a node. -/
def State.mapTeam (s : State) (p : Part) (id : BitVec 32) (i : Nat) (f : Team → Team) : State :=
  s.mapNode p id fun n => { n with teams := n.teams.mapIdx fun j t => if j = i then f t else t }

/-- A team of a node. -/
def State.team (s : State) (p : Part) (id : BitVec 32) (i : Nat) : Option Team := (s.node p id).bind fun n => n.teams[i]?

/-- The number of a context's team in its node (R72). -/
def Ctx.teamNo (c : Ctx) : Nat := c.ident.inst.toNat / c.launch.team

/-- The context's team is to be saved. -/
def State.toBeSaved (s : State) (c : Ctx) : Bool :=
  (s.team c.ident.part c.launch.node c.teamNo).any fun t => t.preempt.isSome

/-- Decides to pre-empt a team: its contexts receive EVT.PREEMPT (R91). -/
def State.preemptTeam (s : State) (p : Part) (id : BitVec 32) (i : Nat) : State :=
  match s.team p id i with
  | some t =>
    if t.preempt.isSome then s
    else
      (s.mapTeam p id i fun t => { t with preempt := some s.nstime }).mapAll fun c =>
        if c.live ∧ c.ident.part = p ∧ c.launch.node = id ∧ c.teamNo = i then c.event evPreempt else c
  | none => s

/-! ## Spans by owner (R190) -/

/-- A verification point on the spans of the owners (R190). -/
def State.settleSpans (s : State) (bands : List Nat) : State :=
  ((s.owners bands).map (·.key)).foldl (fun s k => s.on k fun t => t.agreeOn (bandsOf t.ctx.mx.spanBands)) s

/-! ## The verdict (R189, R193, R199) -/

/-- The drain is over: its pushes go. -/
def State.endDrain (s : State) : State :=
  (s.mapMx fun m => { m with drain := none, dispute := none }).mapCtx Ctx.settle

/-- A drain ends with its tile in RS. -/
def State.finishDrain (s : State) (d : Drain) (v : BitVec 4) (sig : Word) : State :=
  ((((s.verdict v sig).clearDrained d).settleSpans (rangeBands d.band d.nb))).endDrain

/-- Writes made whatever the journal holds. -/
def State.forceBits (s : State) (l : List BitWrite) : State := l.foldl (fun s w => s.rsSet (s.bytesOf w).1 (s.bytesOf w).2) s

/-- Writes the tile at the verdict, when the drain and its arbitration no longer hold writes back. A dependent write waits for
room in the journal; a clean one is made, without operand entries that find no room. -/
def State.verdictTile (s : State) (d : Dep) (l : List BitWrite) : Option State :=
  match (s.mapMx fun m => { m with drain := none, dispute := none }).tileWrite d l with
  | some t => some (t.mapMx fun m => { m with drain := s.ctx.mx.drain, dispute := s.ctx.mx.dispute })
  | none =>
    if d.ver || d.spec then none else some (s.forceBits l)

/-- A drain whose arrays agree (R199): `none` while its write waits. What a forward drain found no room for is written now
(R196). The signature kept is that of the bytes written, whatever the signature path gave (R203, R209). -/
def State.matched (s : State) (d : Drain) : Option State :=
  let sig := tileSig (View.ofWord d.vd) d.main
  if d.forward then ((s.finishDrain d 1 sig).closeEpoch false).verdictTile d.dep d.rest
  else (s.verdictTile d.dep d.main).map fun s => (s.raiseMx d.dep.spec d.mainFlags).finishDrain d 1 sig

/-- The signatures and every band of the span agree (R189). -/
def State.agrees (s : State) (d : Drain) : Bool :=
  decide (d.mainSig = d.shadowSig) && (s.spanOf (rangeBands d.band d.nb)).all fun b => s.here.main.agree s.here.shadow b

/-- The acting context's drain waits for its verdict. -/
def State.verdictDue (s : State) : Bool := s.ctx.mx.drain.isSome && s.ctx.mx.dispute.isNone

/-- Reaches the verdict: a match, or a mismatch for Nougat (R189, R200). -/
def State.reachVerdict (s : State) : State :=
  match s.ctx.mx.drain with
  | none => s
  | some d =>
    if s.agrees d then (s.matched d).getD s
    else
      let s := s.mapMx fun m => { m with dispute := some .drain }
      s.mapMg fun m => { m with nougat := m.nougat ++ [s.ctx.key] }

/-- `DRAIN_VERDICT` -/
def execDrainVerdict (k : CtxKey) (s : State) := s.eventOn k fun t => if t.verdictDue then t.reachVerdict else t

/-! ## Arbitration (R200) -/

/-- A context's register space with the operand entries of its journal in place (R196). An operand row that has been rewritten between two
logged commands is read as it stood at its first rewriting, for all of them: the spec does not say (log entry 57). -/
def State.operandRd (s : State) (c : Ctx) : Rd := fun off n =>
  (s.mem.getBytes (rsPa c.key.core.val (c.win.rsBase + off)) n).mapIdx fun i b =>
    match c.mx.opJournal.find? fun r => decide (r.row = (off + i) / 512) with
    | some r => ((r.cells.find? fun e => e.1 = off + i).map (·.2)).getD b
    | none => b

/-- What the span log adds to a slot: the commands since whose time its band has not been freed. -/
def State.delta (s : State) (c : Ctx) (key : Nat) (k : BandSt) : Slot :=
  ((c.mx.spanLog.filter fun q => q.bands.getLsbD (key / 1024)).map fun q => ((q.adds (s.operandRd c)).filter fun e => decide (q.chain.key e.1 e.2.1 = key)).map (·.2.2)).flatten.foldl
    (fun v l => v.addAll k.kind k.anchor l) Slot.zero

/-- A store's slot is consistent with its tag and the span log. -/
def slotOk (v d : Slot) (kind : BandKind) (tag : Nat × BitVec 4) : Bool :=
  decide (((wrapInt (if kind = .wide then 240 else 128) (v.s - d.s)) % 65521).toNat = tag.1) && decide (v.flags = tag.2 ||| d.flags)

/-- Names the array whose slot is inconsistent: true is the shadow. -/
def State.nameSlot (s : State) (key : Nat) : Option Bool :=
  let c := s.here
  let b := key / 1024
  match s.owners [b] with
  | [] => none
  | o :: _ =>
    let d := s.delta o key (c.main.band b)
    let tag := Table.get (0, 0) c.tags key
    let m := slotOk (c.main.slot key) d (c.main.band b).kind tag
    let h := slotOk (c.shadow.slot key) d (c.shadow.band b).kind tag
    if m = h then none else some m

/-- Slots whose states differ, in band-then-row-major order. -/
def State.differing (s : State) (bands : List Nat) : List Nat :=
  let c := s.here
  ((bands.map fun b => (grid 16 64).map fun q => slotKey b q.1 q.2).flatten).filter fun k => decide (c.main.slot k ≠ c.shadow.slot k)

/-- The slots that Nougat examines: at most four (R200). -/
def State.disputed (s : State) : List Nat :=
  match s.ctx.mx.dispute, s.ctx.mx.drain with
  | some .drain, some d =>
    let v := View.ofWord d.vd
    let es := ((grid v.rows v.cols).zip (d.main.zip d.shadow)).filter fun e => decide (e.2.1.val ≠ e.2.2.val)
    if es.isEmpty then (s.differing (s.spanOf (rangeBands d.band d.nb))).take 4
    else (es.map fun e => slotKey (d.band + e.1.1 / 16) (e.1.1 % 16) e.1.2).take 4
  | some (.point bands _), _ => (s.differing bands).take 4
  | _, _ => []

/-- What an arbitration answers. -/
inductive Ruling where
  | agree
  | faulty (shadow : Bool)
  | failed
deriving DecidableEq, Repr

/-- Nougat's ruling. -/
def State.ruling (s : State) : Ruling :=
  if s.mg.nougatBad.contains s.clusterNo then .failed
  else
    match s.disputed with
    | [] => .agree
    | k :: rest =>
      match s.nameSlot k with
      | none => .failed
      | some f => if rest.all fun q => decide (s.nameSlot q = some f) then .faulty f else .failed

/-- An array is marked FAILED: every context of the core has EVT.INTEG, teams that ask for STRICT are pre-empted (R201,
R204). -/
def State.failArray (s : State) (shadow : Bool) (keys : List Nat) : State :=
  let s := s.mapCore s.coreNo fun c => if shadow then { c with shadowFailed := true } else { c with mainFailed := true }
  let on (c : Ctx) : Bool := decide (c.key.core = s.ctx.key.core) && c.live
  let s := s.mapAll fun c => if on c then c.event evInteg else c
  let s := s.logHere .naming (bitOf shadow :: keys)
  (s.resident.filter on).foldl (fun s c =>
    if c.launch.degrade then s else s.preemptTeam c.ident.part c.launch.node c.teamNo) s

/-- The bands of a faulty store are rewritten from the good one (R201). -/
def State.rewriteBands (s : State) (shadow : Bool) (bands : List Nat) : State :=
  s.mapCore s.coreNo fun c =>
    if shadow then { c with shadow := bands.foldl (fun st b => st.copyBand c.main b) c.shadow }
    else { c with main := bands.foldl (fun st b => st.copyBand c.shadow b) c.main }

/-- The context leaves Nougat's queue. -/
def State.leaveNougat (s : State) : State := s.mapMg fun m => { m with nougat := m.nougat.filter (· ≠ s.ctx.key) }

/-- LASTVERDICT -/
def State.setVerdict (s : State) (v : BitVec 4) : State := s.mapSys fun r => { r with lastVerdict := v }

/-- VERIFY on the MX stream, held while the stream is dependent (R194, R202). -/
def State.verifyFault (s : State) (v : Word) : State :=
  let d := s.dep .mx
  if d.ver || d.spec then s.mapStr .mx fun x => { x with late := some (cVERIFY, v) } else s.recordFault .mx cVERIFY v

/-- MXFLAGS without the bits that a forward drain, now rolled back, was the first to set (R185). -/
def State.dropFlags (s : State) (d : Drain) : State :=
  if d.forward then s.mapCtx (·.mapFlags d.dep.spec fun f => f &&& ~~~(d.mainFlags &&& ~~~d.flagsBefore)) else s

/-- The pushes of a forward `MDRN` that was rolled back and now completes (R28, R201). -/
def State.repush (s : State) (d : Drain) : State :=
  if d.forward ∧ (d.sy.sp ∨ d.sy.sn) then
    (s.mapStr .mx fun x =>
      { x with pushes := x.pushes ++ [{ need := .now, toPrev := d.sy.sp, toNext := d.sy.sn, dep := d.dep }] }).mapCtx Ctx.settle
  else s

/-- Settles a drain with the tile of the good array (R201, R203): `none` while its write waits. -/
def State.repair (s : State) (d : Drain) (useShadow : Bool) (v : BitVec 4) : Option State :=
  let l := if useShadow then d.shadow else d.main
  let f := if useShadow then d.shadowFlags else d.mainFlags
  let s := if d.forward then (s.undo false).dropFlags d else s
  (s.verdictTile d.dep l).map fun s => ((s.raiseMx d.dep.spec f).finishDrain d v (tileSig (View.ofWord d.vd) l)).repush d

/-- Arbitration of a drain failed (R202): the stream stands before the `MDRN`, whose pops it keeps and whose format word is in the queue
again (R186). Pushes that wait for the verdict, and what waits behind them, are not made. In hold mode the spec does not say what becomes
of an `MNOP` or `MCHE` that issued behind the `MDRN`: it runs again, and the pops that it took and the pushes it has made stand (log entry
25). -/
def State.failDrain (s : State) (d : Drain) (key : Option Nat) : State :=
  let s := if d.forward then (s.undo false).dropFlags d else s
  let s := s.mapMx fun m => { m with drain := none, dispute := none }
  let s := (s.mapSys fun r => { r with verdicts := r.verdicts + 1 }).setVerdict 4
  let s := s.countMismatch
  let s := s.mapStr .mx fun x =>
    { x with pc := d.pc, held := if d.sy.wp || d.sy.wn then some (d.sy.wp, d.sy.wn, .clean) else none
             pushes := x.pushes.takeWhile fun p => decide (p.need ≠ .verdict) }
  let s := s.mapCtx fun c => Ctx.settle { c with queues := c.queues.set 0 ((c.queues[0]).unpop [d.word]) }
  s.verifyFault ((key.map (spanVal d.band d.nb)).getD (BitVec.ofNat 64 d.band))

/-- Carries out the ruling on the acting context's dispute (R201 to R203). -/
def State.settleDispute (s : State) : State :=
  match s.ctx.mx.dispute, s.ctx.mx.drain with
  | some .drain, some d =>
    match s.ruling with
    | .agree =>
      match s.matched d with
      | some t => (t.countMismatch.logHere .signature []).leaveNougat
      | none => s
    | .faulty f =>
      match ((s.failArray f s.disputed).rewriteBands f (s.spanOf (rangeBands d.band d.nb))).repair d (!f) (if f then 3 else 2) with
      | some t => t.countMismatch.leaveNougat
      | none => s
    | .failed => (s.failDrain d s.disputed.head?).leaveNougat
  | some (.point bands _), _ =>
    let done (t : State) : State := (t.mapMx fun m => { m with dispute := none }).countMismatch.leaveNougat
    match s.ruling with
    | .agree => (done (s.setVerdict 1)).agreeOn bands
    | .faulty f => (done (((s.failArray f s.disputed).rewriteBands f bands).setVerdict (if f then 3 else 2))).agreeOn bands
    | .failed =>
      let key := s.disputed.headD (bands.headD 0 * 1024)
      ((done (s.setVerdict 4)).mapMx fun m => { m with pointFailed := s.toBeSaved s.ctx }).verifyFault (verifyVal (key / 1024) key)
  | _, _ => s.leaveNougat

/-- The dispute that Nougat of the acting cluster takes next is the acting context's: contexts to be saved go first
(R200). -/
def State.nougatTurn (s : State) : Bool :=
  let mine := s.mg.nougat.filter fun k => decide (clusterOfCore k.core.val = s.clusterNo)
  let first := mine.filter fun k => s.resident.any fun c => decide (c.key = k) && s.toBeSaved c
  decide ((first ++ mine).head? = some s.ctx.key)

/-- `NOUGAT_ARBITRATION` -/
def execNougatArbitration (k : CtxKey) (s : State) :=
  s.eventOn k fun t => if t.nougatTurn then t.settleDispute else t

/-- `NOUGAT_SELF_TEST`: a failed test fails every arbitration of the cluster until a module reset (R213). -/
def execNougatSelfTest (cl : Cluster) (pass : Bool) (s : State) :=
  s.event true fun t => (t.loadPending .nougat).mapMg fun m =>
    { m with nougatBad := if pass || m.nougatBad.contains cl.val then m.nougatBad else cl.val :: m.nougatBad }

end Sys2Proof.Machine
end

