-- ==== Sys2Proof/Machine/Copy.lean ====
section
/-!
DEFINITION. The copy streams: control, offsets and shapes, and the issue of copy commands with its checks
(10_copy R239 to R252, R261).
-/

namespace Sys2Proof

/-- Bytes of an element that a code combines, where ESZ gives `esz` bytes (R247). -/
def RedCopy.size (r : RedCopy) (esz : Nat) : Nat :=
  match r with
  | .none => 1
  | .addFp32 => 4
  | .addBf16 => 2
  | _ => esz

/-- One element combined at its destination: the old value `d` and the arriving value `v` of `n` bytes (R247). -/
def RedCopy.combine (r : RedCopy) (n d v : Nat) : Nat :=
  match r with
  | .none => v
  | .addInt => (d + v) % 2 ^ (8 * n)
  | .addFp32 => Machine.fpAdd .fp32 d v
  | .addBf16 => Machine.fpAdd .bf16 d v
  | .min => Machine.signedPick n false d v
  | .max => Machine.signedPick n true d v

end Sys2Proof

namespace Sys2Proof.Machine

/-! ## Commands as rows of bytes (R240) -/

/-- Source offset of row `r`. -/
def CopyCmd.srcRow (q : CopyCmd) (r : Nat) : Int :=
  match q.kind with
  | .gather _ => q.rowsAt.getD r 0
  | _ => q.srcOff + r * q.srcStride

/-- Destination offset of row `r`. -/
def CopyCmd.dstRow (q : CopyCmd) (r : Nat) : Int := q.dstOff + r * q.dstStride

/-- The command reads a source. -/
def CopyCmd.hasSource (q : CopyCmd) : Bool :=
  match q.kind with
  | .fill _ => false
  | _ => true

/-- How the command combines at its destination. -/
def CopyCmd.red (q : CopyCmd) : RedCopy :=
  match q.kind with
  | .copy r _ _ => r
  | _ => .none

/-- Its poison policy is ZERO (R245). -/
def CopyCmd.zeroes (q : CopyCmd) : Bool :=
  match q.kind with
  | .copy _ _ z => z || q.src.zeroes
  | .gather _ | .slotIn => q.src.zeroes
  | .fill _ | .slotOut => false

/-- Its reference, where it compares one (R247). -/
def CopyCmd.ref (q : CopyCmd) : Option Word :=
  match q.kind with
  | .copy _ r _ => r
  | _ => none

/-- Bytes that its arrival counts (R244). -/
def CopyCmd.count (q : CopyCmd) : Nat := q.run * q.rows

/-- Source and destination offsets of every byte, in index order (R240). -/
def CopyCmd.offsets (q : CopyCmd) : List (Int × Int) :=
  ((List.range q.rows).map fun r => (List.range q.run).map fun (j : Nat) =>
    (q.srcRow r + (j : Int), q.dstRow r + (j : Int))).flatten

/-- Places of the source bytes in index order. -/
def State.srcPlaces (s : State) (q : CopyCmd) : List Place :=
  if q.hasSource then q.offsets.map fun o => s.byteAt q.src o.1.toNat else []

/-- Places of the destination bytes in index order. -/
def State.dstPlaces (s : State) (q : CopyCmd) : List Place := q.offsets.map fun o => s.byteAt q.dst o.2.toNat

/-- Consecutive bytes of one 128-byte sector joined: the requests that a list of bytes sends. -/
def chunks : List Place → List (Place × Nat)
  | [] => []
  | p :: ps =>
    match chunks ps with
    | (q, n) :: rest =>
      if q.pa = p.pa + 1 ∧ sectorOf q.pa = sectorOf p.pa then (p, n + 1) :: rest else (p, 1) :: (q, n) :: rest
    | [] => [(p, 1)]

/-- Offset in the RS window of a place in it. -/
def State.rsOffset (s : State) (p : Place) : Option Nat :=
  if s.rsAddr 0 ≤ p.pa ∧ p.pa < s.rsAddr s.ctx.win.rsSize then some (p.pa - s.rsAddr 0) else none

/-- What reading bytes of the RS window depends on (R194, R197). -/
def State.placesDep (s : State) (ps : List Place) : Dep :=
  (chunks ps).foldl (fun d c =>
    match s.rsOffset c.1 with
    | some o => d.or (s.rsDep o c.2)
    | none => d) .clean

/-- What a command's reads depend on: its source, and its destination where it combines. -/
def State.copyDep (s : State) (q : CopyCmd) : Dep :=
  (s.placesDep (s.srcPlaces q)).or (if q.red = .none then .clean else s.placesDep (s.dstPlaces q))

/-- The address that a fault about a byte of a bound handle names: virtual, or in a local window, or the offset in
the RS window. -/
def Bound.address (b : Bound) (off : Int) : Word :=
  let o := BitVec.ofInt 64 off
  match b with
  | .rs => o
  | .sp => o + 0x00FF000000000000
  | .clusterSp => o + 0x00FE000000000000
  | .dsp => o + 0x00FD000000000000
  | .map _ m => m.base + o
  | .slot pa _ => o + BitVec.ofNat 64 pa

/-! ## The wrapper of copy-stream instructions -/

/-- Commands of the stream are in flight. -/
def CopySt.busy (c : CopySt) : Bool := c.flight.any fun q => !q.done

/-- What an instruction of the stream pops is noted with every command in flight, whose fault would give it back (R328; log entry 45). -/
def State.lend (s : State) (t : CopyStream) (toks : List (Fin 10 × Dep)) (words : List (Word × Dep)) : State :=
  if !(s.cp t).busy then s
  else s.mapCp t fun c => { c with flight := c.flight.map fun q => { q with tokens := q.tokens ++ toks, words := q.words ++ words } }

/-- The tokens that an instruction pops when it issues, none where it restarts with those it holds. -/
def State.popList (s : State) (t : Stream) (sy : Sync) : List (Fin 10 × Dep) :=
  if (s.str t).held.isSome then [] else (popsOf t sy).map fun k => (k, (s.ctx.tok[k]).headD .clean)

/-- What an instruction does behind commands in flight: its pushes follow their completion (R266), and a fault of it waits until none of
them can fault before it (R328). -/
def Eff.behind (c : CopySt) (e : Eff) : Eff :=
  match e with
  | .ok u .now => .ok u (.copies c.issued)
  | .trap k v => if c.busy then .wait else .trap k v
  | .trapAfter f k v => if c.busy then .wait else .trapAfter f k v
  | e => e

/-- Runs an instruction of the acting copy stream. -/
def State.runCp (s : State) (sy : Sync) (len : Nat) (hold : Hold) (reads : CopyStream → State → Dep)
    (body : CopyStream → State → Eff) : Host.Outcome State Fault Refusal :=
  let t := s.copySide
  s.run t.stream sy len hold (fun u => ⟨reads t u, [], []⟩) fun u =>
    (body t (u.lend t (s.popList t.stream sy) [])).behind (s.cp t)

/-- Takes the word at the head of the stream's parameter queue. -/
def State.popWord (s : State) (t : CopyStream) (w : Word) : State := (s.popQ t.stream t.queue).lend t [] [(w, s.queueDep t.queue)]

/-- Nothing read beyond the stream's own registers. -/
def noReads (_ : CopyStream) (_ : State) : Dep := .clean

/-- `XNOP` -/
def execXnop (sy : Sync) (s : State) := s.runCp sy 0 .run noReads fun _ u => .fin u

/-- `XEND` (R28, R246) -/
def execXend (sy : Sync) (s : State) :=
  s.runCp sy 0 .spec noReads fun t u => if (u.cp t).flight.isEmpty then .fin (u.stopStream t.stream) else .wait

/-- `XWAIT` -/
def execXwait (sy : Sync) (s : State) :=
  s.runCp sy 0 .run noReads fun t u => if (u.cp t).doneseq = (u.cp t).issued then .fin u else .wait

/-- `XPQ` -/
def execXpq (sy : Sync) (od : OReg) (s : State) :=
  s.runCp sy 0 .run (fun t u => u.queueDep t.queue) fun t u =>
    match (u.ctx.queues[t.queue]).peek with
    | none => .wait
    | some w => .fin ((u.popWord t w).mapCp t fun c => { c with o := c.o.set od w })

/-- What the two heads of a queue depend on. -/
def State.queueDep2 (s : State) (k : Fin 4) : Dep := ((s.ctx.queues[k]).deps.take 2).foldl Dep.or .clean

/-- `XSHP` -/
def execXshp (sy : Sync) (sh : ShReg) (s : State) :=
  s.runCp sy 0 .run (fun t u => u.queueDep2 t.queue) fun t u =>
    match (u.ctx.queues[t.queue]).peek, (u.ctx.queues[t.queue]).peek2 with
    | some a, some b =>
      if a.toNat / 2 ^ 51 ≠ 0 ∨ 3 < a.toNat / 2 ^ 48 % 8 then
        .trap cILLEGAL (BitVec.ofNat 64 (Bad.trapval ⟨.operand, 0⟩ ((encode (.xshp sy sh)).headD 0)))
      else .fin (((u.popWord t a).popWord t b).mapCp t fun c => { c with sh := c.sh.set sh (a, b) })
    | _, _ => .wait

/-- `XADO`'s effect. -/
def State.addOffset (s : State) (sy : Sync) (len : Nat) (od : OReg) (imm : Word) : Host.Outcome State Fault Refusal :=
  s.runCp sy len .run noReads fun t u => .fin (u.mapCp t fun c => { c with o := c.o.set od (c.o[od] + imm) })

/-- `XADO` -/
def execXado (sy : Sync) (od : OReg) (imm : BitVec 16) (s : State) := s.addOffset sy 0 od (sext64 imm)
/-- `XADO` with LEN 1 -/
def execXadoLen1 (sy : Sync) (od : OReg) (imm : BitVec 44) (s : State) := s.addOffset sy 1 od (sext64 imm)

/-! ## The checks at issue (R242) -/

/-- A handle that a command names: its number, the offset its faults report, and whether it is written. -/
structure Named where
  h : HReg
  off : Word
  write : Bool

/-- The value of a HANDLE fault about a named handle. -/
def Named.val (n : Named) (sub : Nat) : Word := handleVal sub n.h.val n.off.toInt

/-- Checks 1 and 2. -/
def State.nameFault (s : State) (l : List Named) : Option (BitVec 8 × Word) :=
  match l.find? fun n => (s.bind n.h).isNone with
  | some n => some (cHANDLE, n.val hUNMAPPED)
  | none =>
    match l.find? fun n => !((s.bind n.h).any fun b => if n.write then b.writes else b.reads) with
    | some n => some (cHANDLE, n.val hRIGHTS)
    | none => none

/-- Check 3: the first failing byte in index order, the destination before the source. -/
def State.reachFault (s : State) (q : CopyCmd) (hd hs : Nat) : Option (BitVec 8 × Word) :=
  q.offsets.findSome? fun o =>
    if !s.reaches q.dst o.2 then some (cHANDLE, handleVal hBOUNDS hd o.2)
    else if q.hasSource && !s.reaches q.src o.1 then some (cHANDLE, handleVal hBOUNDS hs o.1)
    else none

/-- Check 4: the first of od, os, the strides and the row length that is no multiple of the element size. -/
def CopyCmd.alignFault (q : CopyCmd) : Option (BitVec 8 × Word) :=
  let n : Int := q.red.size q.esz
  ([q.dstOff, q.srcOff, q.srcStride, q.dstStride, (q.run : Int)].find? fun v => decide (v % n ≠ 0)).map fun v =>
    (cALIGN, BitVec.ofInt 64 v)

/-- The task whose barrier a command counts into: the owner of the SP window that receives byte 0, else the
issuing context (R244). -/
def State.barOwner (s : State) (q : CopyCmd) : CtxKey :=
  match s.windowOwner (s.byteAt q.dst (q.dstRow 0).toNat).pa with
  | some c => c.key
  | none => s.ctx.key

/-- Check 5: the physical address of the barrier descriptor, or the address that fails. -/
def State.copyBar (s : State) (q : CopyCmd) (b : BReg) : Except (BitVec 8 × Word) Nat :=
  match s.focus (s.barOwner q) with
  | none => .error (cPROT, s.barAddr b)
  | some t =>
    match t.descPlace (t.barAddr b) 32 with
    | none => .error (cPROT, t.barAddr b)
    | some pa => .ok pa

/-- Checks 3 to 5 of a command, whose barrier it then names. -/
def State.checkCopy (s : State) (q : CopyCmd) (hd hs : Nat) (b : BReg) : Except (BitVec 8 × Word) CopyCmd :=
  match s.reachFault q hd hs with
  | some f => .error f
  | none =>
    match (if q.red = .none then none else q.alignFault) with
    | some f => .error f
    | none =>
      match s.copyBar q b with
      | .error f => .error f
      | .ok pa => .ok { q with barAddr := pa }

/-- Requests to the stacks of each die among chunks (R325). -/
def State.dueOf (s : State) (l : List (Place × Nat)) : List Nat :=
  (List.range 6).map fun d =>
    (l.filter fun c => decide (c.1.pa < hbmTop) && decide (homeDie s.mg.mode c.1.pa = d)).length

/-- A source handle with read rights only reads by the read-only path (R268). -/
def Bound.readOnly (b : Bound) : Bool :=
  match b with
  | .map _ m => decide (m.rights = .r)
  | _ => false

/-- A read that the L1 data cache of the core holds, so that it sends no request (R220, R325; log entry 53). -/
def State.inL1 (s : State) (ro : Bool) (c : Place × Nat) : Bool :=
  !c.1.win && !c.1.device && decide (c.1.pa < hbmTop) &&
    ((s.here.l1s.contains (sectorOf c.1.pa) && !s.storeWaits (sectorOf c.1.pa)) ||
      (ro && s.here.roLines.any fun l => decide (l.1 = sectorOf c.1.pa)))

/-- The requests that a command sends: those of its source that L1D does not serve, and those of its destination. -/
def State.copyDue (s : State) (q : CopyCmd) : List Nat :=
  s.dueOf (((chunks (s.srcPlaces q)).filter fun c => !s.inL1 q.src.readOnly c) ++ chunks (s.dstPlaces q))

/-- A command issues: it takes the next sequence number, and its requests their place at the core's port (R241, R325). -/
def State.issue (s : State) (t : CopyStream) (q : CopyCmd) : Eff :=
  let n := (s.cp t).issued + 1
  let r := s.payOrQueue (.copy t n) q.cls (s.copyDue q)
  let q := { q with seq := n, dep := s.dep t.stream, o := (s.cp t).o, sh := (s.cp t).sh, due := r.1 }
  .ok (r.2.mapCp t fun c => { c with issued := n, flight := c.flight ++ [q] }) (.copies n)

/-- DONESEQ steps over the commands that are done. -/
def CopySt.advance : Nat → CopySt → CopySt
  | 0, c => c
  | fuel + 1, c =>
    if c.flight.any fun q => decide (q.seq = c.doneseq + 1) && q.done then
      CopySt.advance fuel { c with doneseq := c.doneseq + 1, flight := c.flight.filter fun q => decide (q.seq ≠ c.doneseq + 1) }
    else c

/-- A command that is done keeps its number only: its bindings have ended. -/
def CopyCmd.finished (q : CopyCmd) : CopyCmd :=
  { q with done := true, dst := .rs, src := .rs, kind := .fill 0, rowsAt := [] }

/-- The instruction at the stream's pc is a command that was done before a fault took the stream back before it (R328; log entry 45). -/
def State.ranEarly (s : State) (t : CopyStream) : Bool := (s.cp t).early.contains ((s.cp t).issued + 1, (s.str t.stream).pc)

/-- Such a command takes its number again and is done: its bytes and its arrival have been. -/
def State.reissue (s : State) (t : CopyStream) (q : CopyCmd) : Eff :=
  let n := (s.cp t).issued + 1
  let q := { q with seq := n, dep := s.dep t.stream, o := (s.cp t).o, sh := (s.cp t).sh }.finished
  .ok (s.mapCp t fun c => CopySt.advance (c.flight.length + 1)
    { c with issued := n, flight := c.flight ++ [q], early := c.early.filter fun e => decide (e.1 ≠ n) }) (.copies n)

/-- A command with nothing filled in but its shape and offsets. -/
def State.blankCmd (s : State) (t : CopyStream) (sy : Sync) (kind : CopyKind) (dst src : Bound) (od os : Word) (sh : Word × Word)
    (cls : Fin 16) (hint : Hint) (hd : Nat) : CopyCmd :=
  { seq := 0, kind := kind, pc := (s.str t.stream).pc, sy := sy, dst := dst, dstOff := od.toNat
    dstStride := (sh.2.extractLsb' 32 32).toInt, src := src, srcOff := os.toNat, srcStride := (sh.2.extractLsb' 0 32).toInt
    run := sh.1.toNat % 2 ^ 24 + 1, rows := sh.1.toNat / 2 ^ 24 % 2 ^ 24 + 1, esz := 2 ^ (sh.1.toNat / 2 ^ 48 % 8), rowsAt := []
    cls := cls, barAddr := 0, ringAddr := 0, slot := 0, hd := hd, owes := false, done := false, heldBytes := false
    dep := .clean, zeroed := 0, due := List.replicate 6 0, hint := hint, moving := none, o := (s.cp t).o, sh := (s.cp t).sh, tokens := []
    words := [] }

/-- The bound handle, once checks 1 and 2 have passed. -/
def State.bound (s : State) (h : HReg) : Bound := (s.bind h).getD .rs

/-! ## XCPY (R247) -/

/-- An `XCPY` as its operands give it, with its reference not yet taken. -/
def State.cpyCmd (s : State) (t : CopyStream) (sy : Sync) (hd : HReg) (od : OReg) (hs : HReg) (os : OReg) (sh : ShReg)
    (red : RedCopy) (cls : Fin 16) (hint : Hint) (zero : Bool) : CopyCmd :=
  let c := s.cp t
  s.blankCmd t sy (.copy red none zero) (s.bound hd) (s.bound hs) c.o[od] c.o[os] c.sh[sh] cls hint hd.val

/-- All five checks of an `XCPY`. -/
def State.cpyChecked (s : State) (t : CopyStream) (sy : Sync) (hd : HReg) (od : OReg) (hs : HReg) (os : OReg) (b : BReg)
    (sh : ShReg) (red : RedCopy) (cls : Fin 16) (hint : Hint) (zero : Bool) : Except (BitVec 8 × Word) CopyCmd :=
  match s.nameFault [⟨hd, (s.cp t).o[od], true⟩, ⟨hs, (s.cp t).o[os], false⟩] with
  | some f => .error f
  | none => s.checkCopy (s.cpyCmd t sy hd od hs os sh red cls hint zero) hd.val hs.val b

/-- The reference that a command compares: one kept by a fault, or the head of the parameter queue. -/
def State.takeRef (s : State) (t : CopyStream) : Option (Word × State) :=
  match (s.str t.stream).ref with
  | some w => some (w, s.mapStr t.stream fun x => { x with ref := none })
  | none => ((s.ctx.queues[t.queue]).peek).map fun w => (w, s.popWord t w)

/-- `XCPY` -/
def execXcpy (sy : Sync) (hd : HReg) (od : OReg) (hs : HReg) (os : OReg) (b : BReg) (sh : ShReg) (red : RedCopy) (cls : Fin 16)
    (hint : Hint) (cmp zero : Bool) (s : State) :=
  s.runCp sy 1 (if red = .none then .spec else .both)
    (fun t u =>
      match u.cpyChecked t sy hd od hs os b sh red cls hint zero with
      | .error _ => .clean
      | .ok q => (u.copyDep q).or (if cmp && (u.str t.stream).ref.isNone then u.queueDep t.queue else .clean))
    fun t u =>
      if u.ranEarly t then
        let q := u.cpyCmd t sy hd od hs os sh red cls hint zero
        if cmp then ((u.takeRef t).elim .wait fun r => r.2.reissue t q) else u.reissue t q
      else trapOr (u.cpyChecked t sy hd od hs os b sh red cls hint zero) fun q =>
        if cmp then
          match u.takeRef t with
          | none => .wait
          | some (w, u) => u.issue t { q with kind := .copy red (some w) zero }
        else u.issue t q

/-! ## XFIL (R251) -/

/-- `XFIL` -/
def execXfil (sy : Sync) (hd : HReg) (od : OReg) (b : BReg) (sh : ShReg) (fill : BitVec 8) (cls : Fin 16) (hint : Hint)
    (s : State) :=
  s.runCp sy 1 .spec noReads fun t u =>
    let c := u.cp t
    if u.ranEarly t then u.reissue t (u.blankCmd t sy (.fill fill) .rs .rs 0 0 c.sh[sh] cls hint hd.val)
    else match u.nameFault [⟨hd, c.o[od], true⟩] with
    | some (f, v) => .trap f v
    | none => trapOr (u.checkCopy (u.blankCmd t sy (.fill fill) (u.bound hd) .rs c.o[od] 0 c.sh[sh] cls hint hd.val) hd.val 0 b) fun q =>
        u.issue t q

/-! ## XGTH (R250) -/

/-- The place of each index byte, or the first that fails. -/
def State.indexPlaces (s : State) (b : Bound) (off : Word) (n h : Nat) : Except (BitVec 8 × Word) (List (Int × Place)) :=
  let l := (List.range n).map fun (i : Nat) => (off.toNat : Int) + (i : Int)
  match l.find? fun o => !s.reaches b o with
  | some o => .error (cHANDLE, handleVal hBOUNDS h o)
  | none => .ok (l.map fun o => (o, s.byteAt b o.toNat))

/-- A request of a copy command for a sector stands in a fault queue. -/
def State.copyWaits (s : State) (t : CopyStream) (n : BitVec 32) (reads : Bool) (sec : Nat) : Bool :=
  s.ms.parked.any fun r => decide (r.key = s.ctx.key) && decide (sectorOf r.addr = sec) &&
    match r.kind with
    | .copy u k d _ => decide (u = t) && decide (k = n) && decide (d = reads)
    | _ => false

/-- Bytes of a copy command reach their homes, which park them: one request for each sector (R237). -/
def State.parkPlaces (s : State) (t : CopyStream) (n : BitVec 32) (reads comb : Bool) (cls : Fin 16) (l : List (Place × Word)) : State :=
  l.foldl (fun s e =>
    if s.copyWaits t n reads (sectorOf e.1.pa) || !(s.mustPark e.1 1 || (comb && s.atomParks e.1 1)) then s
    else (s.tick.arrive (s.request e.1 e.2 cls (.copy t n reads comb))).getD s) s

/-- The indices of a gather. -/
structure Indices where
  rows : List Nat
  zeroed : Nat
  places : List Place

/-- Merges the reduction sectors that bytes lie in (R284). -/
def State.mergePlaces (s : State) (l : List Place) : State := l.foldl (fun s p => s.mergeRange p.pa 1) s

/-- Bytes as they are read through their pages: reductions are merged, and each page's key applies (R225, R284). -/
def State.openPlaces (s : State) (l : List Place) : State := l.foldl (fun s p => s.rekey p.pa 1 p.key) (s.mergePlaces l)

/-- Reads the indices: POISON under STRICT, zeros under ZERO (R250). -/
def State.readIndices (s : State) (t : CopyStream) (b : Bound) (n h : Nat) : Except (BitVec 8 × Word) Indices :=
  match s.indexPlaces b (s.cp t).o[15] (4 * n) h with
  | .error f => .error f
  | .ok l =>
    let bad (e : Int × Place) : Bool := s.badAt e.2.pa 1
    match (if b.zeroes then none else l.find? bad) with
    | some e => .error (cPOISON, b.address e.1)
    | none =>
      let m := s.openPlaces (l.map (·.2))
      let v := l.map fun e => if bad e then 0 else ((m.through e.2.pa (m.seenBy m.dieNo e.2.pa 1)).headD 0)
      .ok { rows := (List.range n).map fun r => leValue ((v.drop (4 * r)).take 4)
            zeroed := (((l.filter bad).map fun e => sectorOf e.2.pa).eraseDups).length, places := l.map (·.2) }

/-- An `XGTH` with its rows. -/
def State.gthCmd (s : State) (t : CopyStream) (sy : Sync) (hd : HReg) (od : OReg) (hs : HReg) (os : OReg) (hi : HReg) (sh : ShReg)
    (cls : Fin 16) (hint : Hint) (x : Indices) : CopyCmd :=
  let c := s.cp t
  let q := s.blankCmd t sy (.gather (s.bound hi)) (s.bound hd) (s.bound hs) c.o[od] c.o[os] c.sh[sh] cls hint hd.val
  { q with rowsAt := x.rows.map fun (i : Nat) => q.srcOff + (i : Int) * q.srcStride, zeroed := x.zeroed }

/-- The checks of an `XGTH`. -/
def State.gthChecked (s : State) (t : CopyStream) (sy : Sync) (hd : HReg) (od : OReg) (hs : HReg) (os : OReg) (b : BReg) (hi : HReg)
    (sh : ShReg) (cls : Fin 16) (hint : Hint) : Except (BitVec 8 × Word) (CopyCmd × Indices) :=
  let c := s.cp t
  match s.nameFault [⟨hd, c.o[od], true⟩, ⟨hs, c.o[os], false⟩, ⟨hi, c.o[15], false⟩] with
  | some f => .error f
  | none =>
    match s.readIndices t (s.bound hi) (c.sh[sh].1.toNat / 2 ^ 24 % 2 ^ 24 + 1) hi.val with
    | .error f => .error f
    | .ok x => (s.checkCopy (s.gthCmd t sy hd od hs os hi sh cls hint x) hd.val hs.val b).map fun q => (q, x)

/-- The index bytes of a gather, where its handles and they pass their checks. -/
def State.indexBytes (s : State) (t : CopyStream) (hd : HReg) (od : OReg) (hs : HReg) (os : OReg) (hi : HReg) (sh : ShReg) : List Place :=
  let c := s.cp t
  match s.nameFault [⟨hd, c.o[od], true⟩, ⟨hs, c.o[os], false⟩, ⟨hi, c.o[15], false⟩] with
  | some _ => []
  | none =>
    match s.indexPlaces (s.bound hi) c.o[15] (4 * (c.sh[sh].1.toNat / 2 ^ 24 % 2 ^ 24 + 1)) hi.val with
    | .error _ => []
    | .ok l => l.map (·.2)

/-- The index bytes can be read once their requests have left the core's port, behind everything that it held: the state with the
requests paid, or what the stream does meanwhile (R250, R266, R325). -/
def State.indexReady (s : State) (t : CopyStream) (b : Bound) (l : List Place) (cls : Fin 16) : Except Eff State :=
  let pc := (s.str t.stream).pc
  let ask (v : State) : List Nat × State := v.payOrQueue (.index t) cls (v.dueOf ((chunks l).filter fun c => !v.inL1 b.readOnly c))
  match (s.cp t).indexDue.filter fun e => decide (e.1 = pc) with
  | some (_, due) => if due.any (0 < ·) then .error .wait else .ok (s.mapCp t fun c => { c with indexDue := none })
  | none =>
    if (ask s).1.any (0 < ·) then .error (.stay fun v => (ask v).2.mapCp t fun c => { c with indexDue := some (pc, (ask v).1) })
    else .ok (ask s).2

/-- The state once the requests of the index bytes have left the port. -/
def State.indexPaid (s : State) (t : CopyStream) (b : Bound) (l : List Place) (cls : Fin 16) : State :=
  match s.indexReady t b l cls with
  | .ok u => u
  | .error _ => s

/-- `XGTH` -/
def execXgth (sy : Sync) (hd : HReg) (od : OReg) (hs : HReg) (os : OReg) (b : BReg) (hi : HReg) (sh : ShReg) (cls : Fin 16)
    (hint : Hint) (s : State) :=
  s.runCp sy 1 .spec
    (fun t u =>
      match u.gthChecked t sy hd od hs os b hi sh cls hint with
      | .error _ => .clean
      | .ok (q, x) => (u.copyDep q).or (u.placesDep x.places))
    fun t u =>
      let l := u.indexBytes t hd od hs os hi sh
      if u.ranEarly t then
        u.reissue t (u.blankCmd t sy (.fill 0) .rs .rs 0 0 (u.cp t).sh[sh] cls hint hd.val)
      else if l.any fun p => u.mustPark p 1 then
        .stay fun v => v.parkPlaces t ((v.cp t).issued + 1) true false cls
          (l.mapIdx fun i p => (p, (u.bound hi).address ((((u.cp t).o[15]).toNat : Int) + (i : Int))))
      else
        match u.indexReady t (u.bound hi) l cls with
        | .error e => e
        | .ok w =>
          match w.gthChecked t sy hd od hs os b hi sh cls hint with
          | .error (f, x) => .trapAfter (fun v => v.indexPaid t (u.bound hi) l cls) f x
          | .ok q =>
            ((chunks q.2.places).foldl (fun u c => (u.cached c.1 .load hint).note c.1.pa c.2 cls false) (w.openPlaces q.2.places)).issue t q.1

/-! ## XSLT (R252) -/

/-- A slot command of a ring: the slot side is number `n` of the ring at `pa`. -/
def State.slotCmd (s : State) (t : CopyStream) (sy : Sync) (kind : CopyKind) (h : HReg) (o : Word) (r : SlotRing) (pa n : Nat)
    (cls : Fin 16) (hint : Hint) : CopyCmd :=
  let slot := Bound.slot ((s.slotArray r).getD 0 + r.size * (n % r.count)) r.size
  let q := match kind with
    | .slotIn => s.blankCmd t sy kind slot (s.bound h) 0 o (0, 0) cls hint h.val
    | _ => s.blankCmd t sy kind (s.bound h) slot o 0 (0, 0) cls hint h.val
  { q with run := r.size, ringAddr := pa, slot := n }

/-- The slot of a command is reserved, or acquired: RES or ACQ steps over it (R252). -/
def State.takeSlot (s : State) (q : CopyCmd) : State :=
  match q.kind with
  | .slotIn => s.setCount q.ringAddr 0x10 (q.slot + 1)
  | .slotOut => s.setCount q.ringAddr 0x18 (q.slot + 1)
  | _ => s

/-- A slot command issues; in the verification epoch its effect on the ring waits for the verdict (R195, R261). -/
def State.issueSlot (s : State) (t : CopyStream) (q : CopyCmd) : Eff :=
  if s.dep t.stream = .clean then (s.takeSlot q).issue t q else s.issue t { q with owes := true }

/-- `XSLT.in` -/
def execXsltIn (sy : Sync) (hs : HReg) (os : OReg) (sl : SlReg) (b : BReg) (cls : Fin 16) (hint : Hint) (s : State) :=
  let cmd (t : CopyStream) (u : State) (pa : Nat) (r : SlotRing) : CopyCmd := u.slotCmd t sy .slotIn hs (u.cp t).o[os] r pa r.res cls hint
  s.runCp sy 1 .spec
    (fun t u =>
      match u.descPlace (u.slotAddr sl) 64 with
      | none => .clean
      | some pa => if (u.bind hs).isSome then u.copyDep (cmd t u pa (u.mem.slotRing pa)) else .clean)
    fun t u =>
      if u.ranEarly t then u.reissue t (u.blankCmd t sy .slotIn .rs .rs 0 0 (0, 0) cls hint hs.val)
      else u.onSlot sl false fun pa r =>
      if r.free = 0 ∨ u.slotOwed pa then .wait
      else
        match u.nameFault [⟨hs, (u.cp t).o[os], false⟩] with
        | some (f, v) => .trap f v
        | none => trapOr (u.checkCopy (cmd t u pa r) 0 hs.val b) fun q => u.issueSlot t q

/-- `XSLT.out` -/
def execXsltOut (sy : Sync) (hd : HReg) (od : OReg) (sl : SlReg) (b : BReg) (cls : Fin 16) (hint : Hint) (s : State) :=
  s.runCp sy 1 .spec noReads fun t u =>
    if u.ranEarly t then u.reissue t (u.blankCmd t sy .slotOut .rs .rs 0 0 (0, 0) cls hint hd.val)
    else u.onSlot sl true fun pa r =>
    if r.filled = 0 ∨ u.slotOwed pa then .wait
    else
      match u.nameFault [⟨hd, (u.cp t).o[od], true⟩] with
      | some (f, v) => .trap f v
      | none => trapOr (u.checkCopy (u.slotCmd t sy .slotOut hd (u.cp t).o[od] r pa r.acq cls hint) hd.val 0 b) fun q => u.issueSlot t q

end Sys2Proof.Machine
end

