-- ==== Sys2Proof/Machine/CopyDone.lean ====
section
/-!
DEFINITION. How a copy command's bytes move, its arrival and its faults (10_copy R240 to R252, 12_atomics R286,
R287, 14_clocks R325).
-/

namespace Sys2Proof.Machine

/-! ## Moving bytes -/

/-- Reads the source bytes of one request: zeros where they are poisoned (R211, R245). -/
def State.takeChunk (s : State) (q : CopyCmd) (p : Place) (n : Nat) : List Byte × State :=
  match s.servedByL1 p n q.src.readOnly with
  | (true, s) => if s.badAt p.pa n then (List.replicate n 0, s) else s.hitL1 p n q.cls q.hint q.src.readOnly
  | (false, s) =>
    let s := ((s.rekey p.pa n p.key).cached p .load q.hint).note p.pa n q.cls false
    if s.badAt p.pa n then (List.replicate n 0, s)
    else
      let (b, s) := s.readCore s.coreNo p.pa n p.device (q.src.readOnly && !p.win)
      (s.through p.pa b, s)

/-- Reads source bytes in index order. -/
def State.takePlaces (s : State) (q : CopyCmd) (ps : List Place) : List Byte × State :=
  (chunks ps).foldl (fun a c => let r := a.2.takeChunk q c.1 c.2; (a.1 ++ r.1, r.2)) ([], s)

/-- The address that a report about a destination byte of the command names. -/
def State.dstAddress (s : State) (q : CopyCmd) (pa : Nat) : Word :=
  ((q.offsets.find? fun o => decide ((s.byteAt q.dst o.2.toNat).pa = pa)).map fun o => q.dst.address o.2).getD 0

/-- Writes the bytes of one request as the command; `none`: they wait. -/
def State.putChunk (s : State) (q : CopyCmd) (p : Place) (b : List Byte) : Option State :=
  match s.rsOffset p with
  | some o => s.rsPut q.dep o b
  | none =>
    if q.dep.ver || q.dep.spec then s.hold p (s.dstAddress q p.pa) b q.cls q.dep q.hint
    else
      let s := (((s.rekey p.pa b.length p.key).cached p .store q.hint).writeBy s.coreNo p.pa b p.key).updateL1 s.coreNo (cellsAt p.pa b)
      some (s.note p.pa b.length q.cls false)

/-- Writes bytes of requests in order. -/
def State.putChunks (q : CopyCmd) : State → List (Place × Nat) → List Byte → Option State
  | s, [], _ => some s
  | s, (p, n) :: rest, b =>
    match s.putChunk q p (b.take n) with
    | none => none
    | some s => State.putChunks q s rest (b.drop n)

/-- Writes bytes at places in order. -/
def State.putPlaces (s : State) (q : CopyCmd) (ps : List Place) (b : List Byte) : Option State :=
  State.putChunks q s (chunks ps) b

/-! ## Packets of a reducing copy (R286, R287) -/

/-- The unit that keeps the duplicate table for an address, and its die: a home slice, the controller of the 2 MiB of a die scratchpad
beside a slice, or the banks of a core's scratchpad (R12, R287; log entry 52). -/
def State.unitOf (s : State) (pa : Nat) : Nat × Nat :=
  match regionOf pa with
  | .hbm =>
    let (d, l) := s.home pa
    (16 * d + l, d)
  | .dsp d a => (96 + 16 * d + a / 2 ^ 21, d)
  | .sp c _ => (192 + c, dieOfCore c)
  | _ => (0, 0)

/-- What an entry of a duplicate table covers: 64 sources of a step at a sector. -/
def DupEntry.block (e : DupEntry) : BitVec 16 × BitVec 16 × Nat × Nat × Nat :=
  (e.collective, e.step, e.sector, e.source.toNat / 64, e.packet)

/-- The packet needs an entry of its unit's table, and all 1,024 are live. -/
def tableFull (l : List DupEntry) (e : DupEntry) : Bool :=
  let live := ((l.filter fun q => decide (q.unit = e.unit)).map (·.block)).eraseDups
  !live.contains e.block && decide (1024 ≤ live.length)

/-- The entry of a packet for the acting context's task. -/
def State.dupEntry (s : State) (collective step : BitVec 16) (source : BitVec 32) (pa : Nat) (packet : Nat := 0) : DupEntry :=
  { packet := packet, part := s.ctx.ident.part, node := s.ctx.launch.node, inst := s.ctx.ident.inst.toNat
    unit := (s.unitOf pa).1, collective := collective, step := step, sector := sectorOf pa, source := source }

/-- The bit of a packet is set in its unit's table. -/
def State.came (s : State) (e : DupEntry) : Bool :=
  s.ms.dups.any fun q => decide (q.unit = e.unit) && decide (q.block = e.block) && decide (q.source = e.source)

/-- A duplicate raises its die's counter, and is logged (R287, R364). -/
def State.countDup (s : State) (die : Nat) (detail : List Nat) : State :=
  (s.mapMs fun m => { m with dupCount := m.dupCount.set! die (m.dupCount.toList.getD die 0 + 1) }).logAt die 0 .duplicate detail

/-- A packet is dropped as a duplicate, and counted by its die. -/
def State.dropDup (s : State) (pa : Nat) : State := s.countDup (s.unitOf pa).2 [pa]

/-- The tag of a reducing copy's packets: collective 0, step and source (R286). -/
def CopyCmd.tag (q : CopyCmd) (k : CtxKey) (t : CopyStream) : BitVec 16 × BitVec 32 :=
  (q.seq.setWidth 16, BitVec.ofNat 32 (8 * k.core.val + 2 * k.slot.val + (if t = .st then 1 else 0)))

/-- The entry of a command's packet for the sector of an address. -/
def State.copyEntry (s : State) (q : CopyCmd) (t : CopyStream) (pa packet : Nat) : DupEntry :=
  s.dupEntry 0 (q.tag s.ctx.key t).1 (q.tag s.ctx.key t).2 pa packet

/-! ## Units: what a command reads and writes at once -/

/-- A unit: the indices of its bytes, their sources and their destinations, and for a packet which of its sector it is. -/
structure CopyUnit where
  packet : Nat
  at' : List Nat
  src : List Place
  dst : List Place
deriving DecidableEq, Repr

/-- No bytes. -/
def noUnit : CopyUnit := ⟨0, [], [], []⟩

/-- A list cut into pieces of `n`. -/
def piecesBy {α : Type} (n : Nat) : Nat → List α → List (List α)
  | 0, _ => []
  | fuel + 1, l => if l.isEmpty then [] else l.take n :: piecesBy n fuel (l.drop n)

/-- Elements of `n` bytes joined by the sector of their first destination byte into packets of at most 128 bytes: the packets of a
reduction (R286; log entry 52). -/
def joinSectors (n : Nat) (l : List CopyUnit) : List CopyUnit :=
  let sec (u : CopyUnit) : Nat := (u.dst.head?.map fun p => sectorOf p.pa).getD 0
  (l.map sec).eraseDups.flatMap fun k =>
    let g := l.filter fun u => decide (sec u = k)
    (piecesBy (128 / n) g.length g).mapIdx fun i g => ⟨i, g.flatMap (·.at'), g.flatMap (·.src), g.flatMap (·.dst)⟩

/-- Bytes of an element that the command combines, else 1. -/
def CopyCmd.elem (q : CopyCmd) : Nat := max 1 (q.red.size q.esz)

/-- The units of a command: bytes, or where it combines the packets of its elements. -/
def State.units (s : State) (q : CopyCmd) : List CopyUnit :=
  let n := q.count
  let cut {α : Type} (l : List α) : List (List α) := piecesBy q.elem n l
  let src := s.srcPlaces q
  let l := ((cut (List.range n)).zip (cut (s.dstPlaces q))).zipIdx.map fun e => CopyUnit.mk 0 e.1.1 ((src.drop (e.2 * q.elem)).take q.elem) e.1.2
  if q.red = .none then l else joinSectors q.elem l

/-- Where the command's bytes stand. -/
def CopyCmd.stand (q : CopyCmd) (n : Nat) : Moving := q.moving.getD { todo := List.range n, flying := [], got := [], bad := [] }

/-- A unit is read: a fill has its byte at hand. -/
def State.readUnit (s : State) (q : CopyCmd) (u : CopyUnit) : List Byte × State :=
  match q.kind with
  | .fill b => (List.replicate u.dst.length b, s)
  | _ => s.takePlaces q u.src

/-- The elements of a packet combine with what stands at their destinations. -/
def State.combineElems (s : State) (q : CopyCmd) : List (List Place × List Byte) → Option State
  | [] => some s
  | (ps, b) :: rest =>
    let s := s.openPlaces ps
    let old := leValue (ps.map fun p => s.mem.get p.pa)
    (s.putPlaces q ps (leBytes ps.length (q.red.combine ps.length old (leValue b)))).bind fun s => s.combineElems q rest

/-- A unit arrives at its destination: a packet once, with an entry of its duplicate table, for which it waits (R287). -/
def State.landUnit (s : State) (q : CopyCmd) (t : CopyStream) (u : CopyUnit) (b : List Byte) : Option State :=
  if q.red = .none then s.putPlaces q u.dst b
  else
    let n := u.dst.length
    let go (s : State) : Option State := s.combineElems q ((piecesBy q.elem n u.dst).zip (piecesBy q.elem n b))
    match u.dst with
    | [] => some s
    | p :: _ =>
      if (s.rsOffset p).isSome then go s
      else
        let e := s.copyEntry q t p.pa u.packet
        if s.came e then some s
        else if tableFull s.ms.dups e then none
        else go (s.mapMs fun m => { m with dups := e :: m.dups })

/-- Units read and written in a free order, each read before it is written (R240, R243; log entry 9): the bytes read, and the state
after. -/
def State.interleave (q : CopyCmd) (t : CopyStream) (us : List CopyUnit) : Nat → State → Moving → Option (Moving × State)
  | 0, s, m => some (m, s)
  | fuel + 1, s, m =>
    let n := m.todo.length + m.flying.length
    if n = 0 then some (m, s)
    else
      let (f, s) := s.draw
      let k := Config.winner f n % n
      match m.todo[k]? with
      | some i =>
        let (b, s) := s.readUnit q (us.getD i noUnit)
        State.interleave q t us fuel s { m with todo := m.todo.eraseIdx k, flying := m.flying ++ [(i, b)], got := m.got ++ [(i, b)] }
      | none =>
        match m.flying[k - m.todo.length]? with
        | none => some (m, s)
        | some e =>
          match s.landUnit q t (us.getD e.1 noUnit) e.2 with
          | none => none
          | some s => State.interleave q t us fuel s { m with flying := m.flying.eraseIdx (k - m.todo.length) }

/-- Units written in order. -/
def State.landAll (q : CopyCmd) (t : CopyStream) : State → List (CopyUnit × List Byte) → Option State
  | s, [] => some s
  | s, u :: rest =>
    match s.landUnit q t u.1 u.2 with
    | none => none
    | some s => State.landAll q t s rest

/-- Bytes of the command meet: two destination bytes at one place, or a destination byte that is also read. -/
def overlap (src dst : List Place) : Bool :=
  let d := dst.map (·.pa)
  !decide d.Nodup || src.any fun p => d.contains p.pa

/-- The source bytes in index order, from what was read of each unit. -/
def inOrder (us : List CopyUnit) (got : List (Nat × List Byte)) (n : Nat) : List Byte :=
  let l := got.flatMap fun e => (us.getD e.1 noUnit).at'.zip e.2
  (List.range n).map fun i => ((l.find? fun e => e.1 = i).map (·.2)).getD 0

/-- What is left of the command's bytes moves: its source bytes in index order, and the state after; `none`: a write waits. -/
def State.moved (s : State) (t : CopyStream) (q : CopyCmd) : Option (List Byte × State) :=
  let us := s.units q
  if q.moving.isNone ∧ q.red = .none ∧ ¬ overlap (s.srcPlaces q) (s.dstPlaces q) then
    let (b, s) := s.readUnit q ⟨0, [], s.srcPlaces q, s.dstPlaces q⟩
    (s.putPlaces q (s.dstPlaces q) b).map fun u => (b, u)
  else
    (State.interleave q t us (2 * us.length) s (q.stand us.length)).map fun r => (inOrder us r.1.got q.count, r.2)

/-! ## What holds a command up (R237, R245) -/

/-- The offsets of the bytes of units. -/
def CopyCmd.offsetsOf (q : CopyCmd) (us : List CopyUnit) (l : List Nat) : List (Int × Int) :=
  match q.moving with
  | none => q.offsets
  | some _ => l.flatMap fun i => (us.getD i noUnit).at'.map fun j => q.offsets.getD j (0, 0)

/-- Source offsets of the bytes that have still to be read. -/
def State.unread (s : State) (q : CopyCmd) : List Int :=
  if !q.hasSource then []
  else
    let us := s.units q
    (q.offsetsOf us (q.stand us.length).todo).map (·.1)

/-- Destination offsets of the bytes that have still to be written. -/
def State.unwritten (s : State) (q : CopyCmd) : List Int :=
  let us := s.units q
  let m := q.stand us.length
  (q.offsetsOf us (m.todo ++ m.flying.map (·.1))).map (·.2)

/-- Nothing that the acting context could read is poisoned (R211). -/
def State.noneBad (s : State) : Bool := s.ms.poisoned.isEmpty && !s.ctx.cb.any (·.bad)

/-- The address of the first source byte, of those still to be read, that lies in a poisoned sector under STRICT (R245). -/
def State.strictPoison (s : State) (q : CopyCmd) : Option Word :=
  if s.noneBad ∨ q.zeroes ∨ ¬ q.hasSource then none
  else ((s.unread q).find? fun o => s.badAt (s.byteAt q.src o.toNat).pa 1).map fun o => q.src.address o

/-- Poisoned sectors among places. -/
def State.badSectors (s : State) (ps : List Place) : List Nat :=
  if s.noneBad then [] else ((ps.filter fun p => s.badAt p.pa 1).map fun p => sectorOf p.pa).eraseDups

/-- A byte meets a condition that parks it at its home (R237); a combining write parks on any poisoned line
(R289). -/
def State.byteParks (s : State) (q : CopyCmd) (p : Place) (dst : Bool) : Bool :=
  if dst && decide (q.red ≠ .none) then s.atomParks p 1 else s.mustPark p 1

/-- The bytes of a side that park, with the addresses that a report names. -/
def State.parkedBytes (s : State) (q : CopyCmd) (dst : Bool) : List (Place × Word) :=
  (if dst then (s.unwritten q).map fun o => (s.byteAt q.dst o.toNat, q.dst.address o)
   else (s.unread q).map fun o => (s.byteAt q.src o.toNat, q.src.address o)).filter fun e => s.byteParks q e.1 dst

/-- Some byte of the command parks. -/
def State.copyParked (s : State) (q : CopyCmd) : Bool := !(s.parkedBytes q false).isEmpty || !(s.parkedBytes q true).isEmpty

/-- Its bytes that park take their entries. -/
def State.parkCopy (s : State) (t : CopyStream) (q : CopyCmd) : State :=
  (s.parkPlaces t q.seq true false q.cls (s.parkedBytes q false)).parkPlaces t q.seq false (decide (q.red ≠ .none)) q.cls
    (s.parkedBytes q true)

/-! ## Completion (R241, R244, R245, R252) -/

/-- Changes a command in flight. -/
def State.mapCmd (s : State) (t : CopyStream) (n : BitVec 32) (f : CopyCmd → CopyCmd) : State :=
  s.mapCp t fun c => { c with flight := c.flight.map fun q => if q.seq = n then f q else q }

/-- The slot of an `XSLT` is the oldest still pending at its ring (R258). -/
def State.slotTurn (s : State) (q : CopyCmd) : Bool :=
  match q.kind with
  | .slotIn => decide ((s.mem.slotRing q.ringAddr).post = q.slot)
  | .slotOut => decide ((s.mem.slotRing q.ringAddr).rel = q.slot)
  | _ => true

/-- Posts or releases the slot of an `XSLT` (R252). -/
def State.slotDone (s : State) (q : CopyCmd) : State :=
  match q.kind with
  | .slotIn => s.setCount q.ringAddr 0x14 (q.slot + 1)
  | .slotOut => s.setCount q.ringAddr 0x1C (q.slot + 1)
  | _ => s

/-- Duplicate entries of a command's packets retire (R287). -/
def State.retirePackets (s : State) (t : CopyStream) (q : CopyCmd) : State :=
  let (st, src) := q.tag s.ctx.key t
  s.mapMs fun m => { m with dups := m.dups.filter fun e => !(decide (e.collective = 0) && decide (e.step = st) && decide (e.source = src)) }

/-- The command's number is done, and DONESEQ steps. -/
def State.markDone (s : State) (t : CopyStream) (q : CopyCmd) : State :=
  (s.mapCmd t q.seq CopyCmd.finished).mapCp t fun c => CopySt.advance c.flight.length c

/-- Writes to places complete at their homes (R266, R267). -/
def State.completePlaces (s : State) (ps : List Place) : State :=
  if s.ms.pending.isEmpty then s
  else (chunks ps).foldl (fun s c => if s.pendingAt (sectorOf c.1.pa) then s.completeWrite (sectorOf c.1.pa) else s) s

/-- The slot that a dependent command had still to take at its ring is taken: the verdict has come (R261). -/
def State.paySlot (s : State) (t : CopyStream) (q : CopyCmd) : State := (s.takeSlot q).mapCmd t q.seq fun q => { q with owes := false }

/-- The arrival is counted and the command is done. -/
def State.finishCopy (s : State) (t : CopyStream) (q : CopyCmd) : State :=
  let s := s.completePlaces (s.dstPlaces q)
  let s := s.addZeroed q.barAddr q.zeroed
  let s := if q.zeroed = 0 then s else s.mapCtx (·.event evInteg)
  let s := ((s.arriveAt q.barAddr q.count).slotDone q).retirePackets t q
  (s.markDone t q).mapCtx fun c => c.dropReleases.settle

/-- Sectors of the source read as zeros under ZERO (R245). -/
def State.zeroSectors (s : State) (q : CopyCmd) : Nat :=
  if !q.hasSource then 0
  else
    let us := s.units q
    let m := q.stand us.length
    (m.bad ++ s.badSectors (m.todo.flatMap fun i => (us.getD i noUnit).src)).eraseDups.length

/-- The signature of the bytes differs from the reference (R247). -/
def CopyCmd.mismatch (q : CopyCmd) (data : List Byte) : Bool :=
  match q.ref with
  | some w => decide (m61Fold data ≠ w)
  | none => false

/-- One dependence covers another. -/
def Dep.covers (a b : Dep) : Bool := (a.ver || !b.ver) && (a.spec || !b.spec)

/-! ## Faults once bytes are moving (R242, R245, R248) -/

/-- No command before it is in flight and its stream is clean, so that a fault of it stops the stream precisely, and the stream holds no
fault already (R328, R337). -/
def State.mayFault (s : State) (t : CopyStream) (q : CopyCmd) : Bool :=
  (s.str t.stream).fault.isNone && decide (q.seq = (s.cp t).doneseq + 1) && decide (s.dep t.stream = .clean) && !q.heldBytes

/-- The cause and value of a fault, where it may arise now. A watchdog faults the command when its request is dropped. -/
def State.copyCause (s : State) (t : CopyStream) (q : CopyCmd) (why : CopyFaultCause) : Option (BitVec 8 × Word) :=
  if !s.mayFault t q then none
  else
    match why with
    | .poison => (s.strictPoison q).map fun a => (cPOISON, a)
    | .watchdog => none
    | .sigcopy => if q.hasSource then some (cHANDLE, handleVal hSIGCOPY q.hd q.dstOff) else none

/-- `n` bytes that nothing states (log entry 9). -/
def State.freeBytes (s : State) (n : Nat) : List Byte × State :=
  ((List.range n).map fun i => Config.anyByte (s.fresh + i), { s with fresh := s.fresh + n })

/-- What the stream popped behind a command goes back (R328; log entry 45). -/
def Ctx.giveBack (c : Ctx) (t : CopyStream) (q : CopyCmd) : Ctx :=
  let c := { c with queues := c.queues.set t.queue ((c.queues[t.queue]).unpop q.words) }
  (List.finRange 10).foldl (fun c k =>
    let l := (q.tokens.filter fun e => e.1 = k).map (·.2)
    if l.isEmpty then c else c.fill k (l ++ c.tok[k])) c

/-- The slot of a command that is abandoned is given back, where no later one has been taken. -/
def State.returnSlot (s : State) (q : CopyCmd) : State :=
  let r := s.mem.slotRing q.ringAddr
  match q.kind with
  | .slotIn => if !q.owes ∧ r.res = (q.slot + 1) % 2 ^ 32 then s.setCount q.ringAddr 0x10 q.slot else s
  | .slotOut => if !q.owes ∧ r.acq = (q.slot + 1) % 2 ^ 32 then s.setCount q.ringAddr 0x18 q.slot else s
  | _ => s

/-- The stream stands before a faulted command, whose pops and reference it keeps. What it did behind the command has not been:
registers, pops and slots go back, no push of it is made, and the commands there are abandoned, but for those that are done, which are
not done again (R30, R247, R328; log entry 45). -/
def State.backTo (s : State) (t : CopyStream) (q : CopyCmd) : State :=
  let s := (((s.cp t).flight.filter fun r => !r.done && reached r.seq q.seq).reverse).foldl State.returnSlot s
  let s := s.mapStr t.stream fun x =>
    { x with pc := q.pc, held := if q.sy.wp || q.sy.wn then some (q.sy.wp, q.sy.wn, q.dep) else none, ref := q.ref
             pushes := x.pushes.takeWhile fun p =>
               match p.need with
               | .copies n => !reached n q.seq
               | _ => true }
  let s := s.mapCp t fun c =>
    { c with o := q.o, sh := q.sh, flight := c.flight.filter (fun r => !reached r.seq (q.seq + 1)), indexDue := none
             early := c.early.filter (fun e => reached e.1 (q.seq + 1)) ++
               ((c.flight.filter fun r => r.done && reached r.seq (q.seq + 1)).map fun r => (r.seq, r.pc)) }
  s.mapCtx (·.giveBack t q)

/-- A command that faulted is no longer in flight (R242, R337). -/
def State.dropCommand (s : State) (t : CopyStream) (q : CopyCmd) : State :=
  let s := (s.backTo t q).mapCp t fun c => { c with issued := q.seq - 1, flight := c.flight.filter fun r => decide (r.seq ≠ q.seq) }
  (s.mapCtx fun c => c.dropReleases.settle).sweepCopies s.ctx.key s.ctx.flies

/-- SIGCOPY: the arrival is withheld, and so the command is done (R241, R247, R248). -/
def State.sigcopy (s : State) (t : CopyStream) (q : CopyCmd) : State :=
  let ps := s.dstPlaces q
  let (b, u) := s.freeBytes ps.length
  match u.putPlaces q ps b with
  | none => s
  | some u =>
    let u := (((u.mapCtx (·.event evInteg)).retirePackets t q).backTo t q).mapCp t fun c => { c with issued := q.seq }
    let u := u.markDone t q
    ((u.mapCtx fun c => c.dropReleases.settle).sweepCopies u.ctx.key u.ctx.flies).recordFault t.stream cHANDLE
      (handleVal hSIGCOPY q.hd q.dstOff)

/-- A command in flight faults: bytes of its range that nothing states stand at its destination (R242). -/
def State.copyFault (s : State) (t : CopyStream) (q : CopyCmd) (c : BitVec 8) (v : Word) : State :=
  let ps := s.dstPlaces q
  let (b, u) := s.freeBytes ps.length
  match u.putPlaces q ps b with
  | none => s
  | some u => ((u.retirePackets t q).dropCommand t q).recordFault t.stream c v

/-- A fault of a command, where it may arise now. -/
def State.failCopy (s : State) (t : CopyStream) (q : CopyCmd) (why : CopyFaultCause) : State :=
  match s.copyCause t q why with
  | none => s
  | some (c, v) => if why = .sigcopy then s.sigcopy t q else s.copyFault t q c v

/-! ## The steps -/

/-- The command's bytes may move: it has paid, it has its slot, and what it reads waits for no verdict. -/
def State.copyGoes (s : State) (q : CopyCmd) : Bool :=
  !q.heldBytes && !q.due.any (0 < ·) && q.dep.covers (s.copyDep q) && (s.strictPoison q).isNone && s.slotTurn q &&
    !(q.owes && decide (q.dep = .clean))

/-- All bytes of the command have moved: `data` is what it has read, in index order, and `z` the sectors that it read as zeros. -/
def State.closeCopy (s : State) (t : CopyStream) (q : CopyCmd) (data : List Byte) (z : Nat) : State :=
  if q.mismatch data then (if s.mayFault t q then s.sigcopy t q else s)
  else
    let q := { q with zeroed := q.zeroed + z }
    if q.dep.ver || q.dep.spec then s.mapCmd t q.seq fun c => { c with heldBytes := true, zeroed := q.zeroed }
    else s.finishCopy t q

/-- What a command does before its bytes move: it takes its slot, it waits for its verdict, its requests wait at the port (R261, R325);
`none`: its bytes may move. -/
def State.beforeBytes (s : State) (t : CopyStream) (q : CopyCmd) : Option State :=
  if q.owes ∧ q.dep = .clean then some (s.paySlot t q)
  else if q.heldBytes then some (if q.dep = .clean then s.finishCopy t q else s)
  else if q.due.any (0 < ·) ∨ s.copyGoes q = false then some s
  else none

/-- The command goes as far as it can: its requests park, its bytes move, it is done. -/
def State.runCopy (s : State) (t : CopyStream) (q : CopyCmd) : State :=
  match s.beforeBytes t q with
  | some u => u
  | none =>
    if s.copyParked q then s.parkCopy t q
    else
      let z := s.zeroSectors q
      match s.moved t q with
      | none => s
      | some (data, u) => if q.mismatch data && !s.mayFault t q then s else u.closeCopy t q data z

/-- The bytes of a unit on a side, with the addresses that a report names. -/
def State.unitBytes (s : State) (q : CopyCmd) (u : CopyUnit) (dst : Bool) : List (Place × Word) :=
  u.at'.map fun i =>
    let o := q.offsets.getD i (0, 0)
    if dst then (s.byteAt q.dst o.2.toNat, q.dst.address o.2) else (s.byteAt q.src o.1.toNat, q.src.address o.1)

/-- The granules of RS that the unit completes: every byte of theirs that the command writes has been written, so that a clean command
which covers them makes them clean (R197). -/
def State.cleanUnit (s : State) (q : CopyCmd) (us : List CopyUnit) (m : Moving) : State :=
  if q.dep ≠ .clean then s
  else
    let left := m.todo ++ m.flying.map (·.1)
    let ps := (us.zipIdx.filter fun e => !left.contains e.2).flatMap (·.1.dst)
    s.cleanUnion q.dep ((chunks ps).filterMap fun c => (s.rsOffset c.1).map fun o => (o, c.2))

/-- Unit `i` of a command is read. -/
def State.readOne (s : State) (t : CopyStream) (q : CopyCmd) (us : List CopyUnit) (m : Moving) (i : Nat) : State :=
  let u := us.getD i noUnit
  let bad := s.badSectors u.src
  let (b, s) := s.readUnit q u
  s.mapCmd t q.seq fun q =>
    { q with moving := some { todo := m.todo.filter (· ≠ i), flying := m.flying ++ [(i, b)], got := m.got ++ [(i, b)], bad := m.bad ++ bad } }

/-- Unit `i` of a command, which has been read, is written; nothing while that waits. -/
def State.writeOne (s : State) (t : CopyStream) (q : CopyCmd) (us : List CopyUnit) (m : Moving) (e : Nat × List Byte) : State :=
  match s.landUnit q t (us.getD e.1 noUnit) e.2 with
  | none => s
  | some s =>
    let m := { m with flying := m.flying.filter fun f => decide (f.1 ≠ e.1) }
    (s.mapCmd t q.seq fun q => { q with moving := some m }).cleanUnit q us m

/-- One unit of the command is read, or one that has been read is written, or its requests park: bytes of a command move in any order and
between those of others (R237, R241, R249; log entry 9). -/
def State.moveUnit (s : State) (t : CopyStream) (q : CopyCmd) : State :=
  let us := s.units q
  let m := q.stand us.length
  let n := m.todo.length + m.flying.length
  let (f, s) := s.draw
  let k := Config.winner f n % n
  let parks (u : CopyUnit) (dst : Bool) : List (Place × Word) := (s.unitBytes q u dst).filter fun e => s.byteParks q e.1 dst
  match m.todo[k]? with
  | some i =>
    let p := if q.hasSource then parks (us.getD i noUnit) false else []
    if p.isEmpty then s.readOne t q us m i else s.parkPlaces t q.seq true false q.cls p
  | none =>
    match m.flying[k - m.todo.length]? with
    | none => s
    | some e =>
      let p := parks (us.getD e.1 noUnit) true
      if p.isEmpty then s.writeOne t q us m e else s.parkPlaces t q.seq false (decide (q.red ≠ .none)) q.cls p

/-- One step of a command: what comes before its bytes, one unit of them, or its end. -/
def State.stepCopy (s : State) (t : CopyStream) (q : CopyCmd) : State :=
  match s.beforeBytes t q with
  | some u => u
  | none =>
    match q.moving with
    | some m =>
      if m.todo.isEmpty ∧ m.flying.isEmpty then s.closeCopy t q (inOrder (s.units q) m.got q.count) m.bad.eraseDups.length
      else s.moveUnit t q
    | none => s.moveUnit t q

/-- The request of a command that a home has replayed performs: its units with bytes in that sector are read, or written (R237, R289). -/
def State.replayCopy (s : State) (r : Parked) (t : CopyStream) (n : BitVec 32) (reads : Bool) : State :=
  let here (ps : List Place) : Bool :=
    ps.any (fun p => decide (sectorOf p.pa = sectorOf r.addr)) && ps.all fun p => !s.homeBad p.pa 1 p.key r.kind.atom
  match (s.cp t).flight.find? fun q => decide (q.seq = n) && !q.done with
  | none => s
  | some q =>
    if s.copyGoes q = false ∨ q.due.any (0 < ·) then s
    else
      let us := s.units q
      let go (f : State → CopyCmd → Moving → State) (s : State) : State :=
        match (s.cp t).flight.find? fun q => decide (q.seq = n) && !q.done with
        | none => s
        | some q => f s q (q.stand us.length)
      let m := q.stand us.length
      if reads then
        (m.todo.filter fun i => here (us.getD i noUnit).src).foldl (fun s i => go (fun s q m => s.readOne t q us m i) s) s
      else
        (m.flying.filter fun e => here (us.getD e.1 noUnit).dst).foldl (fun s e => go (fun s q m => s.writeOne t q us m e) s) s

/-- A packet of the command comes in from the links: the unit of its places arrives with it, or it is a duplicate (R286, R287). -/
def State.landPacket (s : State) (t : CopyStream) (q : CopyCmd) (k : RedPacket) : State :=
  let us := s.units q
  let m := q.stand us.length
  let names (u : CopyUnit) : Bool := decide (u.dst.map (·.pa) = k.cells.map (·.1))
  let new (u : CopyUnit) : Bool := names u && !s.came (s.copyEntry q t k.addr u.packet)
  if us.any names ∧ ¬ us.any new then s.dropDup k.addr
  else
    match us.findIdx? new with
    | none => s
    | some i =>
      let u := us.getD i noUnit
      if ¬ s.copyGoes q ∨ s.copyParked q ∨ 128 < u.dst.length ∨ ¬ (m.todo.contains i || m.flying.any fun e => decide (e.1 = i)) then s
      else
        let bad := s.badSectors u.src
        let (b, r) := match m.flying.find? fun e => e.1 = i with
          | some e => (e.2, s)
          | none => s.readUnit q u
        if b ≠ k.cells.map (·.2) then s
        else
          match r.landUnit q t u b with
          | none => s
          | some r => r.mapCmd t q.seq fun q =>
              { q with moving := some { todo := m.todo.filter (· ≠ i), flying := m.flying.filter fun e => decide (e.1 ≠ i)
                                        got := (m.got.filter fun e => decide (e.1 ≠ i)) ++ [(i, b)], bad := m.bad ++ bad } }

/-- A parked request of a copy command is dropped after 1 ms (R237, R242): the command faults, once nothing before it can; so does the
instruction that waits for its indices. Written bytes are reported too. -/
def State.copyLapses (s : State) (r : Parked) (t : CopyStream) (n : BitVec 32) (reads : Bool) : State :=
  let c := if r.poison then cPOISON else cWATCHDOG
  let gone (s : State) : State := (s.mapMs fun m => { m with parked := m.parked.filter fun e => decide (e.serial ≠ r.serial) }).logAt r.die
    r.key.core.val .watchdog [r.va.toNat]
  match (s.cp t).flight.find? fun q => decide (q.seq = n) && !q.done with
  | some q =>
    if !s.mayFault t q then s
    else if reads then (gone s).copyFault t q c r.va
    else
      let s := ((gone s).mapCtx (·.event evInteg)).mapOrder fun o => { o with dropped := o.dropped ++ [⟨c, r.va, r.cls, r.die⟩] }
      s.copyFault t q cWATCHDOG r.va
  | none => if s.dep t.stream = .clean ∧ ¬ (s.cp t).busy then (gone s).recordFault t.stream c r.va else s

/-- The requests of a command that have been parked for more than 1 ms are dropped. -/
def State.lapseCommand (s : State) (t : CopyStream) (q : CopyCmd) : State :=
  match s.ms.parked.find? fun r => decide (r.key = s.ctx.key) && decide (r.since + 1000000 < s.nstime) &&
      match r.kind with
      | .copy u n _ _ => decide (u = t) && decide (n = q.seq)
      | _ => false with
  | some r =>
    match r.kind with
    | .copy u n reads _ => s.copyLapses r u n reads
    | _ => s
  | none => s

/-- The command of a stream with a number, unless it is done. -/
def State.command (s : State) (t : CopyStream) (n : BitVec 32) : Option CopyCmd :=
  (s.cp t).flight.find? fun q => decide (q.seq = n) && !q.done

/-- `COPY_DONE` (R241) -/
def execCopyDone (k : CtxKey) (cs : CopyStream) (n : BitVec 32) (s : State) :=
  s.eventOn k fun t =>
    match t.command cs n with
    | some q => t.runCopy cs q
    | none => t

/-- `COPY_FAULT` (R242, R245, R248) -/
def execCopyFault (k : CtxKey) (cs : CopyStream) (n : BitVec 32) (why : CopyFaultCause) (s : State) :=
  s.eventOn k fun t =>
    match t.command cs n with
    | some q => if why = .watchdog then t.lapseCommand cs q else t.failCopy cs q why
    | none => t

/-- One step of a command, of which its bytes move one by one. -/
def moveCopy (k : CtxKey) (cs : CopyStream) (n : BitVec 32) (s : State) : Host.Outcome State Fault Refusal :=
  s.eventOn k fun t =>
    match t.command cs n with
    | some q => t.stepCopy cs q
    | none => t

end Sys2Proof.Machine
end

