-- ==== Sys2Proof/Machine/Layout.lean ====
section
/-!
DEFINITION. Layout descriptors, the exchange that a pair of them names, and which source element each destination
element takes (13_collectives R309 to R311).
-/

namespace Sys2Proof.Machine

/-! ## Descriptors (R309) -/

/-- A layout descriptor's fields: four masks and extents, three mesh sizes. -/
structure Desc where
  axes : Nat
  rank : Nat
  mesh : List Nat
  ext : List Nat
  pmask : List Nat
  sums : Nat
  off : Nat
  mbz : Bool
deriving DecidableEq, Repr

/-- Reads a descriptor from its 64 bytes. -/
def Desc.ofBytes (b : List Byte) : Desc :=
  let le (o n : Nat) : Nat := leValue ((b.drop o).take n)
  { axes := le 0 1, rank := le 1 1, mesh := (List.range 3).map fun i => le (8 + 4 * i) 4
    ext := (List.range 4).map fun j => le (0x18 + 4 * j) 4, pmask := (List.range 4).map fun j => le (0x28 + j) 1
    sums := le 0x2C 1, off := le 0x30 8
    mbz := decide (le 2 6 ≠ 0) || decide (le 0x14 4 ≠ 0) || decide (le 0x2D 3 ≠ 0) || decide (le 0x38 8 ≠ 0) }

/-- The mesh axes of a mask, lowest first. -/
def axesOf (mask : Nat) : List Nat := (List.range 3).filter fun a => mask.testBit a

/-- Product of the mesh sizes on the axes of a mask. -/
def spread (mesh : List Nat) (mask : Nat) : Nat := (axesOf mask).foldl (fun p a => p * mesh.getD a 1) 1

/-- Coordinates linearised on the axes of a mask, lowest axis fastest. -/
def lineNo (mesh : List Nat) (mask : Nat) (co : List Nat) : Nat :=
  (axesOf mask).reverse.foldl (fun v a => v * mesh.getD a 1 + co.getD a 0) 0

/-- Coordinates with those on the axes of a mask set to a line number. -/
def setLine (mesh : List Nat) (mask v : Nat) (co : List Nat) : List Nat :=
  ((axesOf mask).foldl (fun (q : Nat × List Nat) a => (q.1 / mesh.getD a 1, q.2.set a (q.1 % mesh.getD a 1))) (v, co)).2

/-- Mesh coordinates of a member. -/
def coordsOf (mesh : List Nat) (m : Nat) : List Nat :=
  [m % mesh.getD 0 1, m / mesh.getD 0 1 % mesh.getD 1 1, m / (mesh.getD 0 1 * mesh.getD 1 1)]

/-- The member at mesh coordinates. -/
def memberAt (mesh co : List Nat) : Nat := co.getD 0 0 + mesh.getD 0 1 * (co.getD 1 0 + mesh.getD 1 1 * co.getD 2 0)

/-- The masks of a descriptor: each names axes below NAXES only, and no axis stands in two. -/
def masksOk (axes : Nat) : Nat → List Nat → Bool
  | _, [] => true
  | used, m :: rest => decide (m < 2 ^ axes) && decide (m &&& used = 0) && masksOk axes (used ||| m) rest

/-- No breach of R309. -/
def Desc.valid (l : Desc) : Bool :=
  !l.mbz && decide (1 ≤ l.axes) && decide (l.axes ≤ 3) && decide (1 ≤ l.rank) && decide (l.rank ≤ 4) &&
  (List.range 3).all (fun a => if a < l.axes then decide (1 ≤ l.mesh.getD a 0) && decide (l.mesh.getD a 0 ≤ 32768)
    else decide (l.mesh.getD a 0 = 1)) &&
  (List.range 4).all (fun j => if j < l.rank then decide (l.ext.getD j 0 ≠ 0) else decide (l.ext.getD j 0 = 1)) &&
  masksOk l.axes 0 (l.sums :: l.pmask) &&
  (List.range 4).all fun j => decide (l.ext.getD j 0 % spread l.mesh (l.pmask.getD j 0) = 0)

/-- Elements of the local block on tensor axis `j`. -/
def Desc.part (l : Desc) (j : Nat) : Nat := l.ext.getD j 1 / spread l.mesh (l.pmask.getD j 0)

/-- Elements of the local block. -/
def Desc.block (l : Desc) : Nat := (List.range 4).foldl (fun n j => n * l.part j) 1

/-- Global index of element `e` of the block at coordinates, by tensor axis. -/
def Desc.globalIx (l : Desc) (co : List Nat) (e : Nat) : List Nat :=
  ((List.range 4).foldl (fun (q : Nat × List Nat) j =>
    (q.1 / l.part j, q.2 ++ [lineNo l.mesh (l.pmask.getD j 0) co * l.part j + q.1 % l.part j])) (e, [])).2

/-- The member that holds a global index, with the coordinates given on axes that partition nothing. -/
def Desc.holder (l : Desc) (co g : List Nat) : Nat :=
  memberAt l.mesh ((List.range 4).foldl (fun c j => setLine l.mesh (l.pmask.getD j 0) (g.getD j 0 / l.part j) c) co)

/-- The place of a global index in its holder's block. -/
def Desc.localIx (l : Desc) (g : List Nat) : Nat :=
  (List.range 4).reverse.foldl (fun n j => n * l.part j + g.getD j 0 % l.part j) 0

/-! ## The exchange of a pair (R310) -/

/-- The kinds of exchange, with the axes that they run over. -/
inductive Swap where
  | allReduce (a : Nat)
  | reduceScatter (a : Nat)
  | allGather (b : Nat)
  | allToAll (b : Nat)
  | own
deriving DecidableEq, Repr

/-- Every axis that `d` adds to `s` lies below every axis of `s`. -/
def refines (s d : Nat) : Bool :=
  decide (s &&& d = s) && (axesOf d).all fun a => s.testBit a || (axesOf s).all fun c => decide (a < c)

/-- The exchange of two descriptors, the rows tried in order; `none`: the pair is not in the table. -/
def Desc.swap (s d : Desc) : Option Swap :=
  let p (j : Nat) : Nat := s.pmask.getD j 0
  let q (j : Nat) : Nat := d.pmask.getD j 0
  let a := s.sums
  let others (keep : List Nat) : Bool := (List.range 4).all fun j => keep.contains j || decide (p j = q j)
  let lost (j : Nat) : Nat := p j &&& (7 - q j % 8)
  let loses (j : Nat) : Bool := decide (lost j ≠ 0) && decide (q j ||| lost j = p j)
  if a ≠ 0 ∧ d.sums = 0 ∧ others [] then some (.allReduce a)
  else if a ≠ 0 ∧ d.sums = 0 ∧ (List.range 4).any (fun j => others [j] && decide (p j &&& a = 0) && decide (q j = p j ||| a)) then
    some (.reduceScatter a)
  else if a ≠ d.sums then none
  else
    match (if a = 0 then (List.range 4).find? fun j => loses j && others [j] else none) with
    | some j => some (.allGather (lost j))
    | none =>
      let pairs := ((List.range 4).map fun i => (List.range 4).map fun j => (i, j)).flatten
      match (if a = 0 then pairs.find? fun e => decide (e.1 ≠ e.2) && loses e.1 && decide (q e.2 = p e.2 ||| lost e.1) &&
          decide (p e.2 &&& lost e.1 = 0) && others [e.1, e.2] else none) with
      | some e => some (.allToAll (lost e.1))
      | none => if (List.range 4).all fun j => refines (p j) (q j) then some .own else none

/-- The axes within which an exchange runs; a local copy needs none. -/
def Swap.over : Swap → Nat
  | .allReduce a | .reduceScatter a | .allGather a | .allToAll a => a
  | .own => 0

/-- The exchange reduces. -/
def Swap.reduces : Swap → Bool
  | .allReduce _ | .reduceScatter _ => true
  | _ => false

/-- Steps of an exchange (R310). -/
def Swap.steps (w : Swap) (mesh : List Nat) : Nat :=
  match w with
  | .allReduce a => 2 * (spread mesh a - 1)
  | .own => 0
  | w => spread mesh w.over - 1

/-- The sub-group of a member, in the order of positions (R310). -/
def Swap.subgroup (w : Swap) (mesh : List Nat) (m : Nat) : List Nat :=
  (List.range (spread mesh w.over)).map fun t => memberAt mesh (setLine mesh w.over t (coordsOf mesh m))

/-! ## Destination values (R311) -/

/-- The source elements that destination element `e` of member `m` takes, in the order in which they are combined: each
a member and an element number of its block. -/
def Swap.sources (w : Swap) (s d : Desc) (m e : Nat) : List (Nat × Nat) :=
  let co := coordsOf s.mesh m
  let q := spread s.mesh w.over
  match w with
  | .allReduce a =>
    let c := e / ((d.block + q - 1) / q)
    (List.range q).map fun t => (memberAt s.mesh (setLine s.mesh a ((c + 1 + t) % q) co), e)
  | .reduceScatter a =>
    let g := d.globalIx co e
    let c := lineNo s.mesh a co
    (List.range q).map fun t => (s.holder (setLine s.mesh a ((c + 1 + t) % q) co) g, s.localIx g)
  | _ =>
    let g := d.globalIx co e
    [(s.holder co g, s.localIx g)]

/-- The destination block of member `m`, from what a member gives it for an element: `val` is given the member, the number of the element
in its block, and that of the destination element. -/
def Swap.result (w : Swap) (s d : Desc) (n : Nat) (red : RedCopy) (val : Nat → Nat → Nat → List Byte) (m : Nat) : List Byte :=
  ((List.range d.block).map fun e =>
    let vs := (w.sources s d m e).map fun x => leValue (val x.1 x.2 e)
    match vs with
    | [] => []
    | v :: rest => leBytes n (rest.foldl (red.combine n) v)).flatten

/-- Every source of every member of the sub-group lies in it. -/
def Swap.closed (w : Swap) (s d : Desc) (sub : List Nat) : Bool :=
  sub.all fun m => (List.range d.block).all fun e => (w.sources s d m e).all fun x => sub.contains x.1

/-- The members whose exchange is one with member `m`'s: its sub-group, or the whole mesh where some element of it comes from elsewhere
(R310, R311; log entry 48). -/
def Swap.mates (w : Swap) (s d : Desc) (m : Nat) : List Nat :=
  let sub := w.subgroup s.mesh m
  if w.closed s d sub then sub else List.range (spread s.mesh 7)

end Sys2Proof.Machine
end

