-- ==== Sys2Proof/Machine/Xcoll.lean ====
section
/-!
DEFINITION. `XCOLL`, its exchanges, and the steps that end them (13_collectives R305, R308, R312 to R314).
-/

namespace Sys2Proof.Machine

/-! ## The checks at issue (R308) -/

/-- Source descriptor of an exchange. -/
def Exchange.s (x : Exchange) : Desc := .ofBytes x.srcDesc
/-- Destination descriptor of an exchange. -/
def Exchange.d (x : Exchange) : Desc := .ofBytes x.dstDesc
/-- The exchange's kind; its pair was in the table at issue. -/
def Exchange.swap (x : Exchange) : Swap := (x.s.swap x.d).getD .own
/-- Bytes of an element. -/
def Exchange.esz (x : Exchange) : Nat := bitsOf x.ty / 8
/-- Bytes of the source block. -/
def Exchange.srcLen (x : Exchange) : Nat := x.s.block * x.esz
/-- Bytes of the destination block. -/
def Exchange.dstLen (x : Exchange) : Nat := x.d.block * x.esz

/-- The places of a block of `n` bytes at an offset of a bound handle. -/
def State.blockPlaces (s : State) (b : Bound) (off n : Nat) : List Place := (List.range n).map fun i => s.byteAt b (off + i)

/-- Places of the source block. -/
def State.xSrc (s : State) (x : Exchange) : List Place := s.blockPlaces x.src x.s.off x.srcLen
/-- Places of the destination block. -/
def State.xDst (s : State) (x : Exchange) : List Place := s.blockPlaces x.dst x.d.off x.dstLen

/-- TRAPVAL of COLLLAYOUT. -/
def layoutVal (dst : Bool) (reason : Nat) : Word := BitVec.ofNat 64 (bitOf dst * 2 ^ 8 + reason)

/-- A combine code goes with an element type. -/
def redFits (r : RedCopy) (t : ElemTy) : Bool :=
  match r with
  | .none => true
  | .addInt => isInt t
  | .addFp32 => decide (t = .fp32)
  | .addBf16 => decide (t = .bf16)
  | .min | .max => isInt t && isSigned t

/-- The first byte of either block that fails its reach checks, by index. -/
def State.blockFault (s : State) (x : Exchange) (hd hs : Nat) : Option (BitVec 8 × Word) :=
  (List.range (max x.srcLen x.dstLen)).findSome? fun (i : Nat) =>
    let d : Int := (x.d.off : Int) + (i : Int)
    let c : Int := (x.s.off : Int) + (i : Int)
    if i < x.dstLen ∧ ¬ s.reaches x.dst d then some (cHANDLE, handleVal hBOUNDS hd d)
    else if i < x.srcLen ∧ ¬ s.reaches x.src c then some (cHANDLE, handleVal hBOUNDS hs c)
    else none

/-- Two lists of places share a byte. -/
def meet (a b : List Place) : Bool := a.any fun p => b.any fun q => decide (p.pa = q.pa)

/-- The shape hash (R313). -/
def shapeHash (ty : ElemTy) (red : Nat) (s d : List Byte) : BitVec 32 :=
  BitVec.ofNat 32 (crc32c (leBytes 4 ty.code ++ leBytes 4 red ++ s.take 0x30 ++ d.take 0x30))

/-- A descriptor's 64 bytes at an own-SP window offset. -/
def State.descBytes (s : State) (off : Nat) : List Byte := s.mem.getBytes (spPa s.coreNo (s.ctx.win.spBase + off)) 64

/-- Checks 1 to 11, in order; the exchange that they pass. -/
def State.xcollCheck (s : State) (hd hs : HReg) (red : RedCopy) (ty : ElemTy) (b : BReg) (src dst : Nat) :
    Except (BitVec 8 × Word) Exchange :=
  let bad (d : Bool) (k : Nat) : Except (BitVec 8 × Word) Exchange := .error (cCOLLLAYOUT, layoutVal d k)
  let room := s.ctx.win.spSize - 63
  if room ≤ src then .error (cPROT, BitVec.ofNat 64 src)
  else if room ≤ dst then .error (cPROT, BitVec.ofNat 64 dst)
  else if s.ctx.launch.group = 0 ∨ s.ctx.c.left then bad false 1
  else
    let x : Exchange :=
      { seq := s.ctx.c.foldSeq + 1, site := siteOf 3 s.cpc, hash := shapeHash ty red.code (s.descBytes src) (s.descBytes dst)
        srcDesc := s.descBytes src, dstDesc := s.descBytes dst, red := red, ty := ty, src := s.bound hs, dst := s.bound hd
        barAddr := 0, step := s.ctx.coll.step, moving := false, since := s.nstime, due := [], far := []
        block := none, out := [] }
    if !x.s.valid then bad false 4
    else if !x.d.valid then bad true 4
    else if x.s.axes ≠ x.d.axes ∨ x.s.mesh ≠ x.d.mesh ∨ x.s.rank ≠ x.d.rank ∨ x.s.ext ≠ x.d.ext then bad false 2
    else if spread x.s.mesh 7 ≠ s.ctx.launch.members then bad false 8
    else if (x.s.swap x.d).isNone then bad false 3
    else if !redFits red ty ∨ x.swap.reduces ≠ decide (red ≠ .none) then bad false 5
    else
      match s.nameFault [⟨hd, BitVec.ofNat 64 x.d.off, true⟩, ⟨hs, BitVec.ofNat 64 x.s.off, false⟩] with
      | some f => .error f
      | none =>
        match s.blockFault x hd.val hs.val with
        | some f => .error f
        | none =>
          if meet (s.xSrc x) (s.xDst x) then bad false 6
          else if x.swap.reduces ∧ hd.val = 60 then bad false 7
          else
            match s.descPlace (s.barAddr b) 32 with
            | none => .error (cPROT, s.barAddr b)
            | some pa => .ok { x with barAddr := pa, due := s.dueOf (chunks (s.xSrc x) ++ chunks (s.xDst x)) }

/-- A fold of the exchange: contribution true, with the shape hash (R308). -/
def State.startExchange (s : State) (x : Exchange) : State :=
  let f := s.newFold 3 0 0 (some x.seq)
  (s.mapColl fun q => { q with exchanges := q.exchanges ++ [x], step := q.step + BitVec.ofNat 16 (x.swap.steps x.s.mesh) }).startFold
    f true x.hash

/-- The members whose exchange is one with member `m`'s. -/
def Exchange.mates (x : Exchange) (m : Nat) : List Nat := x.swap.mates x.s x.d m

/-- A member that the exchange needs has departed (R314). -/
def State.partnerGone (s : State) (x : Exchange) : Bool :=
  s.myGroup.any fun g => (x.mates s.ctx.memberIx).any fun m => g.departed.contains m

/-- Writes bytes to the destination block; `none`: they wait. -/
def State.fillBlock (s : State) (x : Exchange) (b : List Byte) : Option State :=
  let rec go (s : State) : List (Place × Nat) → List Byte → Option State
    | [], _ => some s
    | (p, n) :: rest, b =>
      match s.rsOffset p with
      | some o => (s.rsPut .clean o (b.take n)).bind fun s => go s rest (b.drop n)
      | none =>
        let s := ((s.rekey p.pa n p.key).cached p .store .default).writeBy s.coreNo p.pa (b.take n) p.key
        go ((s.updateL1 s.coreNo (cellsAt p.pa (b.take n))).note p.pa n 15 false) rest (b.drop n)
  go s (chunks (s.xDst x)) b

/-- The destination bytes of an exchange that has ended are unspecified (R313; log entry 9). -/
def State.scramble (s : State) (x : Exchange) : State :=
  let (b, u) := s.freeBytes x.dstLen
  (u.fillBlock x b).getD s

/-- The member's wait for its fold ends with the trap that is due, which the C stream takes where it stands; an exchange that the fold was to
start ends with it (R297, R305, R313). -/
def State.endFoldWait (s : State) : State :=
  match s.foldTrap with
  | some (c, v) =>
    let mine (x : Exchange) : Bool := s.ctx.coll.fold.any fun f => decide (f.coll = some x.seq)
    let s := (s.ctx.coll.exchanges.filter mine).foldl State.scramble s
    (s.mapColl fun q => { q with fold := none, exchanges := q.exchanges.filter fun x => !mine x }).mapStr .c
      fun x => { x with late := some (c, v) }
  | none => s

/-- A `CBR` of `len + 1` words. A fold's trap ends the member's wait for it (R297, R305). -/
def State.runCbr {n : Nat} (s : State) (sy : Sync) (len : Nat) (op : CbrOp) (hint : Bool) (p : PReg) (disp : BitVec n) :
    Host.Outcome State Fault Refusal :=
  s.endFoldWait.run .c sy len .both (fun u => ⟨u.activeDep p, [], []⟩) fun u =>
    u.cbr sy op hint p (branchTo u.cpc disp) (u.cpc + BitVec.ofNat 64 (4 * (len + 1)))

/-- `CBR` -/
def execCbr (sy : Sync) (op : CbrOp) (hint : Bool) (p : PReg) (disp : BitVec 13) (s : State) := s.runCbr sy 0 op hint p disp
/-- `CBR` with LEN 1 -/
def execCbrLen1 (sy : Sync) (op : CbrOp) (hint : Bool) (p : PReg) (disp : BitVec 41) (s : State) := s.runCbr sy 1 op hint p disp

/-- The `XCOLL` whose fold is in flight goes on: it ends with its fold, its exchange handed over (R308, R314). The outcome of a fold that
has returned is kept, also where a member that the exchange needs has departed (R294). -/
def State.followXcoll (s : State) (f : Fold) : Eff :=
  match f.res with
  | some (.result b d) =>
    if s.ctx.coll.exchanges.any fun x => decide (f.coll = some x.seq) && s.partnerGone x then
      .stay fun t => t.mapColl fun q => { q.finish f b d with fold := some { f with res := some (collTimeout 3 f.seq f.site) } }
    else .fin (s.mapColl fun q => q.returned f b d)
  | _ => .wait

/-- `XCOLL`'s effect. -/
def State.xcoll (s : State) (hd hs : HReg) (red : RedCopy) (ty : ElemTy) (b : BReg) (src dst : Nat) : Eff :=
  if s.ctx.ver.isSome ∨ s.ctx.spec.isSome then .wait
  else
    match s.ctx.coll.fold with
    | some f => if f.pc = s.cpc then s.followXcoll f else f.other
    | none =>
      if 4 ≤ s.ctx.coll.exchanges.length then .wait
      else trapOr (s.xcollCheck hd hs red ty b src dst) fun x =>
        match s.myGroup.filter (·.broken) with
        | some g =>
          match g.brokenCause x.seq x.site with
          | .trap c v => .trap c v
          | .result _ _ => .wait
        | none => .begin (s.startExchange x)

/-- `XCOLL` -/
def execXcoll (sy : Sync) (hd hs : HReg) (red : RedCopy) (ty : ElemTy) (b : BReg) (src dst : BitVec 22) (s : State) :=
  s.endFoldWait.runC sy 2 .both [] fun u => u.xcoll hd hs red ty b (64 * src.toNat) (64 * dst.toNat)

/-! ## The end of an exchange (R312 to R314) -/

/-- A step number belongs to the exchange (R312). -/
def Exchange.ownsStep (x : Exchange) (k : BitVec 16) : Bool := decide ((k - x.step).toNat < x.swap.steps x.s.mesh)

/-- The exchange ends for the acting member: its bindings go with it, and the duplicate entries of its steps retire
(R287). -/
def State.endExchange (s : State) (x : Exchange) : State :=
  let secs := if s.ms.dups.isEmpty then [] else (s.xDst x).map fun p => sectorOf p.pa
  let s := s.mapMs fun m => { m with dups := m.dups.filter fun e =>
    !(decide (e.collective = s.ctx.launch.group) && decide (e.collective ≠ 0) && x.ownsStep e.step && secs.contains e.sector) }
  s.mapCtx fun c => ({ c with coll := { c.coll with exchanges := c.coll.exchanges.filter fun y => decide (y.seq ≠ x.seq) } } : Ctx).dropReleases

/-- The exchange ends for the acting member with an asynchronous trap: its destination bytes are unspecified and no
arrival is counted (R313). -/
def State.failExchange (s : State) (x : Exchange) (c : BitVec 8) (v : Word) : State :=
  ((s.scramble x).endExchange x).mapCtx (·.asyncTrap c v)

/-- COLLTIMEOUT for an exchange (R305). -/
def Exchange.timeout (x : Exchange) (reason : Nat) : Word := collVal reason x.seq (x.site.toNat % 2 ^ 16)

/-- Poisoned source sectors, by the address of byte 0 in the mapping (R312). -/
def State.badSources (s : State) (x : Exchange) : List Word :=
  if s.ms.poisoned.isEmpty then []
  else
    ((List.range x.srcLen).filterMap fun i =>
      let p := s.byteAt x.src (x.s.off + i)
      if s.poisonedAt p.pa 1 then some (x.src.address ((x.s.off : Int) + (i : Int) - ((p.pa % 128 : Nat) : Int))) else none).eraseDups

/-- The source block as the acting member sends it: poisoned sectors as zeros. -/
def State.sourceBytes (s : State) (x : Exchange) : List Byte :=
  (s.xSrc x).map fun p => if s.poisonedAt p.pa 1 then 0 else (s.through p.pa (s.seenBy s.dieNo p.pa 1)).headD 0

/-- The acting member's exchange is over, its bytes in place: its zeroed source sectors and the arrival are counted (R312). -/
def State.finishExchange (s : State) (x : Exchange) (zeroed : Nat) (b : List Byte) : Option State :=
  (s.fillBlock x b).map fun s =>
    let s := (s.completePlaces (s.xDst x)).addZeroed x.barAddr zeroed
    let s := if zeroed = 0 then s else s.mapCtx (·.event evInteg)
    (s.arriveAt x.barAddr x.dstLen).endExchange x

/-- Changes an exchange of the acting member. -/
def State.mapExchange (s : State) (k : BitVec 16) (f : Exchange → Exchange) : State :=
  s.mapColl fun q => { q with exchanges := q.exchanges.map fun x => if x.seq = k then f x else x }

/-- A member of an exchange with what it holds: its key, index and exchange. -/
structure Mover where
  key : CtxKey
  part : Part
  ix : Nat
  x : Exchange
deriving DecidableEq, Repr

/-- The resident members of groups with an id whose exchange `seq` moves. -/
def State.moverList (s : State) (grp seq : BitVec 16) : List Mover :=
  (s.resident.filter fun c => decide (c.launch.group = grp)).filterMap fun c =>
    (c.coll.exchanges.find? fun x => decide (x.seq = seq) && x.moving).map fun x => ⟨c.key, c.ident.part, c.memberIx, x⟩

/-- A node on this package has the member. -/
def State.memberHere (s : State) (p : Part) (id : BitVec 16) (m : Nat) : Bool :=
  s.nodes.any fun n => decide (n.part = p) && decide (n.launch.group = id) && decide (n.launch.firstMember ≤ m) &&
    decide (m < n.launch.firstMember + n.launch.count)

/-- What a member has sent for `n` destination bytes from `off`, if all of it has come (R312). -/
def Exchange.came (x : Exchange) (m off n : Nat) : Option (List Byte) :=
  (List.range n).mapM fun i => (x.far.find? fun e => decide (e.1 = m) && decide (e.2.1 = off + i)).map (·.2.2)

/-- The destination elements of member `j` that take something of member `m`, each with the number of `m`'s element. -/
def Exchange.gives (x : Exchange) (m j : Nat) : List (Nat × Nat) :=
  (List.range x.d.block).flatMap fun e => ((x.swap.sources x.s x.d j e).filter fun q => decide (q.1 = m)).map fun q => (e, q.2)

/-- Members that a member exchanges with, other than itself. -/
def Exchange.partners (x : Exchange) (m : Nat) : List Nat := (x.mates m).filter fun q => decide (q ≠ m)

/-- Everything that the mover needs of other members has come. -/
def Mover.allCame (m : Mover) : Bool :=
  (m.x.partners m.ix).all fun q => (m.x.gives q m.ix).all fun e => (m.x.came q (e.1 * m.x.esz) m.x.esz).isSome

/-- The step of an exchange in which member `m` sends to member `j` (R312). -/
def Exchange.stepTo (x : Exchange) (m j : Nat) : BitVec 16 :=
  let q := (x.mates m).length
  let at' (k : Nat) : Nat := ((x.mates m).findIdx? (· = k)).getD 0
  x.step + BitVec.ofNat 16 ((at' j + q - at' m) % q - 1)

/-- The packets in which member `m` sends its block to member `j`: one for each destination sector, with the bytes of it that `j` takes of
`m`, `place` saying where the bytes of `j`'s destination block stand (R286). -/
def Exchange.packets (x : Exchange) (grp : BitVec 16) (m j : Nat) (block : List Byte) (place : Nat → Nat) : List RedPacket :=
  let n := x.esz
  let cells := (x.gives m j).flatMap fun e => (List.range n).map fun i => (place (e.1 * n + i), block.getD (e.2 * n + i) 0)
  (cells.map fun c => sectorOf c.1).eraseDups.map fun k =>
    { collective := grp, step := x.stepTo m j, source := BitVec.ofNat 32 m, red := x.red, esz := n
      cells := cells.filter fun c => decide (sectorOf c.1 = k) }

/-- The acting member's source block is read, once, and goes to the members of other packages; those here are to have theirs (R312). -/
def State.sendBlock (s : State) (m : Mover) : State :=
  if m.x.block.isSome then s
  else
    let grp := s.ctx.launch.group
    let (near, far) := (m.x.partners m.ix).partition fun q => s.memberHere m.part grp q
    let s := s.openPlaces (s.xSrc m.x)
    let b := s.sourceBytes m.x
    let z := (s.badSources m.x).length
    let s := (chunks (s.xSrc m.x)).foldl (fun s c => s.note c.1.pa c.2 15 false) s
    let s := s.mapExchange m.x.seq fun x => { x with block := some (b, z), out := near }
    if s.mg.pkgid = 0xFFFF then s
    else far.foldl (fun s j => (m.x.packets grp m.ix j b (Config.farPlace grp j m.x.seq)).foldl
      (fun s k => s.sendPeer (Config.packageOf grp j) (.data k)) s) s

/-- A packet arrives at the acting member, with its entry of the duplicate table: what it brings for places in the destination block
(R287, R312). -/
def State.landBlock (s : State) (x : Exchange) (k : RedPacket) (places : List Nat) : State :=
  let come := (places.zip k.cells).map fun b => (k.source.toNat, b.1, b.2.2)
  (s.mapMs fun m => { m with dups := s.dupEntry k.collective k.step k.source k.addr :: m.dups }).mapExchange x.seq
    fun y => { y with far := y.far ++ come }

/-- A packet of a member on this package comes to the acting member's exchange, unless it waits for an entry (R287). -/
def State.takeNear (s : State) (x : Exchange) (k : RedPacket) : State :=
  let e := s.dupEntry k.collective k.step k.source k.addr
  if s.came e ∨ tableFull s.ms.dups e then s
  else
    let d := (s.xDst x).map (·.pa)
    s.landBlock x k (k.cells.filterMap fun c => d.findIdx? (· = c.1))

/-- The packets of a member's block for member `j` on this package, once `j` moves; those whose tables are full stay to be sent (R287,
R314). -/
def State.sendNear (s : State) (grp seq : BitVec 16) (m : Mover) (b : List Byte) (j : Nat) : State :=
  match (s.moverList grp seq).find? fun q => decide (q.part = m.part) && decide (q.ix = j) with
  | none => s
  | some q =>
    match s.focus q.key with
    | none => s
    | some t =>
      let d := (t.xDst q.x).map (·.pa)
      let l := m.x.packets grp m.ix j b fun i => d.getD i 0
      let t := l.foldl (fun t k => t.takeNear q.x k) t
      let done := l.all fun k => t.came (t.dupEntry k.collective k.step k.source k.addr)
      let u := (t.focus s.ctx.key).getD t
      if done then u.on m.key fun v => v.mapExchange seq fun x => { x with out := x.out.filter (· ≠ j) } else u

/-- The acting member's exchange ends: all that it needs has come, and all that it sends on this package has arrived; its elements are
computed and written. -/
def State.doExchange (s : State) (m : Mover) : Option State :=
  match m.x.block with
  | none => none
  | some (b, z) =>
    let val (q k e : Nat) : List Byte := (m.x.came q (e * m.x.esz) m.x.esz).getD ((b.drop (k * m.x.esz)).take m.x.esz)
    s.finishExchange m.x z (m.x.swap.result m.x.s m.x.d m.x.esz m.x.red val m.ix)

/-! ## How an exchange ends early (R312 to R314) -/

/-- The acting member takes what has ended an exchange of its own (R313): while it moves, and COLLSHAPE also when it is over. -/
def State.takeEnd (s : State) (k : BitVec 16) (why : ExchangeEnd) : State :=
  let done (s : State) : State := s.mapGroup s.ctx.ident.part s.ctx.launch.group fun g =>
    { g with ended := (g.ended.map fun e => if e.1 = k then (e.1, e.2.1.filter (· ≠ s.ctx.memberIx), e.2.2) else e).filter fun e => !e.2.1.isEmpty }
  match s.ctx.coll.exchanges.find? fun x => x.seq = k with
  | some x =>
    if !x.moving then s
    else
      match why with
      | .poison => (done s).failExchange x cCOLLTIMEOUT (x.timeout 4)
      | .timer => (done s).failExchange x cCOLLTIMEOUT (x.timeout 1)
      | .shape _ => (done s).failExchange x cCOLLSHAPE (collVal 0 k x.hash.toNat)
  | none =>
    match why with
    | .shape h => (done s).mapCtx (·.asyncTrap cCOLLSHAPE (collVal 0 k h.toNat))
    | _ => done s

/-- The acting member takes every end that awaits it. -/
def State.takeEnds (s : State) : State :=
  match s.myGroup with
  | none => s
  | some g => (g.ended.filter fun e => e.2.1.contains s.ctx.memberIx).foldl (fun s e => s.takeEnd e.1 e.2.2) s

/-- The resident members of a group take the ends that await them. -/
def State.deliverEnds (s : State) (p : Part) (id : BitVec 16) : State :=
  if (s.group p id).any fun g => !g.ended.isEmpty then
    ((s.resident.filter fun c => decide (c.ident.part = p) && decide (c.launch.group = id)).map (·.key)).foldl
      (fun s k => s.on k State.takeEnds) s
  else s

/-- What ends a member's exchange for want of a member or of the group (R314). -/
def State.exchangeFailure (s : State) (m : Mover) : Option Word :=
  match s.focus m.key with
  | none => none
  | some t =>
    if t.myGroup.any (·.broken) then some (m.x.timeout 2) else if t.partnerGone m.x then some (m.x.timeout 3) else none

/-- The first poisoned source sector of a member whose handle says STRICT (R312). -/
def State.strictSource (s : State) (m : Mover) : Option Word :=
  if m.x.src.zeroes then none else (s.focus m.key).bind fun t => (t.badSources m.x).head?

/-- A poisoned source ends the exchange: POISON for its member, reason 4 for the others (R312). -/
def State.poisonExchange (s : State) (grp : BitVec 16) (m : Mover) (a : Word) : State :=
  let s := s.on m.key fun t => t.failExchange m.x cPOISON a
  let s := s.mapGroup m.part grp fun g => g.endExchange m.x.seq ((m.x.mates m.ix).filter (· ≠ m.ix)) .poison
  (s.tellStop m.part grp m.x.seq (.poison m.ix)).deliverEnds m.part grp

/-- A poisoned source of a member elsewhere ends the exchange for the members here that needed it. -/
def State.poisonFar (s : State) (p : Part) (id k : BitVec 16) (m : Nat) : State :=
  let who (g : Group) : List Nat :=
    match (s.moverList id k).find? fun q => decide (q.part = p) with
    | some q => (q.x.mates m).filter (· ≠ m)
    | none => List.range g.size
  (s.mapGroup p id fun g => g.endExchange k (who g) .poison).deliverEnds p id

/-- A member's requests join its core's port, once (R325). -/
def State.payExchange (s : State) (m : Mover) : State :=
  s.on m.key fun t =>
    if t.ms.held.any fun q => decide (q.key = m.key) && decide (q.kind = .dues (.exchange m.x.seq)) then t
    else
      let (rest, t) := t.payOrQueue (.exchange m.x.seq) 15 m.x.due
      t.mapColl fun q => { q with exchanges := q.exchanges.map fun x => if x.seq = m.x.seq then { x with due := rest } else x }

/-- Bytes of a member's exchange meet a condition that parks requests at a home (R237). -/
def State.moverParked (s : State) (m : Mover) : Bool :=
  (s.focus m.key).any fun t => ((if m.x.block.isSome then [] else t.xSrc m.x) ++ t.xDst m.x).any fun p => t.mustPark p 1

/-- The bytes of a member's exchange that park take their entries, one for each sector; one that is dropped is reported as R237 says of
copy bytes, and the exchange asks again (R237; log entry 10). -/
def State.parkExchange (s : State) (m : Mover) : State :=
  s.on m.key fun t =>
    let ask (reads : Bool) (t : State) (ps : List Place) : State := ps.foldl (fun t p =>
      if !t.mustPark p 1 || t.ms.parked.any (fun q => decide (q.key = m.key) && decide (sectorOf q.addr = sectorOf p.pa) &&
          decide (q.kind = .xbytes m.x.seq reads)) then t
      else (t.tick.arrive (t.request p (BitVec.ofNat 64 p.pa) 15 (.xbytes m.x.seq reads))).getD t) t
    ask false (if m.x.block.isSome then t else ask true t (t.xSrc m.x)) (t.xDst m.x)

/-- A mover as it stands now. -/
def State.moverNow (s : State) (grp seq : BitVec 16) (m : Mover) : Option Mover := (s.moverList grp seq).find? fun q => decide (q.key = m.key)

/-- The bytes of a member's exchange move: its block is read and sent, and it is done once all that it needs has come. -/
def State.moveExchange (s : State) (grp seq : BitVec 16) (m : Mover) : State :=
  let s := s.on m.key fun t => t.sendBlock m
  let s := (s.moverNow grp seq m).elim s fun m =>
    m.x.out.foldl (fun s j => s.sendNear grp seq m ((m.x.block.map (·.1)).getD []) j) s
  match s.moverNow grp seq m with
  | some m => if m.x.out.isEmpty && m.allCame then s.on m.key fun t => (t.doExchange m).getD t else s
  | none => s

/-- The exchange of one member: a failure ends it, else its requests pay, wait where they park, and its bytes move. -/
def State.stepExchange (s : State) (grp seq : BitVec 16) (m : Mover) : State :=
  let s := s.deliverEnds m.part grp
  match s.moverNow grp seq m with
  | none => s
  | some m =>
    match s.exchangeFailure m with
    | some v => s.on m.key fun t => t.failExchange m.x cCOLLTIMEOUT v
    | none =>
      match if m.x.block.isSome then none else s.strictSource m with
      | some a => s.poisonExchange grp m a
      | none =>
        if m.x.due.any (0 < ·) then s.payExchange m
        else if s.moverParked m then s.parkExchange m
        else s.moveExchange grp seq m

/-- `XCOLL_EXCHANGE_DONE` (R312, R314) -/
def execXcollExchangeDone (grp seq : BitVec 16) (s : State) :=
  s.event true fun t => (t.moverList grp seq).foldl (fun t m => t.stepExchange grp seq m) t

/-! ## Shapes and timers (R305, R313, R314) -/

/-- `COLLECTIVE_PACKET_ARRIVAL`: the first data packet of the member's oldest moving exchange comes with a shape hash
(R313). -/
def execCollectivePacketArrival (k : CtxKey) (hash : BitVec 32) (s : State) :=
  s.eventOn k fun t =>
    match t.ctx.coll.exchanges.find? (·.moving) with
    | some x =>
      if x.hash = hash then t
      else
        let (p, id) := (t.ctx.ident.part, t.ctx.launch.group)
        ((t.shapeFault p id x.seq (some x.hash)).tellStop p id x.seq (.shape x.hash)).deliverEnds p id
    | none => t

/-- The acting member's moving exchange whose timer has lapsed. -/
def State.exchangeLapsed (s : State) : Option Exchange :=
  s.ctx.coll.exchanges.find? fun x =>
    x.moving && decide (x.since + s.ctx.launch.foldTimeout ≤ s.nstime) && !s.groupStill s.ctx.ident.part s.ctx.launch.group

/-- The group breaks on a timer of fold or exchange `seq`: its members take COLLTIMEOUT with reason 1 (R305, R314). -/
def State.breakExchange (s : State) (p : Part) (id seq : BitVec 16) : State :=
  let s := s.breakGroup p id seq 1
  let moving := (s.moverList id seq).any fun m => decide (m.part = p)
  (if moving then s.mapGroup p id fun g => g.endExchange seq (List.range g.size) .timer else s).deliverEnds p id

/-- `GROUP_TIMEOUT` (R305, R314) -/
def execGroupTimeout (k : CtxKey) (s : State) :=
  s.eventOn k fun t =>
    match t.foldLapsed with
    | some f => (t.breakExchange t.ctx.ident.part t.ctx.launch.group f.seq).tellStop t.ctx.ident.part t.ctx.launch.group f.seq .timer
    | none =>
      match t.exchangeLapsed with
      | some x => (t.breakExchange t.ctx.ident.part t.ctx.launch.group x.seq).tellStop t.ctx.ident.part t.ctx.launch.group x.seq .timer
      | none => t

end Sys2Proof.Machine
end

