-- ==== Sys2Proof/Machine/MemSide.lean ====
section
/-!
DEFINITION. Steps of the memory side: writes that complete at their homes, flush markers, the home fault queues,
slices, reduction packets and keys (09_memory R223, R225, R237, 11_ordering R267, R272, 12_atomics R287, R289).
-/

namespace Sys2Proof.Machine

/-! ## Homes and markers -/

/-- `WRITE_COMPLETE_AT_HOME`: the pending write of a sector completes (R267). -/
def execWriteCompleteAtHome (line : Nat) (s : State) := s.event (s.pendingAt line) fun t => t.completeWrite line

/-- Everything that a marker certifies has come about: the core's earlier requests to the slice have reached it, and for
a wide marker their writes have completed there (R272). -/
def State.markerDue (s : State) (m : Marker) : Bool :=
  s.ms.parked.all (fun q => !(decide (q.key.core.val = m.core) && decide (q.die = m.die) && decide (q.slice = m.slice) && q.kind.posted)) &&
  (!m.wide || s.resident.all fun c => decide (c.key.core.val ≠ m.core) ||
    c.order.sectors.all fun e => decide (e.2 ≠ m.cls) || decide (s.home (e.1 * 128) ≠ (m.die, m.slice)))

/-- `FLUSH_MARKER_ANSWER` (R272) -/
def execFlushMarkerAnswer (n : Nat) (s : State) :=
  s.event (s.ms.markers.any fun m => decide (m.serial = n) && s.markerDue m) fun t =>
    t.mapMs fun m => { m with markers := m.markers.filter fun q => q.serial ≠ n }

/-! ## The fault queues (R237, R289) -/

/-- A parked request performs as if it had just arrived; bytes of a copy command move now (R237, R289). -/
def State.replayOne (s : State) (q : Parked) : State :=
  match q.kind with
  | .copy t n reads _ => s.on q.key fun u => u.replayCopy q t n reads
  | _ => s.carryOut q

/-- Replays a queue in arrival order, each request once nothing parks it and nothing older of its sector stays. -/
def State.replayAll (s : State) : List Parked → List Nat → State
  | [], _ => s
  | q :: rest, stuck =>
    if stuck.contains (sectorOf q.addr) || s.stillBad q || s.noRoom q then State.replayAll s rest (sectorOf q.addr :: stuck)
    else
      let s := s.mapMs fun m => { m with parked := m.parked.filter fun r => decide (r.serial ≠ q.serial) }
      State.replayAll (s.replayOne q) rest stuck

/-- The requests parked at a slice. -/
def State.queueAt (s : State) (die slice : Nat) : List Parked :=
  s.ms.parked.filter fun q => decide (q.die = die) && decide (q.slice = slice)

/-- `FAULT_QUEUE_REPLAY` (R237) -/
def execFaultQueueReplay (die : Die) (slice : Fin 16) (s : State) :=
  s.event true fun t => t.replayAll (t.queueAt die.val slice.val) []

/-- The cause that a dropped request reports. -/
def Parked.cause (q : Parked) : BitVec 8 := if q.poison then cPOISON else cWATCHDOG

/-- Drops a request that has been parked for more than 1 ms: the log, and the report (R237). -/
def State.dropParked (s : State) (q : Parked) : State :=
  match q.kind with
  | .copy t n reads _ => s.on q.key fun u => u.copyLapses q t n reads
  | _ =>
    let s := s.mapMs fun m => { m with parked := m.parked.filter fun r => decide (r.serial ≠ q.serial) }
    let s := (s.logAt q.die q.key.core.val .watchdog [q.va.toNat]).registered q.key q.serial
    if q.gone then s
    else
      match q.kind with
      | .fetch u => s.answerFetch q u none q.cause
      | _ =>
        s.on q.key fun t =>
          if q.kind.waits then t.mapOrder fun o => { o with answer := some (q.cause, q.va) }
          else (t.mapCtx (·.event evInteg)).mapOrder fun o => { o with dropped := o.dropped ++ [⟨q.cause, q.va, q.cls, q.die⟩] }

/-- The requests of a slice that have been parked for more than 1 ms. -/
def State.lapsedAt (s : State) (die slice : Nat) : List Parked :=
  (s.queueAt die slice).filter fun q => decide (q.since + 1000000 < s.nstime)

/-- `FAULT_QUEUE_WATCHDOG` (R237) -/
def execFaultQueueWatchdog (die : Die) (slice : Fin 16) (s : State) :=
  s.event true fun t => (t.lapsedAt die.val slice.val).foldl State.dropParked t

/-! ## Slices (R223) -/

/-- A live slice may be retired in favour of another. -/
def State.canRetire (s : State) (die slice target : Nat) : Bool :=
  let m := s.sliceMap die
  decide (slice ≠ target) && !m.retired.contains slice && !m.retired.contains target

/-- `SLICE_RETIRE`: the retirement begins; what reaches the slice's entries is parked until it is complete, and entries that were on their
way to the slice go on to the new one (R222, R237). -/
def execSliceRetire (die : Die) (slice target : Fin 16) (s : State) :=
  s.event (s.canRetire die.val slice.val target.val) fun t =>
    t.mapSlice die.val fun m =>
      { m with moving := (m.moving.map fun e => if e.2 = slice.val then (e.1, target.val) else e) ++ ((List.range 64).filter fun k => decide (m.map.toList.getD k 0 = slice.val)).map (·, target.val)
               retired := slice.val :: m.retired }

/-- The slice that a map being changed gives in place of another. -/
def SliceMap.newSlice (m : SliceMap) (slice : Nat) : Nat :=
  if m.retired.contains slice then ((m.moving.find? fun e => decide (m.map.toList.getD e.1 0 = slice)).map (·.2)).getD slice else slice

/-- A retirement completes: dirty sectors are in HBM, the entries name the new slices under the next generation, and what waits for a slice
waits for the one that has taken its place (R223). -/
def State.finishRetire (s : State) (die : Nat) : State :=
  let m := s.sliceMap die
  let to' (d l : Nat) : Nat := if d = die then m.newSlice l else l
  let s := s.mapSlice die fun m =>
    { m with map := m.map.mapIdx fun i k => ((m.moving.find? fun e => decide (e.1 = i)).map (·.2)).getD k
             gen := m.gen + 1, moving := [], l2 := m.l2.filter fun e => !m.retired.contains (e.1 / 256) }
  let s := s.mapMs fun k =>
    { k with parked := k.parked.map fun q => { q with slice := to' q.die q.slice }
             held := k.held.map fun q => { q with slice := to' q.die q.slice }
             markers := k.markers.map fun q => { q with slice := to' q.die q.slice }
             redDie := k.redDie.map fun e => (e.1, to' e.1 e.2.1, e.2.2) }
  { s with cores := s.cores.map fun e => (e.1, { e.2 with posted := (e.2.posted.map fun p => (p.1, p.2.1, to' p.2.1 p.2.2)).eraseDups }) }

/-- The retirements of a die complete. -/
def retireAuto (die : Nat) (s : State) : Host.Outcome State Fault Refusal := s.event true fun t => t.finishRetire die

/-! ## Correctable errors (R211, R364) -/

/-- The die and the core that an address belongs to; a log entry about a die names its core 0. -/
def State.siteOf (s : State) (pa : Nat) : Nat × Nat :=
  match regionOf pa with
  | .dsp die _ => (die, 0)
  | .sp core _ => (dieOfCore core, core)
  | .hbm => (homeDie s.mg.mode pa, 0)
  | _ => if rsPa 0 0 ≤ pa then (dieOfCore ((pa - rsPa 0 0) / 2 ^ 18), (pa - rsPa 0 0) / 2 ^ 18) else (0, 0)

/-- A correctable error is corrected in place and logged. -/
def State.correct (s : State) : State :=
  s.ms.weak.foldl (fun s k => s.logAt (s.siteOf (128 * k)).1 (s.siteOf (128 * k)).2 .ecc [128 * k]) (s.mapMs fun m => { m with weak := [] })

/-! ## Packets of reducing copies and exchanges (R286, R287) -/

/-- A resident context has the reducing command that a packet names (R286). -/
def State.packetCommand (s : State) (k : RedPacket) : Option (CtxKey × CopyStream × CopyCmd) :=
  s.resident.findSome? fun c =>
    [CopyStream.ld, .st].findSome? fun cs =>
      ((if cs = .st then c.st else c.ld).flight.find? fun q =>
        !q.done && decide (q.red = k.red) && decide (k.red ≠ .none) && decide (q.tag c.key cs = (k.step, k.source)) &&
          decide (k.esz = q.esz)).map fun q => (c.key, cs, q)

/-- What a resident member that moves takes of a packet of an exchange (R286, R312): the member, its exchange, and the places in its
destination block of bytes which the sender gives it; of a member here, the bytes that it has. -/
def State.packetMember (s : State) (k : RedPacket) : Option (CtxKey × Exchange × List Nat) :=
  s.resident.findSome? fun c =>
    if c.launch.group ≠ k.collective then none
    else
      (s.focus c.key).bind fun t => (c.coll.exchanges.find? fun x =>
        x.moving && x.ownsStep k.step && decide (x.red = k.red) && decide (k.esz = x.esz)).bind fun x =>
          let m := k.source.toNat
          let d := (t.xDst x).map (·.pa)
          let l := k.cells.map fun c => d.findIdx? (· = c.1)
          let given := (x.gives m c.memberIx).flatMap fun e => (List.range x.esz).map fun i => (e.1 * x.esz + i, e.2 * x.esz + i)
          let own : Option (List Byte) := ((s.moverList k.collective x.seq).find? fun q => decide (q.ix = m)).bind fun q =>
            if q.x.block.isSome then q.x.block.map (·.1) else (s.focus q.key).map fun u => u.sourceBytes q.x
          let right (o i : Nat) : Bool :=
            match given.find? fun g => decide (g.1 = o) with
            | none => false
            | some g => !s.memberHere c.ident.part k.collective m || own.any fun b => decide (b[g.2]? = (k.cells[i]?).map (·.2))
          if decide (k.cells.length ≤ 128) && k.cells.all (fun c => decide (sectorOf c.1 = sectorOf k.addr)) &&
              l.zipIdx.all fun e => e.1.any fun o => right o e.2 then
            some (c.key, x, l.filterMap id)
          else none

/-- The packet belongs to a step that a resident member of its group has gone past, or to a broken group: it is dropped (R287, R313). -/
def State.packetLate (s : State) (k : RedPacket) : Bool :=
  s.resident.any (fun c => decide (c.launch.group = k.collective) && decide ((c.coll.step - k.step).toNat - 1 < 2 ^ 15) &&
    !c.coll.exchanges.any fun x => x.ownsStep k.step) ||
  s.groups.any fun g => decide (g.id = k.collective) && g.broken

/-- A packet arrives: its bytes are taken once, else it is dropped and counted; `none`: it waits, for an entry, for its command or member, or
for a member that is saved (R287, R314). -/
def State.packetTaken (s : State) (k : RedPacket) : Option State :=
  if k.cells = [] then some s
  else if k.collective = 0 then
    match s.packetCommand k with
    | none => some (s.dropDup k.addr)
    | some (key, cs, q) => some (s.on key fun t => t.landPacket cs q k)
  else
    let e := s.dupEntry k.collective k.step k.source k.addr
    if s.came e then some (s.dropDup k.addr)
    else
      match s.packetMember k with
      | none => if s.packetLate k then some (s.dropDup k.addr) else none
      | some (key, x, l) =>
        if tableFull s.ms.dups e then none
        else some (s.on key fun t => t.landBlock x k l)

/-- `REDUCTION_PACKET_ARRIVAL` -/
def execReductionPacketArrival (pkt : RedPacket) (s : State) := s.event true fun t => (t.packetTaken pkt).getD t

/-! ## Keys (R225) -/

/-- `KEY_INSTALL` -/
def execKeyInstall (key : BitVec 8) (val : BitVec 512) (s : State) :=
  s.event (decide (key ≠ 0)) fun t => t.mapMg fun m => { m with keys := (key, val) :: m.keys.filter fun e => decide (e.1 ≠ key) }

/-- `KEY_REVOKE` -/
def execKeyRevoke (key : BitVec 8) (s : State) :=
  s.event true fun t => t.mapMg fun m => { m with keys := m.keys.filter fun e => decide (e.1 ≠ key) }

end Sys2Proof.Machine
end

