-- ==== Sys2Proof/Machine/Scaleout.lean ====
section
/-!
DEFINITION. What the packages of a group tell each other: partials, results, departures, stops and who stands still (13_collectives R292,
R293, R298, R305, 16_package R362).
-/

namespace Sys2Proof.Machine

/-- What is known of a peer package. -/
def State.peer (s : State) (id : BitVec 16) : Peer :=
  (s.net.peers.find? fun q => q.id = id).getD { id := id, nextSend := 0, nextRecv := 0, unacked := [] }

/-- Changes what is known of a peer. -/
def State.mapPeer (s : State) (id : BitVec 16) (f : Peer → Peer) : State :=
  { s with net := { s.net with peers := f (s.peer id) :: s.net.peers.filter fun q => q.id ≠ id } }

/-- A partial of fold `k` from another package reaches the package unit, which drops contributions that it has counted, and answers from
the last outcome where that is fold `k`'s (R297, R298, R306). -/
def State.countFar (s : State) (g : Group) (k : BitVec 16) (site : Site) (hash : BitVec 32) (votes : List (Nat × Bool))
    (peer : BitVec 16) : State :=
  let open' (g : Group) : Group := if (g.inst k).isSome then g else { g with folds := g.folds ++ [FoldInst.fresh k site hash []] }
  match if (g.inst k).isSome then none else g.last.filter (fun l => l.1 = k) with
  | some (_, r, d) => s.sendPeer peer (.result g.id k r d (s.standsStill g.part g.id))
  | none =>
  (s.mapGroup g.part g.id open').countVotes g.part g.id k site hash fun f =>
    { f with far := f.far ++ votes.filter (fun v => !f.heard v.1), peers := if f.peers.contains peer then f.peers else f.peers ++ [peer] }

/-- The result of fold `k` from the package that holds member 0. -/
def Group.farResult (g : Group) (k : BitVec 16) (r : Bool) (d : Nat) : Group :=
  { g with folds := g.folds.map (fun f => if f.seq = k ∧ f.result.isNone then { f with result := some (r, d) } else f)
           last := if g.folds.any (fun f => f.seq = k) then some (k, r, d) else g.last }

/-- What the sender of a fold message says of members that stand still (R305). -/
def Group.hearStill (g : Group) (peer : BitVec 16) (still : Bool) : Group :=
  let l := g.still.filter (· ≠ peer)
  { g with still := if still then peer :: l else l }

/-- An instance stops for the members here (R297, R305, R312, R313). -/
def State.stopHere (s : State) (p : Part) (id k : BitVec 16) (why : Stop) : State :=
  match why with
  | .site first => s.siteFault p id k first
  | .shape h =>
    let waits := ((s.group p id).bind (·.inst k)).any (·.result.isNone)
    (s.shapeFault p id k (if waits then none else some h)).deliverEnds p id
  | .timer => s.breakExchange p id k
  | .poison m => s.poisonFar p id k m

/-- Carries out a message of another package for the groups that have an entry. -/
def State.groupMsg (s : State) (peer : BitVec 16) (m : ScaleMsg) : State :=
  let each (id : BitVec 16) (f : State → Group → State) : State := (s.groups.filter fun g => decide (g.id = id)).foldl f s
  let hear (s : State) (g : Group) (still : Bool) : State := s.mapGroup g.part g.id fun g => g.hearStill peer still
  match m with
  | .fold id k site hash votes still => (each id fun s g => (hear s g still).countFar g k site hash votes peer).tell
  | .result id k r d still => each id fun s g => (hear s g still).mapGroup g.part g.id fun g => g.farResult k r d
  | .departed id m still => each id fun s g => if m < g.size then (hear s g still).departFar g.part id m else s
  | .stop id k why => each id fun s g => s.stopHere g.part id k why
  | .still id on => each id fun s g => hear s g on
  | .data pkt => (s.packetTaken pkt).getD s
  | .ack _ => s

/-- The group of a fold message, of those that a package keeps until it has an entry for the group: partials, departures, stops and who
stands still. -/
def keptFor (m : ScaleMsg) : Option (BitVec 16) :=
  match m with
  | .fold id .. => some id
  | .departed id .. => some id
  | .stop id .. => some id
  | .still id _ => some id
  | .result .. | .data _ | .ack _ => none

/-- Every member of a group that the package knew has departed, so that nothing more is to be known of it. -/
def Absent.over (a : Absent) : Bool :=
  a.size.any fun n => (List.range n).all fun m => a.heard.any fun e =>
    match e.2 with
    | .departed _ k _ => decide (k = m)
    | _ => false

/-- A message for a group without an entry is kept (R292, R293, R298; log entry 60). -/
def State.keepMsg (s : State) (id peer : BitVec 16) (m : ScaleMsg) : State :=
  let l := if s.net.absent.any fun a => decide (a.id = id) then s.net.absent else s.net.absent ++ [⟨id, none, []⟩]
  let l := l.map fun a => if a.id = id then { a with heard := a.heard ++ [(peer, m)] } else a
  { s with net := { s.net with absent := l.filter fun a => !a.over } }

/-- Carries out a message of another package. -/
def State.scaleMsg (s : State) (peer : BitVec 16) (m : ScaleMsg) : State :=
  match (keptFor m).filter fun id => !s.groups.any fun g => decide (g.id = id) with
  | some id => s.keepMsg id peer m
  | none => s.groupMsg peer m

/-- The entry of a group of `size` members, now that there is one, takes in what the package has heard of it; what it knew of a group of
another size under the id is forgotten. -/
def State.hearAbsent (s : State) (id : BitVec 16) (size : Nat) : State :=
  match s.net.absent.find? fun a => decide (a.id = id) with
  | none => s
  | some a =>
    let s := { s with net := { s.net with absent := s.net.absent.filter fun a => decide (a.id ≠ id) } }
    if a.size.all (· = size) then a.heard.foldl (fun s e => s.groupMsg e.1 e.2) s else s

end Sys2Proof.Machine
end

