-- ==== Sys2Proof/Machine/Packets.lean ====
section
/-!
DEFINITION. Submission rings and the LAUNCH, SIGNAL and NOP packets (04_tasks R77 to R87, 13_collectives R290, 14_clocks
R316, R318).
-/

namespace Sys2Proof.Machine

/-! ## Rings (R77, R78) -/

/-- The value of `n` bytes of a packet from byte `off`. -/
def fld (k : Packet) (off n : Nat) : Nat := k.toNat / 2 ^ (8 * off) % 2 ^ (8 * n)

/-- Rings that a partition's function exposes (R77). -/
def State.ringCount (s : State) : Nat := if s.mg.mode = .mode1 then 16 else 8

/-- The function's ring exists: ring 0 of PF0, or a ring of a partition. -/
def State.ringThere (s : State) (r : RingId) : Bool :=
  if h : r.fn.val = 0 then decide (r.q.val = 0)
  else (s.part ⟨r.fn.val - 1, by omega⟩).isSome && decide (r.q.val < s.ringCount)

/-- Reads `n` bytes for a function: in its partition's address space, or at a physical address for PF0 (R77, R359). -/
def State.fnRead (s : State) (fn : Fn) (a n : Nat) : Except PartFault (List Byte) × State :=
  if h : fn.val = 0 then
    if regionOf a = .reserved ∨ s.poisonedAt a n then (.error (cPOISON, a), s)
    else
      let (b, s) := s.readHome (hostCell a) n
      (.ok b, s)
  else s.partRead ⟨fn.val - 1, by omega⟩ (piecesOf a n)

/-- The slot that the fetcher reads next. -/
def State.slotBytes (s : State) (r : RingId) : Except PartFault (List Byte) × State :=
  s.fnRead r.fn ((s.ring r).base.toNat + 128 * (s.ring r).index) 128

/-- The fetcher of the ring runs; the management ring waits for a packet that has not completed. -/
def State.fetching (s : State) (r : RingId) : Bool :=
  s.ringThere r && (s.ring r).en && (s.ring r).awake && !(decide (r.fn.val = 0) && s.mg.waiting.isSome)

/-- The ring's next packet is `k`, in the expected phase. -/
def State.offers (s : State) (r : RingId) (k : Packet) : Bool :=
  s.fetching r &&
  match (s.slotBytes r).1 with
  | .ok b => decide (leValue b = k.toNat) && decide (k.getLsbD 0 = (s.ring r).phase)
  | .error _ => false

/-- The ring with its packet consumed. -/
def Ring.consume (g : Ring) : Ring :=
  let i := (g.index + 1) % 2 ^ g.logsize
  { g with index := i, phase := if i = 0 then !g.phase else g.phase, head := g.head + 1 }

/-- What a packet does: it is given its ring, its index since enable, and its bytes. -/
abbrev PacketFn := State → RingId → BitVec 32 → Packet → State

/-- Consumes the ring's next packet and carries it out. -/
def State.take (s : State) (f : PacketFn) (r : RingId) (k : Packet) : State :=
  let idx := (s.ring r).head
  f (((s.slotBytes r).2).mapRing r Ring.consume) r idx k

/-- The step of a packet of a type: it needs the packet at the ring's next slot. -/
def State.onPacket (s : State) (f : PacketFn) (is : Packet → Bool) (r : RingId) (k : Packet) :
    Host.Outcome State Fault Refusal :=
  s.event (s.offers r k && is k) fun t => t.take f r k

/-! ## Refusals (R81) -/

/-- BADPKT -/
def eBADPKT : Nat := 1
/-- TEAMFIT -/
def eTEAMFIT : Nat := 2
/-- DUPNODE -/
def eDUPNODE : Nat := 3
/-- PRIV -/
def ePRIV : Nat := 4
/-- RINGFAULT -/
def eRINGFAULT : Nat := 7

/-- The packet's type. -/
def typeOf (k : Packet) : Nat := fld k 1 1

/-- Refuses a packet (R81). -/
def State.refuse (s : State) (r : RingId) (idx : BitVec 32) (k : Packet) (code off : Nat) : State :=
  let s := s.ringError r code off idx
  let a := BitVec.ofNat 64 (fld k 0x70 8)
  if [1, 2, 4].contains (typeOf k) ∧ cplForm a = some .write then
    (s.fnWrite32 r.fn a.toNat (BitVec.ofNat 32 (0xFFFF0000 + code))).getD s
  else s

/-- The lowest offset whose limit is broken, of limits in ascending order of offset. -/
def firstBad : List (Nat × Bool) → Option Nat
  | [] => none
  | (o, bad) :: rest => if bad then some o else firstBad rest

/-- Bytes that must be zero, from `off`. -/
def mustZero (k : Packet) (off n : Nat) : List (Nat × Bool) := (List.range n).map fun i => (off + i, decide (fld k (off + i) 1 ≠ 0))

/-- Limits of the completion fields and of the end of a packet (R80, R85). -/
def tailBad (k : Packet) : List (Nat × Bool) :=
  [(0x70, decide (cplForm (BitVec.ofNat 64 (fld k 0x70 8)) = none)), (0x78, decide (fld k 0x78 4 / 2 ^ 16 = 0xFFFF)),
   (0x7C, decide (fld k 0x7C 4 ≠ 0))]

/-- Bits [7:1] of the header. -/
def headBad (k : Packet) : Nat × Bool := (0x00, decide (fld k 0 1 / 2 ≠ 0))

/-! ## LAUNCH (R80, R290) -/

/-- The fields of a LAUNCH packet, with the values that 0 stands for in place (R80). -/
def Launch.ofPacket (k : Packet) : Launch :=
  let w (o : Nat) : Word := BitVec.ofNat 64 (fld k o 8)
  let flags := fld k 3 1
  { priority := fld k 2 1, slice := flags.testBit 0, poll := flags.testBit 1, spec := flags.testBit 2, forward := flags.testBit 3
    count := fld k 0x04 4, team := fld k 0x08 4, node := BitVec.ofNat 32 (fld k 0x0C 4), entry := w 0x10, args := w 0x18
    rsBytes := fld k 0x20 4, spBytes := fld k 0x24 4, amBanks := fld k 0x28 1
    cap := if fld k 0x29 1 = 0 then 4 else fld k 0x29 1
    journal := 1024 * (if fld k 0x2A 2 = 0 then 32 else fld k 0x2A 2)
    ratio := BitVec.ofNat 32 (fld k 0x2C 4), weights := BitVec.ofNat 16 (fld k 0x30 2), degrade := decide (fld k 0x32 1 = 1)
    fill := BitVec.ofNat 8 (fld k 0x33 1), dependence := fld k 0x34 4, group := BitVec.ofNat 16 (fld k 0x38 2)
    timeout := 10000 * fld k 0x3A 2, members := fld k 0x3C 4, firstMember := fld k 0x40 4, mask := fld k 0x44 4
    saveArea := w 0x48, discards := (List.range 4).map fun i => (fld k (0x50 + 8 * i) 4, fld k (0x54 + 8 * i) 4)
    cplAddr := w 0x70, cplValue := BitVec.ofNat 32 (fld k 0x78 4) }

/-- Live nodes of a partition in a group. -/
def State.groupNodes (s : State) (p : Part) (id : BitVec 16) : List Node :=
  s.nodes.filter fun n => decide (n.part = p) && decide (n.launch.group = id)

/-- Limits of the group fields (R80, R290). -/
def State.groupBad (s : State) (p : Part) (k : Packet) : List (Nat × Bool) :=
  let l := Launch.ofPacket k
  let live := s.groupNodes p l.group
  if l.group = 0 then
    [(0x3A, decide (fld k 0x3A 2 ≠ 0)), (0x3C, decide (l.members ≠ 0)), (0x40, decide (l.firstMember ≠ 0))]
  else
    [(0x38, (s.group p l.group).isNone && decide (4096 ≤ s.groups.length)),
     (0x3C, decide (l.members = 0) || live.any fun n => decide (n.launch.members ≠ l.members)),
     (0x40, decide (l.members < l.firstMember + l.count) || live.any fun n =>
       decide (n.launch.firstMember < l.firstMember + l.count) && decide (l.firstMember < n.launch.firstMember + n.launch.count))]

/-- Limits of the discardable regions. -/
def discardBad (l : Launch) : List (Nat × Bool) :=
  ((l.discards.mapIdx fun i d =>
    [(0x50 + 8 * i, decide (d.1 % 4096 ≠ 0) || (decide (d.2 = 0) && decide (d.1 ≠ 0))),
     (0x54 + 8 * i, decide (d.2 % 4096 ≠ 0) || decide (l.spBytes < d.1 + d.2))])).flatten

/-- Every BADPKT limit of a LAUNCH packet, in ascending order of offset (R80). -/
def State.launchBad (s : State) (p : Part) (k : Packet) : List (Nat × Bool) :=
  let l := Launch.ofPacket k
  let j := fld k 0x2A 2
  [headBad k, (0x02, decide (23 < l.priority)), (0x03, decide (16 ≤ fld k 3 1)), (0x04, decide (l.count = 0)),
   (0x08, decide (l.team = 0) || decide (3072 < l.team) || decide (l.count % l.team ≠ 0)),
   (0x10, decide (l.entry &&& 3 ≠ 0) || decide (2 ^ 56 ≤ l.entry.toNat)),
   (0x20, decide (l.rsBytes % 512 ≠ 0) || decide (262144 < l.rsBytes)), (0x24, decide (l.spBytes % 4096 ≠ 0)),
   (0x28, decide (32 < l.amBanks)), (0x29, decide (4 < fld k 0x29 1)),
   (0x2A, decide (j % 4 ≠ 0) || decide (512 < j) || decide (2 ^ 20 < l.spBytes + l.journal)), (0x32, decide (1 < fld k 0x32 1))] ++
  s.groupBad p k ++
  [(0x44, decide (16 ≤ l.mask)), (0x48, decide (l.saveArea = 0) || decide (l.saveArea &&& 0xFFF ≠ 0))] ++ discardBad l ++ tailBad k

/-! ## TEAMFIT (R82, R318) -/

/-- Clusters of a partition that a launch selector names, as a mask (R80). -/
def Partition.selected (q : Partition) (sel : Nat) : Nat := if sel = 0 then q.clusters else q.clusters &&& Table.get 0 q.masks sel

/-- The clusters of a mask. -/
def clustersOf (m : Nat) : List Nat := (List.range 96).filter m.testBit

/-- A capacity divided by a need; 4 for a need of 0. -/
def fitTerm (cap need : Nat) : Nat := if need = 0 then 4 else cap / need

/-- The number of instances that a core could ever hold (R82). -/
def Launch.fit (l : Launch) : Nat :=
  min l.cap (min (fitTerm 262144 l.rsBytes) (min (fitTerm (2 ^ 20) (l.spBytes + l.journal)) (fitTerm 32 l.amBanks)))

/-- Grants that put every island at the nibbles of `g`. -/
def Grants.all (g : Grant) : Grants := ⟨fun _ => g.mx, fun _ => g.vx, fun _ => g.net, fun _ => g.mem⟩

/-- The largest of a list's values at splits of `m` between the head's gains and the tail's table. -/
def bestSplit (gain : Nat → Nat) (avail : Nat) (tail : List (Option Nat)) (m : Nat) : Option Nat :=
  (List.range (min avail m + 1)).foldl (fun b e =>
    match tail.getD (m - e) none with
    | none => b
    | some v => some (max (b.getD 0) (gain e + v))) none

/-- The largest sum of gains over the dies when `m` more clusters are charged among those of equal cost: entry `i`
of the answer is for `i` clusters. -/
def bestCharge (m : Nat) : List (Nat × (Nat → Nat)) → List (Option Nat)
  | [] => some 0 :: List.replicate m none
  | (avail, gain) :: rest => (List.range (m + 1)).map (bestSplit gain avail (bestCharge m rest))

/-- Sixteen times the charge of a team's floors at validation, in milliwatts: `c` clusters of the mask (R318). -/
def PowerTable.charge (t : PowerTable) (q : Partition) (mask : List Nat) (floor : Grant) (c : Nat) : Nat :=
  let hi := Grants.all floor
  let lo := Grants.all ⟨0, 0, 0, 0⟩
  let cost := t.cluster hi
  let least := (sortNat (mask.map cost)).getD (mask.length - c) 0
  let sure := mask.filter fun k => decide (least < cost k)
  let tied := mask.filter fun k => decide (cost k = least)
  let free := ((List.range 96).filter q.ownsCluster).filter fun k => !sure.contains k && !tied.contains k
  let onDie (l : List Nat) (d : Nat) : List Nat := l.filter fun k => decide (k / 16 = d)
  let gain (d e : Nat) : Nat :=
    let n := (onDie sure d).length + e
    let idle := (sortNat ((onDie tied d).map (t.cluster lo))).drop e
    16 * sumOver idle id + (if n = 0 then q.onDie d * t.die lo d else n * t.die hi d)
  let m := c - sure.length
  let dies := (List.range 6).map fun d => ((onDie tied d).length, gain d)
  16 * (sumOver sure cost + m * least + sumOver free (t.cluster lo)) + ((bestCharge m dies).getD m none).getD 0

/-- The offset at which TEAMFIT refuses a launch, if it does (R82, R318). -/
def State.teamFit (s : State) (q : Partition) (l : Launch) : Option Nat :=
  let mask := clustersOf (q.selected l.mask)
  if mask.isEmpty then some 0x44
  else if l.fit * 8 * mask.length < l.team then some 0x08
  else
    let c := (l.team + 8 * l.fit - 1) / (8 * l.fit)
    if 16 * s.shareOf q * 1000 < s.pw.table.charge q mask l.floors c then some 0x2E else none

/-! ## Acceptance (R72, R86, R87) -/

/-- A team that has not been admitted. -/
def Team.fresh (n : Nat) : Team :=
  { members := List.replicate n .waiting, queued := false, order := 0, since := 0, graph := false, placed := 0, sliceAt := 0
    preempt := none, stopping := false, aged := 0, grant := 0 }

/-- A new group's entry. -/
def Group.fresh (p : Part) (l : Launch) : Group :=
  { part := p, id := l.group, size := l.members, first := false, departed := [], told := [], toldStill := false, still := [], ended := [], broken := false
    badSite := none, badShape := none, folds := [], last := none }

/-- The package holds an entry for the node's group (R292), and completes its folds if the node has member 0 (R298). A new entry learns what
the package has heard of the group (R293). -/
def State.openGroup (s : State) (p : Part) (l : Launch) : State :=
  if l.group = 0 then s
  else
    let open' (s : State) : State := { s with groups := s.groups ++ [Group.fresh p l] }
    let first (s : State) : State := if l.firstMember = 0 then s.mapGroup p l.group fun g => { g with first := true }.settle else s
    if (s.group p l.group).isSome then first s else (first (open' s)).hearAbsent l.group l.members

/-- Accepts a LAUNCH packet: the node is created, with the credits of its id (R86, R87). -/
def State.accept (s : State) (q : Partition) (r : RingId) (idx : BitVec 32) (l : Launch) : State :=
  let have' := Table.get 0 q.credits l.node.toNat
  let n : Node :=
    { part := q.p, id := l.node, launch := l, seq := q.nextSeq, pending := l.dependence - have', extra := have' - l.dependence
      admitted := false, teams := List.replicate (l.count / l.team) (Team.fresh l.team), ring := r, index := idx }
  let s := s.mapPart q.p fun q => { q with nextSeq := q.nextSeq + 1, credits := Table.set 0 q.credits l.node.toNat 0 }
  let s := s.openGroup q.p l
  if n.pending = 0 then ({ s with nodes := s.nodes ++ [n.letIn s.serial s.nstime] }).ticks n.teams.length
  else { s with nodes := s.nodes ++ [n] }

/-- The partition of a function. -/
def State.fnPart (s : State) (fn : Fn) : Option Partition :=
  if h : fn.val = 0 then none else s.part ⟨fn.val - 1, by omega⟩

/-- A LAUNCH packet: BADPKT, then DUPNODE, then TEAMFIT, then acceptance (R80). On the management ring PRIV is checked after
header bits [7:1] and before the other limits (R81; log entry 49). -/
def State.launchPacket : PacketFn := fun s r idx k =>
  match s.fnPart r.fn with
  | none => if (headBad k).2 then s.refuse r idx k eBADPKT 0 else s.refuse r idx k ePRIV 0
  | some q =>
    let l := Launch.ofPacket k
    match firstBad (s.launchBad q.p k) with
    | some o => s.refuse r idx k eBADPKT o
    | none =>
      if (s.node q.p l.node).isSome then s.refuse r idx k eDUPNODE 0x0C
      else
        match s.teamFit q l with
        | some o => s.refuse r idx k eTEAMFIT o
        | none => s.accept q r idx l

/-- `LAUNCH` -/
def execEvLaunch (src : RingId) (pkt : Packet) (s : State) := s.onPacket State.launchPacket (fun k => typeOf k = 1) src pkt

/-! ## SIGNAL and NOP (R84) -/

/-- The completion action of a packet. -/
def State.packetDone (s : State) (r : RingId) (idx : BitVec 32) (k : Packet) : State :=
  s.completion r idx (BitVec.ofNat 64 (fld k 0x70 8)) (BitVec.ofNat 32 (fld k 0x78 4))

/-- A SIGNAL packet; PRIV comes after header bits [7:1] and before the other limits (R81; log entry 49). -/
def State.signalPacket : PacketFn := fun s r idx k =>
  match s.fnPart r.fn with
  | none => if (headBad k).2 then s.refuse r idx k eBADPKT 0 else s.refuse r idx k ePRIV 0
  | some q =>
    let bad := [headBad k] ++ mustZero k 2 2 ++ [(0x04, decide (fld k 4 4 = 0))] ++ mustZero k 0x08 4 ++ mustZero k 0x10 0x60 ++ tailBad k
    match firstBad bad with
    | some o => s.refuse r idx k eBADPKT o
    | none => (s.signal q.p (BitVec.ofNat 32 (fld k 0x0C 4)) (fld k 4 4)).packetDone r idx k

/-- `SIGNAL` -/
def execEvSignal (src : RingId) (pkt : Packet) (s : State) := s.onPacket State.signalPacket (fun k => typeOf k = 2) src pkt

/-- A NOP packet: the limits of the header hold for it as for any other (R80, R84; log entry 49). -/
def State.nopPacket : PacketFn := fun s r idx k =>
  let bad := [headBad k, (0x02, decide (23 < fld k 2 1)), (0x03, decide (16 ≤ fld k 3 1))] ++ mustZero k 4 0x6C ++ tailBad k
  match firstBad bad with
  | some o => s.refuse r idx k eBADPKT o
  | none => s.packetDone r idx k

/-- `NOP_PACKET` -/
def execNopPacket (src : RingId) (pkt : Packet) (s : State) := s.onPacket State.nopPacket (fun k => typeOf k = 4) src pkt

end Sys2Proof.Machine
end

