-- ==== Sys2Proof/Machine/Save.lean ====
section
/-!
DEFINITION. The save block of an instance: what a save writes and what a resume reads (04_tasks R83, 15_traps R339 to
R346, 09_memory R238).
-/

namespace Sys2Proof.Machine

/-! ## Bytes of the block (R341 to R343) -/

/-- The bytes of 64-bit words in order. -/
def wordBytes (l : List Word) : List Byte := (l.map fun w => leBytes 8 w.toNat).flatten

/-- Fields at rising offsets from `pos` on, with zeros between them. -/
def layOut : Nat → List (Nat × List Byte) → List Byte
  | _, [] => []
  | pos, (o, b) :: rest => List.replicate (o - pos) 0 ++ b ++ layOut (o + b.length) rest

/-- A list cut or filled with zeros to a length. -/
def padTo (n : Nat) (l : List Byte) : List Byte := (l ++ List.replicate (n - l.length) 0).take n

/-- Size of the state block (R341). -/
def stateBytes : Nat := 16384

/-- A slot's 32 bytes (R343). -/
def Slot.bytes (v : Slot) : List Byte := leBytes 30 (BitVec.ofInt 240 v.s).toNat ++ [v.flags.setWidth 8, 0]

/-- The slot that 32 bytes hold. Software may have given a narrow slot more than 128 bits: they stand until the next product wraps it (R60,
R341; log entry 54). -/
def Slot.ofBytes (b : List Byte) : Slot :=
  let f := b.getD 30 0
  { s := (BitVec.ofNat 240 (leValue (b.take 30))).toInt, nan := f.getLsbD 0, pinf := f.getLsbD 1, ninf := f.getLsbD 2
    clamp := f.getLsbD 3, bad := false }

/-- The store that a save reads: the main one, or the good one of a degraded core (R343). -/
def Core.good (c : Core) : Store := if c.mainFailed then c.shadow else c.main

/-- The image of a band. -/
def Store.image (st : Store) (b : Nat) : List Byte :=
  ((List.range 1024).map fun i => (st.slot (b * 1024 + i)).bytes).flatten

/-- Bands that the acting context owns, in ascending order. -/
def State.myBands (s : State) : List Nat := bandsOf (s.here.ownMask s.slotNo)

/-- A band's entry in the state block (R342). -/
def bandEntry (b : Nat) (k : BandSt) : Nat :=
  let kind := match k.kind with
    | .none => 0
    | .narrow => 1
    | .wide => 2
  b + kind * 2 ^ 8 + bitOf k.discard * 2 ^ 10 + (BitVec.ofInt 10 k.anchor).toNat * 2 ^ 16

/-- The state of a band's entry. -/
def bandOfEntry (e : Nat) : BandSt :=
  { kind := match e / 2 ^ 8 % 4 with
      | 1 => .narrow
      | 2 => .wide
      | _ => .none
    anchor := (BitVec.ofNat 10 (e / 2 ^ 16)).toInt, discard := e.testBit 10 }

/-- A stream's entry (R342): `done` and `issued` are a copy stream's counts. -/
def StreamSt.entry (x : StreamSt) (done issued : BitVec 32) : List Byte :=
  let f := x.fault.elim 0 fun f => 2 + f.1.toNat * 4
  let h := x.held.elim 0 fun h => bitOf h.1 + 2 * bitOf h.2.1
  leBytes 8 x.pc.toNat ++
  leBytes 8 (bitOf x.busy + f + bitOf x.paused * 2 ^ 10 + h * 2 ^ 11 + bitOf x.ref.isSome * 2 ^ 15) ++
  leBytes 8 (x.fault.elim 0 fun f => f.2.1.toNat) ++ leBytes 8 (done.toNat * 2 ^ 32 + issued.toNat)

/-- The stream that an entry describes. -/
def StreamSt.ofEntry (pc : Word) (w : Nat) (val : Word) (ref : Word) : StreamSt :=
  { pc := pc, busy := w.testBit 0, fault := if w.testBit 1 then some (BitVec.ofNat 8 (w / 4), val, pc) else none
    paused := w.testBit 10
    held := if w.testBit 11 ∨ w.testBit 12 then some (w.testBit 11, w.testBit 12, .clean) else none
    ref := if w.testBit 15 then some ref else none, late := none, pushes := [], count := 0 }

/-- The bands granted by one context of the acting core to another. -/
def Core.granted (c : Core) (owner dest : Nat) : Nat :=
  (maskOf fun b => c.grants.any fun g => decide (g = (b, owner, dest))).toNat

/-- The other tasks resident on the acting core. -/
def State.neighbours (s : State) : List Ctx :=
  s.resident.filter fun c => decide (c.key.core = s.ctx.key.core) && decide (c.key ≠ s.ctx.key)

/-- Three grant records: the other instance and its bands, of bands granted to or by the acting context, and of grants that wait for
an instance that is swapped out (R342). -/
def State.grantRecords (s : State) (made : Bool) : List (Nat × Nat) :=
  let me := s.slotNo
  let live := s.neighbours.filterMap fun c =>
    let m := if made then s.here.granted me c.key.slot.val else s.here.granted c.key.slot.val me
    if m = 0 then none else some (c.ident.inst.toNat, m)
  (live ++ (s.ctx.owed.filter fun o => o.made == made).map fun o => (o.inst, o.bands)).take 3

/-- The neighbours keep the grants that they share with the acting context, which is swapped out (R168, R187). -/
def State.leaveGrants (s : State) : State :=
  let me := s.slotNo
  let inst := s.ctx.ident.inst.toNat
  s.neighbours.foldl (fun s c =>
    let rec' (made : Bool) (m : Nat) : List Owed := if m = 0 then [] else [⟨inst, m, made⟩]
    let l := rec' true (s.here.granted c.key.slot.val me) ++ rec' false (s.here.granted me c.key.slot.val)
    if l.isEmpty then s else s.mapKey c.key fun c => { c with owed := c.owed ++ l }) s

/-- The bytes of three records. -/
def recordBytes (l : List (Nat × Nat)) : List Byte := padTo 24 ((l.map fun e => leBytes 4 e.1 ++ leBytes 4 e.2).flatten)

/-- A handle's 32 bytes: base, extent with rights and policy, and the reference to its runs (R342). -/
def handleBytes (h : Option Mapping) : List Byte :=
  match h with
  | none => List.replicate 32 0
  | some m =>
    leBytes 8 m.base.toNat ++ leBytes 8 (m.extent + rightsCode m.rights * 2 ^ 61 + bitOf m.zero * 2 ^ 63) ++ leBytes 8 (m.serial + 1) ++
      List.replicate 8 0

/-- A copy stream's registers (R342). -/
def CopySt.bytes (c : CopySt) : List Byte :=
  wordBytes c.o.toList ++ wordBytes (c.sh.toList.map fun p => [p.1, p.2]).flatten

/-- The state block of the acting context (R342). -/
def State.stateImage (s : State) : List Byte :=
  let c := s.ctx
  let q (i : Fin 4) : Queue := c.queues[i]
  let ptr (q : Queue) : List Byte := leBytes 1 q.head ++ leBytes 1 ((q.head + q.count) % q.cap) ++ leBytes 1 q.count
  let ent (t : Stream) (d i : BitVec 32) : List Byte := (s.str t).entry d i
  let bands := s.myBands
  let chain := c.mx.chain.elim 0 fun k => k.band + k.nb * 2 ^ 5 + (k.cols - 1) * 2 ^ 8 + 2 ^ 15
  let ref (t : Stream) : List Byte := leBytes 8 ((s.str t).ref.elim 0 BitVec.toNat)
  padTo stateBytes (layOut 0
    [(0x0000, wordBytes (c.c.x.toList.set 0 0)),
     (0x0200, (c.p.toList.map fun v => leBytes 128 v.toNat).flatten),
     (0x0A00, wordBytes c.vx.v.toList),
     (0x0B00, wordBytes c.vx.vs.toList),
     (0x0B40, c.vx.flags.toList.map fun f => f.setWidth 8),
     (0x0BC0, padTo 128 (wordBytes c.c.stack)),
     (0x0C40, wordBytes
       [c.c.stackbase, zext64 c.sys.evt, zext64 c.sys.evtmask, BitVec.ofNat 64 c.vx.vl, c.c.trapcause, c.c.trappc, c.c.trapval,
        c.c.trapvec, c.c.trapstream, BitVec.ofNat 64 (c.sys.integCount.toNat * 2 ^ 8 + c.sys.lastVerdict.toNat * 2 ^ 4),
        halves c.sys.drains.toNat c.sys.verdicts.toNat, c.sys.barbase, c.sys.slbase, c.sys.ratiogrant, zext64 c.mx.mxflags,
        BitVec.ofNat 64 (c.c.stack.length + bitOf c.c.yielding * 2 ^ 5)]),
     (0x0CC0, wordBytes c.sys.swz.toList),
     (0x0D00, ent .c 0 0 ++ ent .ld c.ld.doneseq c.ld.issued ++ ent .mx 0 0 ++ ent .vx 0 0 ++ ent .st c.st.doneseq c.st.issued),
     (0x0DA0, c.tok.toList.map fun l => BitVec.ofNat 8 l.length),
     (0x0DC0, wordBytes (q 0).slots),
     (0x0EC0, ptr (q 0) ++ ptr (q 1) ++ ptr (q 2) ++ ptr (q 3)),
     (0x0ED0, wordBytes ((q 1).slots ++ (q 2).slots ++ (q 3).slots)),
     (0x1050, c.ld.bytes ++ c.st.bytes),
     (0x1250, ((List.range 32).map fun i =>
       leBytes 4 (match bands[i]? with
         | some b => bandEntry b (s.here.good.band b)
         | none => 0xFF)).flatten),
     (0x12D0, recordBytes (s.grantRecords true) ++ recordBytes (s.grantRecords false)),
     (0x1300, leBytes 8 chain),
     (0x1308, leBytes 4 c.c.foldSeq.toNat ++ leBytes 4 c.coll.step.toNat ++ leBytes 8 (bitOf c.c.left)),
     (0x1318, (c.pend.map fun p => wordBytes [p.cause, p.val, p.stream, 0]).flatten),
     (0x1418, (c.handles.toList.map handleBytes).flatten),
     (0x1B98, (c.releases.map fun r => leBytes 8 r.h ++ leBytes 8 (r.m.serial + 1)).flatten),
     (0x1FB8, ref .ld ++ ref .st)])

/-- Pages of the SP window that a save writes: those in no discardable region (R341). -/
def Launch.keptPages (l : Launch) : List Nat :=
  ((List.range (l.spBytes / 4096)).map (· * 4096)).filter fun o => !l.discards.any fun d => decide (d.1 ≤ o) && decide (o < d.1 + d.2)

/-- What a save writes: virtual addresses with their bytes (R341). -/
def State.saveImage (s : State) : List (Nat × List Byte) :=
  let l := s.ctx.launch
  let a := l.block s.ctx.ident.inst.toNat
  let core := s.coreNo
  let bands := s.myBands.filter fun b => !(s.here.good.band b).discard
  [(a, s.rsGet 0 l.rsBytes)] ++
  (l.keptPages.map fun o => (a + l.rsBytes + o, s.mem.getBytes (spPa core (s.ctx.win.spBase + o)) 4096)) ++
  (bands.mapIdx fun i b => (a + l.rsBytes + l.spBytes + 32768 * i, s.here.good.image b)) ++
  [(l.stateBlock s.ctx.ident.inst.toNat, s.stateImage)]

/-- Sources of the writes of a save that are copies of the windows, in their order: where each begins, and its bytes (R341). -/
def State.saveSources (s : State) : List (Nat × Nat) :=
  (s.rsAddr 0, s.ctx.launch.rsBytes) :: s.ctx.launch.keptPages.map fun o => (spPa s.coreNo (s.ctx.win.spBase + o), 4096)

/-- The physical address of byte `o` of pieces. -/
def placeIn : List PartPiece → Nat → Option Nat
  | [], _ => none
  | (pa, n, _) :: rest, o => if o < n then some (pa + o) else placeIn rest (o - n)

/-- Poisoned sectors of a source stay poisoned where its bytes have been written (R211). -/
def State.carryPoison (s : State) (src : Nat × Nat) (dst : List PartPiece) : State :=
  ((sectorsOf src.1 src.2).filter s.ms.poisoned.contains).foldl (fun s k =>
    ((placeIn dst (k * 128 - src.1)).toList ++ (placeIn dst (k * 128 + 127 - src.1)).toList).foldl (fun s pa => s.poison (sectorOf pa)) s) s

/-- The physical pieces of a list of writes, or the first failure. -/
def State.writables (s : State) (p : Part) : List (Nat × List Byte) → Except PartFault (List (List PartPiece × List Byte))
  | [] => .ok []
  | (a, b) :: rest =>
    match s.partWritable p (piecesOf a b.length) with
    | (.error f, _) => .error f
    | (.ok l, s) =>
      match State.writables s p rest with
      | .ok r => .ok ((l, b) :: r)
      | .error f => .error f

/-! ## What stays beside the block (R238, R260) -/

/-- The bound doorbells of the acting context, as they are kept. -/
def State.bellsOf (s : State) : List Bell :=
  let base := spPa s.coreNo s.ctx.win.spBase
  (s.ms.doorbells.filter fun d => decide (d.2.2.2 = s.ctx.key)).map fun d =>
    let r := s.mem.slotRing d.2.2.1
    { db := d.2.1, desc := d.2.2.1 - base, arrayPa := (s.slotArray r).getD base, arrayLen := r.size * r.count, lost := 0, posts := [] }

/-- What a swapped-out member keeps. -/
def State.keep (s : State) : Keep :=
  { handles := s.ctx.handles, releases := s.ctx.releases, order := s.ctx.order, coll := s.ctx.coll
    pushes := s.ctx.streams.map (·.pushes), bells := s.bellsOf, bands := s.myBands
    partners := (s.grantRecords true ++ s.grantRecords false).map (·.1)
    signature := s.ctx.mx.signature, spAt := spPa s.coreNo s.ctx.win.spBase, savedAt := s.nstime }

/-! ## Reading it back (R344, R345) -/

/-- A value of `n` bytes of a block. -/
def blk (b : List Byte) (o n : Nat) : Nat := leValue ((b.drop o).take n)

/-- A word of a block. -/
def blkWord (b : List Byte) (o : Nat) : Word := BitVec.ofNat 64 (blk b o 8)

/-- A queue of `n` entries read back, its entries at `o` and its pointers at `p`. -/
def blkQueue (b : List Byte) (n o p : Nat) : Queue :=
  let count := min (blk b (p + 2) 1) n
  { slots := (List.range n).map fun i => blkWord b (o + 8 * i), head := blk b p 1 % n, count := count
    deps := List.replicate count .clean }

/-- A copy stream's registers read back: registers at `o`, counts at `e`. -/
def blkCopy (b : List Byte) (o e : Nat) : CopySt :=
  { o := Vector.ofFn fun i : Fin 16 => blkWord b (o + 8 * i.val)
    sh := Vector.ofFn fun i : Fin 8 => (blkWord b (o + 128 + 16 * i.val), blkWord b (o + 136 + 16 * i.val))
    issued := BitVec.ofNat 32 (blk b e 4), doneseq := BitVec.ofNat 32 (blk b (e + 4) 4), flight := [], early := [], indexDue := none }

/-- A stream read back. -/
def blkStream (b : List Byte) (i : Nat) : StreamSt :=
  let o := 0x0D00 + 32 * i
  .ofEntry (blkWord b o) (blk b (o + 8) 8) (blkWord b (o + 16)) (blkWord b (if i = 4 then 0x1FC0 else 0x1FB8))

/-- The bits of TRAPCAUSE and of TRAPSTREAM that are not reserved (R330, R331). -/
def causeMask : Word := 0xFF81FF
/-- TRAPSTREAM's. -/
def streamMask : Word := ~~~0xF0

/-- The control registers read back, each with the bits that its register has (R3); their residues are formed anew. -/
def blkC (b : List Byte) : CRegs :=
  let w := blk b 0x0CB8 8
  { x := Vector.ofFn fun i : Fin 64 => if i = 0 then 0 else blkWord b (8 * i.val)
    badX := 0, vwait := none
    stack := (List.range (min (w % 32) 16)).map fun i => blkWord b (0x0BC0 + 8 * i)
    stackbase := blkWord b 0x0C40 &&& 0xFFFFFFFFFFFFFFC0
    trapcause := blkWord b 0x0C60 &&& causeMask, trappc := blkWord b 0x0C68, trapval := blkWord b 0x0C70
    trapvec := blkWord b 0x0C78 &&& 0x00FFFFFFFFFFFFFC, trapstream := blkWord b 0x0C80 &&& streamMask, yielding := w.testBit 5, sleeping := false
    foldSeq := BitVec.ofNat 16 (blk b 0x1308 4), left := (blk b 0x1310 8).testBit 0 }

/-- The other special registers read back; the package's number is set anew. -/
def blkSys (b : List Byte) (pkgid : BitVec 16) : SysRegs :=
  { pkgid := pkgid, evt := BitVec.ofNat 6 (blk b 0x0C48 8), evtmask := BitVec.ofNat 6 (blk b 0x0C50 8)
    integCount := BitVec.ofNat 24 (blk b 0x0C88 8 / 2 ^ 8), lastVerdict := BitVec.ofNat 4 (blk b 0x0C88 8 / 2 ^ 4)
    drains := BitVec.ofNat 32 (blk b 0x0C94 4), verdicts := BitVec.ofNat 32 (blk b 0x0C90 4)
    swz := Vector.ofFn fun i : Fin 8 => blkWord b (0x0CC0 + 8 * i.val) &&& 0x7FFFFFFFF
    barbase := blkWord b 0x0C98 &&& 0xFFFFFFFFFFFFFFE0, slbase := blkWord b 0x0CA0 &&& 0xFFFFFFFFFFFFFFC0
    ratiogrant := blkWord b 0x0CA8 }

/-- The vector registers read back. -/
def blkVx (b : List Byte) : VRegs :=
  { v := Vector.ofFn fun i : Fin 32 => blkWord b (0x0A00 + 8 * i.val)
    vs := Vector.ofFn fun i : Fin 8 => blkWord b (0x0B00 + 8 * i.val)
    vl := min (blk b 0x0C58 8) 1024, flags := Vector.ofFn fun i : Fin 128 => BitVec.ofNat 5 (blk b (0x0B40 + i.val) 1) }

/-- The matrix registers read back. -/
def blkMx (b : List Byte) (signature : Word) (serial : Nat) : MRegs :=
  let w := blk b 0x1300 8
  { MRegs.init with
      mxflags := BitVec.ofNat 6 (blk b 0x0CB0 8), signature := signature, chainAt := serial
      chain := if w.testBit 15 then some { band := w % 32, nb := w / 2 ^ 5 % 8, cols := w / 2 ^ 8 % 64 + 1 } else none }

/-- The pending list read back. -/
def blkPend (b : List Byte) : List Pend :=
  ((List.range 8).map fun i =>
    ({ cause := blkWord b (0x1318 + 32 * i) &&& causeMask, val := blkWord b (0x1320 + 32 * i)
       stream := blkWord b (0x1328 + 32 * i) &&& streamMask } : Pend)).filter
    fun p => decide (p.cause ≠ 0)

/-- The mapping whose runs a reference of a block names, among those that the member kept. -/
def Keep.mapping (k : Keep) (ref : Nat) : Option Mapping :=
  ((k.handles.toList.filterMap id) ++ k.releases.map (·.m)).find? fun m => decide (m.serial + 1 = ref)

/-- A handle's entry read back: base, extent, rights and policy as the block has them, with the runs that it refers to; an entry
with no such runs is unmapped (R341, R344; log entry 22). -/
def blkHandle (b : List Byte) (k : Keep) (h : Nat) : Option Mapping :=
  let o := 0x1418 + 32 * h
  let w := blk b (o + 8) 8
  (k.mapping (blk b (o + 16) 8)).map fun m =>
    { m with base := blkWord b o, extent := w % 2 ^ 61, rights := rightsOf (w / 2 ^ 61 % 4), zero := w.testBit 63 }

/-- The pending releases of a block. -/
def blkReleases (b : List Byte) (k : Keep) : List Release :=
  (List.range 64).filterMap fun i =>
    let o := 0x1B98 + 16 * i
    (k.mapping (blk b (o + 8) 8)).map fun m => ⟨blk b o 8 % 64, m⟩

/-- Timers that have stood still for so long (R305, R314). -/
def CollSt.later (c : CollSt) (e : Nat) : CollSt :=
  { c with fold := c.fold.map (fun f => { f with since := f.since + e }), exchanges := c.exchanges.map fun x => { x with since := x.since + e } }

/-- A context with the registers of a block, in new windows (R344). -/
def Ctx.reload (c : Ctx) (b : List Byte) (k : Keep) (pkgid : BitVec 16) (serial now : Nat) : Ctx :=
  { c with
    c := blkC b, sys := blkSys b pkgid, vx := blkVx b, mx := blkMx b k.signature serial
    p := Vector.ofFn fun i : Fin 16 => BitVec.ofNat 1024 (blk b (0x0200 + 128 * i.val) 128)
    ld := blkCopy b 0x1050 0x0D38, st := blkCopy b 0x1150 0x0D98
    streams := Vector.ofFn fun i : Fin 5 => { blkStream b i.val with pushes := k.pushes[i] }
    tok := Vector.ofFn fun i : Fin 10 => List.replicate (min (blk b (0x0DA0 + i.val) 1) 15) .clean
    queues := #v[blkQueue b 32 0x0DC0 0x0EC0, blkQueue b 16 0x0ED0 0x0EC3, blkQueue b 16 0x0F50 0x0EC6, blkQueue b 16 0x0FD0 0x0EC9]
    handles := Vector.ofFn fun i : Fin 60 => blkHandle b k i.val, releases := blkReleases b k, order := k.order, pend := blkPend b
    coll := { (k.coll.later (now - k.savedAt)) with step := BitVec.ofNat 16 (blk b 0x130C 4), predict := [] } }

/-- Entries of the bands of a block: at most the quota, each band once, and only bands that are free on the core. -/
def State.blkBands (s : State) (core : Nat) (quota : Nat) (b : List Byte) : List (Nat × BandSt) :=
  ((List.range 32).foldl (fun (l : List (Nat × BandSt)) i =>
    let e := blk b (0x1250 + 4 * i) 4
    let n := e % 256
    if n < 32 ∧ l.length < quota ∧ ¬ l.any (fun q => q.1 = n) ∧ ((s.core core).ownerOf n).isNone then l ++ [(n, bandOfEntry e)] else l) [])

/-- Reads pieces in order: the first failure ends it. -/
def State.readList (s : State) (p : Part) : List (Nat × Nat) → Except PartFault (List (List Byte)) × State
  | [] => (.ok [], s)
  | (a, n) :: rest =>
    match s.partRead p (piecesOf a n) with
    | (.error f, s) => (.error f, s)
    | (.ok b, s) =>
      match State.readList s p rest with
      | (.ok l, s) => (.ok (b :: l), s)
      | (.error f, s) => (.error f, s)

/-- A member's block as a resume reads it. -/
structure Block where
  state : List Byte
  rs : List Byte
  pages : List (Nat × List Byte)
  bands : List (Nat × BandSt)
  images : List (List Byte)

/-- Reads the block of an instance for core `core` (R344). -/
def State.readBlock (s : State) (n : Node) (inst core : Nat) : Except PartFault Block × State :=
  let l := n.launch
  let a := l.block inst
  match s.partRead n.part (piecesOf (l.stateBlock inst) stateBytes) with
  | (.error f, s) => (.error f, s)
  | (.ok b, s) =>
    let bands := s.blkBands core l.amBanks b
    let held := bands.filter fun e => !e.2.discard
    match s.readList n.part ([(a, l.rsBytes)] ++ (l.keptPages.map fun o => (a + l.rsBytes + o, 4096)) ++
        (List.range held.length).map fun i => (a + l.rsBytes + l.spBytes + 32768 * i, 32768)) with
    | (.error f, s) => (.error f, s)
    | (.ok r, s) =>
      (.ok { state := b, rs := r.headD [], pages := l.keptPages.zip (r.drop 1), bands := bands
             images := r.drop (1 + l.keptPages.length) }, s)

/-- Memory with a range of addresses as nothing has written them. -/
def Memory.clear (m : Memory) (a n : Nat) : Memory := m.filter fun e => !(decide (a ≤ e.1) && decide (e.1 < a + n))

/-- The windows of a context read as zero, with nothing left of the errors of an earlier task (R126, R210, R211, R217). -/
def State.clearWindows (s : State) (core : Nat) (w : Windows) : State :=
  let s := (s.unpoison (rsPa core w.rsBase) w.rsSize).unpoison (spPa core w.spBase) w.spSize
  { s with mem := (s.mem.clear (rsPa core w.rsBase) w.rsSize).clear (spPa core w.spBase) w.spSize }

/-- A band's slots from its image, in both stores, with tags (R344). -/
def Core.loadBand (c : Core) (b : Nat) (k : BandSt) (image : Option (List Byte)) : Core :=
  let c := c.zeroBands [b]
  match image with
  | none => c
  | some im =>
    let slots := (List.range 1024).foldl (fun t i => Table.set Slot.zero t (b * 1024 + i) (.ofBytes ((im.drop (32 * i)).take 32))) []
    let st : Store := { slots := slots, bands := Table.set BandSt.zero [] b k }
    ({ c with main := c.main.copyBand st b, shadow := c.shadow.copyBand st b }).tagBand b

/-- The bands of a block on a core, each that is free with its image, unless it was marked DISCARD (R345). -/
def Core.loadBands (c : Core) (slot : Nat) : List (Nat × BandSt) → List (List Byte) → Core
  | [], _ => c
  | (b, k) :: rest, ims =>
    let free := (c.ownerOf b).isNone
    let own : Core := { c with owner := (b, slot) :: c.owner }
    if k.discard then Core.loadBands (if free then own.loadBand b k none else c) slot rest ims
    else Core.loadBands (if free then own.loadBand b k (some (ims.headD [])) else c) slot rest (ims.drop 1)

/-- The grant records of a block. -/
def blkOwed (b : List Byte) : List Owed :=
  let rec' (o : Nat) (made : Bool) : Owed := ⟨blk b o 4, blk b (o + 4) 4, made⟩
  (((List.range 3).map fun i => rec' (0x12D0 + 8 * i) true) ++ ((List.range 3).map fun i => rec' (0x12E8 + 8 * i) false)).filter
    fun o => decide (o.bands ≠ 0)

/-- Makes the grants that a resident context is owed with the instances of its node that share the core; the others stay owed
(R168, R187). -/
def State.payOwed (s : State) (k : CtxKey) : State :=
  match s.find k with
  | none => s
  | some me =>
    let mate (o : Owed) : Option Ctx := s.resident.find? fun c => decide (c.key.core = k.core) && decide (c.key ≠ k) &&
      me.sameNode c && decide (c.ident.inst.toNat = o.inst)
    let c0 := s.core k.core.val
    let l := me.owed.flatMap fun o =>
      match mate o with
      | none => []
      | some c =>
        let (owner, dest) := if o.made then (k.slot.val, c.key.slot.val) else (c.key.slot.val, k.slot.val)
        ((bandsOf (BitVec.ofNat 32 o.bands)).filter fun n => decide (c0.ownerOf n = some owner)).map fun n => (n, owner, dest)
    let s := s.mapKey k fun c => { c with owed := c.owed.filter fun o => (mate o).isNone }
    s.mapCore k.core.val fun c => { c with grants := c.grants ++ l.eraseDups.filter fun g => !c.grants.contains g }

/-- The acting context's grants come back, with those that its core's tasks are owed (R342, R344). -/
def State.regrant (s : State) (b : List Byte) : State :=
  let s := s.mapCtx fun c => { c with owed := blkOwed b }
  ((s.resident.filter fun c => decide (c.key.core = s.ctx.key.core)).map (·.key)).foldl State.payOwed s

/-- The window images of a block in the acting context's new windows; discardable bytes are fill bytes (R345). -/
def State.reloadWindows (s : State) (k : Block) : State :=
  let l := s.ctx.launch
  let sp := spPa s.coreNo s.ctx.win.spBase
  let s := (s.unpoison (s.rsAddr 0) s.ctx.win.rsSize).unpoison sp s.ctx.win.spSize
  let m := s.mem.setBytes (s.rsAddr 0) k.rs
  let gone := ((List.range (l.spBytes / 4096)).map (· * 4096)).filter fun o => !l.keptPages.contains o
  let m := gone.foldl (fun (m : Memory) o => m.setBytes (sp + o) (List.replicate 4096 l.fill)) m
  { s with mem := k.pages.foldl (fun (m : Memory) e => m.setBytes (sp + e.1) e.2) m }

/-- The doorbells of a resumed owner are bound again, with what peers lost and posted meanwhile (R260). The answer of a
post is given by `post`. -/
def State.rebindBells (s : State) (post : State → Nat → Nat → State) (lost : State → Nat → State) (l : List Bell) : State :=
  l.foldl (fun s b =>
    let pa := spPa s.coreNo (s.ctx.win.spBase + b.desc)
    let s := s.mapMs fun m => { m with doorbells := (s.ctx.ident.part, b.db, pa, s.ctx.key) :: m.doorbells }
    let s := (List.range b.lost).foldl (fun s _ => lost s pa) s
    b.posts.foldl (fun s n => post s pa n) s) s

end Sys2Proof.Machine
end

