-- ==== Sys2Proof/Machine/Sched.lean ====
section
/-!
DEFINITION. Saving teams, the order of the queues, binding members to contexts, placement and resume, pre-emption, time
slices, aging, the lease of the leader, and the completion of nodes (04_tasks R71 to R76, R89 to R95, 08_verification
R207, 10_copy R260, 15_traps R340 to R347).
-/

namespace Sys2Proof.Machine

/-! ## Doorbells of bound rings (R260) -/

/-- The number of a ring among its owner's eight, by the address of its descriptor. -/
def ringNo (c : Ctx) (pa : Nat) : Nat :=
  let n := (ownWindow c pa - c.sys.slbase).toNat / 64
  if n < 8 then n else 0

/-- The owner of the bound ring at `pa`. -/
def State.bellOwner (s : State) (pa : Nat) : Option Ctx :=
  (s.ms.doorbells.find? fun d => decide (d.2.2.1 = pa)).bind fun d => s.find d.2.2.2

/-- Adds to a ring's OVERRUN, which saturates, with SLOTOVR reason 3 in its owner. -/
def State.overrun (s : State) (pa n : Nat) : State :=
  let s := s.setCount pa 0x20 (min ((s.mem.slotRing pa).overrun + n) (2 ^ 32 - 1))
  match s.bellOwner pa with
  | some c => s.mapKey c.key fun k => k.asyncTrap cSLOTOVR (slotVal (ringNo c pa) 3)
  | none => s

/-- Posts `n` slots of the bound ring at `pa`. -/
def State.postBell (s : State) (pa n : Nat) : State :=
  let r := s.mem.slotRing pa
  let f := r.count - diff32 r.post r.rel
  let k := min n f
  let s := if k = 0 then s else (s.setCount pa 0x14 (r.post + k)).setCount pa 0x10 (r.post + k)
  let s := if f < n then s.overrun pa (n - f) else s
  match s.bellOwner pa with
  | some c => if k = 0 then s else s.mapKey c.key (·.event evSlot)
  | none => s

/-! ## Saving a team (R207, R339 to R347) -/

/-- The implicit point of a save, on the bands of the span and of an open chain (R207, R346). Where its arbitration failed, or a
slot cannot be read, the save goes on with the main store's values. -/
def State.savePoint (s : State) : State :=
  let chain : BitVec 32 := s.ctx.mx.chain.elim 0 fun k => bandMask k.band k.nb
  let t := s.mapMx fun m => { m with spanBands := m.spanBands ||| chain }
  if s.ctx.mx.pointFailed then s.mapMx fun m => { m.endSpan with pointFailed := true }
  else if t.ctx.mx.spanBands = 0 then s
  else if (t.here.lost (bandsOf t.ctx.mx.spanBands)).isSome then t.implicitPoint.mapMx fun m => { m with pointFailed := true }
  else t.implicitPoint

/-- The acting context on its way to a save: verdicts are awaited, speculation goes back to its `CBR`, held faults are
delivered, the point is taken, and markers go out for everything that has not performed (R340). -/
def State.quiesce (s : State) : State :=
  if s.ctx.verdictPending then s
  else if s.ctx.ending.isSome then s.finishEnding
  else
    let s := Stream.all.foldl State.deliverLate (s.backToCbr.sweepCopies s.ctx.key s.ctx.flies)
    let s := (s.mapCtx Ctx.settle).savePoint
    if s.ctx.mx.dispute.isSome ∨ s.allPerformed then s else s.sendMarkers (BitVec.allOnes 16) true none

/-- The acting context may be saved: nothing of it is in flight (R274, R340). -/
def State.quiet (s : State) : Bool :=
  s.ctx.mx.drain.isNone && s.ctx.mx.dispute.isNone && s.ctx.ending.isNone && s.ctx.ver.isNone && s.ctx.spec.isNone && s.allPerformed &&
  s.ctx.streams.toList.all fun x => x.late.isNone && x.pushes.all fun p => decide (p.need = .now)

/-- Keys of a team's resident members. -/
def Team.keys (t : Team) : List CtxKey :=
  t.members.filterMap fun m =>
    match m with
    | .resident k => some k
    | _ => none

/-- The acting context's block cannot be written: the first failure (R347). -/
def State.saveFault (s : State) : Option PartFault :=
  match s.writables s.ctx.ident.part s.saveImage with
  | .error f => some f
  | .ok _ => none

/-- The acting member ends because a block of its team could not be written: its trap record, where its own block can be written, the
log, and the end of its task (R334, R347). -/
def State.endBySave (s : State) (f : PartFault) : State :=
  let a := BitVec.ofNat 64 f.2
  let r : TrapRec := { cause := causeWord f.1 0 true, pc := s.cpc, val := a, stream := streamWord 0 5 }
  let s := match s.saveFault, s.writeRecord r with
    | none, .ok s => s
    | _, _ => s
  ((s.logHere .saveFault [s.ctx.launch.node.toNat, s.ctx.ident.inst.toNat, f.1.toNat, f.2]).msi (fnOf s.ctx.ident.part) 0).endTask

/-- An exchange's barrier as it is kept while its member is saved: relative to the SP window, when it lies there. -/
def Exchange.rebase (x : Exchange) (from' dest size : Nat) : Exchange :=
  if from' ≤ x.barAddr ∧ x.barAddr < from' + size then { x with barAddr := dest + (x.barAddr - from') } else x

/-- Writes the acting context's block and frees its context (R340, R341). -/
def State.storeMember (s : State) : State :=
  match s.writables s.ctx.ident.part s.saveImage with
  | .error _ => s
  | .ok l =>
    let c := s.ctx
    let keep := s.keep
    let sources := s.saveSources
    let s := l.foldl (fun s e => s.scatter e.1 e.2) s
    let s := ((sources.zip l).foldl (fun s e => s.carryPoison e.1 e.2.1) s).leaveGrants
    let s := s.mapCore s.coreNo fun k => k.freeCtx c.key.slot.val
    let s := s.dropWaits c.key
    let s := s.mapMember c.ident.part c.launch.node c.ident.inst.toNat fun _ => .saved keep
    let s := s.trigger c.ident.part
    { s with ctx := .idle c.key }

/-- A place lies in the acting context's SP window. -/
def State.inMyWindow (s : State) (pa : Nat) : Bool :=
  decide (spPa s.coreNo s.ctx.win.spBase ≤ pa) && decide (pa < spPa s.coreNo (s.ctx.win.spBase + s.ctx.win.spSize))

/-- A copy command or an exchange of another context has been checked against the acting context's SP window and has not performed: its
bytes, its barrier or its ring lie there (R261). -/
def State.copiesInto (s : State) (k : CtxKey) : Bool :=
  match s.focus k with
  | none => false
  | some t =>
    (t.ctx.ld.flight ++ t.ctx.st.flight).any (fun q => !q.done &&
      (s.inMyWindow q.barAddr || s.inMyWindow q.ringAddr || (t.srcPlaces q ++ t.dstPlaces q).any fun p => s.inMyWindow p.pa)) ||
    t.ctx.coll.exchanges.any fun x => x.moving && (s.inMyWindow x.barAddr || (t.xSrc x ++ t.xDst x).any fun p => s.inMyWindow p.pa)

/-- Accesses of other contexts that have been checked against the acting context's SP window have not performed: a save of the window
waits for them (R155, R261). -/
def State.windowBusy (s : State) : Bool :=
  s.resident.any fun c => decide (c.key ≠ s.ctx.key) &&
    (c.cb.any (fun e => s.inMyWindow (e.block * 128)) || s.copiesInto c.key)

/-- A member's context needs nothing more before the save, or has ended. -/
def State.readyToSave (s : State) (k : CtxKey) : Bool :=
  match s.focus k with
  | some t => t.quiet && !t.windowBusy
  | none => true

/-- The team's blocks are written together, and the team enters the tail of its level's queue (R73, R89). A block that
cannot be written ends the team (R347). -/
def State.commitSave (s : State) (p : Part) (id : BitVec 32) (i : Nat) (keys : List CtxKey) : State :=
  let fault := keys.findSome? fun k => (s.focus k).bind State.saveFault
  let s : State := match fault with
    | some f => keys.foldl (fun (s : State) k => s.on k fun t => t.endBySave f) s
    | none => keys.foldl (fun (s : State) k => s.on k State.storeMember) s
  (s.mapTeam p id i fun t =>
    let t := { t with preempt := none, stopping := false }
    if t.members.all (fun m => decide (m = MemberSt.ended)) then t else t.enqueue s.serial s.nstime).tick

/-- The team was to stop at least 20 µs ago (R91, R92). -/
def State.saveDue (s : State) (t : Team) : Bool := t.preempt.any fun d => decide (d + 20000 ≤ s.nstime)

/-- One step towards the save of a team: its streams stop, and once every member is quiet the blocks are written. -/
def State.saveTeam (s : State) (p : Part) (id : BitVec 32) (i : Nat) : State :=
  match s.team p id i with
  | none => s
  | some t =>
    if !s.saveDue t then s
    else
      let s := s.mapTeam p id i fun t => { t with stopping := true }
      let s := t.keys.foldl (fun s k => s.on k State.quiesce) s
      if t.keys.all s.readyToSave then s.commitSave p id i t.keys else s

/-- `SAVE` (R340) -/
def execEvSave (p : Part) (node : BitVec 32) (team : Nat) (s : State) := s.event true fun t => t.saveTeam p node team

/-! ## Binding members (R126, R164, R204, R217, R82) -/

/-- The lowest multiple at which a window of `size` bytes fits among the windows in use; windows end at multiples of
the unit. -/
def gapIn (limit size : Nat) (used : List (Nat × Nat)) : Option Nat :=
  let ok (a : Nat) : Bool :=
    decide (a + size ≤ limit) && used.all fun u => decide (u.2 = 0) || decide (a + size ≤ u.1) || decide (u.1 + u.2 ≤ a)
  ((0 :: used.map fun u => u.1 + u.2).filter ok).foldl (fun b a => some (min a (b.getD a))) none

/-- Tasks resident on a core. -/
def State.onCore (s : State) (core : Nat) : List Ctx := s.resident.filter fun c => decide (c.key.core.val = core)

/-- The windows that a task would get on a core. -/
def State.windowsFor (s : State) (l : Launch) (core : Nat) : Option Windows :=
  let cs := s.onCore core
  match gapIn 262144 l.rsBytes (cs.map fun c => (c.win.rsBase, c.win.rsSize)),
      gapIn (2 ^ 20) (l.spBytes + l.journal) (cs.map fun c => (c.win.spBase, c.win.spSize + c.win.jSize)) with
  | some r, some p =>
    some { rsBase := if l.rsBytes = 0 then 0 else r, rsSize := l.rsBytes, spBase := p, spSize := l.spBytes, jBase := p + l.spBytes
           jSize := l.journal }
  | _, _ => none

/-- Puts a context in its place. -/
def State.putCtx (s : State) (c : Ctx) : State :=
  if s.ctx.key = c.key then { s with ctx := c } else { s with others := c :: s.others.filter fun d => decide (d.key ≠ c.key) }

/-- A member of a team to be bound: its instance, and what it keeps if it was saved. -/
structure Joiner where
  inst : Nat
  keep : Option Keep
deriving DecidableEq, Repr

/-- The bands that the member owned. -/
def Joiner.bands (j : Joiner) : List Nat := j.keep.elim [] (·.bands)

/-- Members of its team that share grants with the member must be on its core (R187). -/
def State.matesHere (s : State) (n : Node) (j : Joiner) (core : Nat) : Bool :=
  (j.keep.elim [] (·.partners)).all fun m =>
    decide (m / n.launch.team ≠ j.inst / n.launch.team) ||
    s.resident.all fun c => !(decide (c.ident.part = n.part) && decide (c.launch.node = n.id) && decide (c.ident.inst.toNat = m)) ||
      decide (c.key.core.val = core)

/-- Binds a member to a context, if the context and its core can take it. -/
def State.bindMember (s : State) (n : Node) (j : Joiner) (k : CtxKey) : Option State :=
  let core := k.core.val
  let cs := s.onCore core
  let l := n.launch
  let ok : Bool :=
    !(cs.any fun c => decide (c.key = k)) &&
    (l.degrade || !(s.core core).oneArray) && !((s.core core).mainFailed && (s.core core).shadowFailed) && !(s.core core).degraded &&
    decide ((cs.filter fun c => decide (c.ident.part = n.part) && decide (c.launch.node = n.id)).length < l.cap) &&
    decide (cs.foldl (fun a c => a + c.launch.amBanks) l.amBanks ≤ 32) &&
    j.bands.all (fun b => ((s.core core).ownerOf b).isNone) && s.matesHere n j core
  match ok, s.windowsFor l core with
  | true, some w =>
    let c : Ctx := { Ctx.idle k with live := true, ident := ⟨n.part, n.seq, BitVec.ofNat 32 j.inst⟩, launch := l, win := w }
    some ((s.putCtx c).mapCore core fun q => { q with owner := j.bands.map (fun b => (b, k.slot.val)) ++ q.owner })
  | _, _ => none

/-- The contexts of a list of clusters, in ascending order of core and context. -/
def keysOf (clusters : List Nat) : List CtxKey :=
  (clusters.map fun c => ((List.range 8).map fun i =>
    if h : c * 8 + i < 768 then [0, 1, 2, 3].map fun x => (⟨⟨c * 8 + i, h⟩, x⟩ : CtxKey) else []).flatten).flatten

/-- The member shares grants with another of its team (R187). -/
def Joiner.tied (j : Joiner) (team : Nat) : Bool := (j.keep.elim [] (·.partners)).any fun m => decide (m / team = j.inst / team)

/-- Binds members one after the other: each to the context chosen for it, or to the first that takes it. For a member whose mates
must come to its core, a context is taken that lets the rest of the team be bound (R187). -/
def State.bindAll (n : Node) (allowed : List Nat) : List (Joiner × Option CtxKey) → State → Option (State × List (Joiner × CtxKey))
  | [], s => some (s, [])
  | (j, pick) :: rest, s =>
    let try' (k : CtxKey) : Option (State × CtxKey) := (s.bindMember n j k).map fun s => (s, k)
    let more (q : State × CtxKey) : Option (State × List (Joiner × CtxKey)) :=
      (State.bindAll n allowed rest q.1).map fun r => (r.1, (j, q.2) :: r.2)
    match pick with
    | some k => if allowed.contains (clusterOfCore k.core.val) then (try' k).bind more else none
    | none =>
      if j.tied n.launch.team then (keysOf allowed).findSome? fun k => (try' k).bind more
      else ((keysOf allowed).findSome? try').bind more

/-- The members of a team that still run. -/
def Team.joiners (t : Team) (first : Nat) : List Joiner :=
  ((t.members.mapIdx fun i m =>
    match m with
    | .waiting => [{ inst := first + i, keep := none }]
    | .saved k => [({ inst := first + i, keep := some k } : Joiner)]
    | _ => [])).flatten

/-- A team as it would be resident on contexts. -/
def Node.residentOn (n : Node) (i placed : Nat) (keys : List CtxKey) : Resident :=
  { part := n.part, node := n.id, team := i, level := n.launch.priority, placed := placed
    clusters := keys.map fun k => clusterOfCore k.core.val, request := n.launch.wants, floor := n.launch.floors
    weight := .ofBits n.launch.weights.toNat, grant := n.launch.floors }

/-- A binding of a team to contexts within clusters that meets every resource and the power check (R318): the one chosen, or
the first that fits. -/
def State.plan (s : State) (n : Node) (i : Nat) (t : Team) (allowed : List Nat) (choice : Option (List CtxKey)) :
    Option (List (Joiner × CtxKey)) :=
  let js := t.joiners (i * n.launch.team)
  let picks : List (Option CtxKey) := match choice with
    | some c => c.map some
    | none => js.map fun _ => none
  if picks.length ≠ js.length then none
  else
    match State.bindAll n allowed (js.zip picks) s with
    | none => none
    | some (_, l) => if s.floorsFit (n.residentOn i s.serial (l.map (·.2))) then some l else none

/-! ## The queues (R89, R90) -/

/-- A waiting team. -/
structure Waiter where
  node : Node
  ix : Nat
  team : Team

/-- Effective priority (R90). -/
def Waiter.eff (w : Waiter) : Nat := w.node.launch.priority + w.team.aged

/-- A 10 ms period of waiting has passed since the last rise (R90). -/
def State.agingDue (s : State) (level : Nat) (t : Team) : Bool :=
  t.queued && decide (level + t.aged < 19) && decide (t.aged < 4) && decide (t.since + 10000000 * (t.aged + 1) ≤ s.nstime)

/-- A team's effective priority rises by one. -/
def State.ageTeam (s : State) (p : Part) (id : BitVec 32) (i : Nat) : State :=
  match s.node p id with
  | none => s
  | some n =>
    match n.teams[i]? with
    | none => s
    | some t => if s.agingDue n.launch.priority t then s.mapTeam p id i fun t => { t with aged := t.aged + 1 } else s

/-- `AGING` (R90) -/
def execAging (p : Part) (node : BitVec 32) (team : Nat) (s : State) := s.event true fun t => t.ageTeam p node team

/-- The rises of a team that are due. -/
def State.aged (s : State) (level : Nat) (t : Team) : Team :=
  [0, 1, 2, 3].foldl (fun (t : Team) (_ : Nat) => { t with aged := t.aged + bitOf (s.agingDue level t) }) t

/-- Every rise that is due. -/
def State.ageAll (s : State) : State :=
  { s with nodes := s.nodes.map fun n => { n with teams := n.teams.map (s.aged n.launch.priority) } }

/-- Runs before: higher effective priority, then earlier entry. -/
def Waiter.before (a b : Waiter) : Bool :=
  decide (b.eff < a.eff) || (decide (a.eff = b.eff) && decide (a.team.order ≤ b.team.order))

/-- Inserts by order. -/
def insertWaiter (w : Waiter) : List Waiter → List Waiter
  | [] => [w]
  | v :: l => if w.before v then w :: v :: l else v :: insertWaiter w l

/-- The waiting teams of a partition in order. -/
def State.waiters (s : State) (p : Part) : List Waiter :=
  (((s.nodes.filter fun n => decide (n.part = p)).map fun n =>
    ((n.teams.mapIdx fun i t => (⟨n, i, t⟩ : Waiter)).filter fun w => w.team.queued)).flatten).foldr insertWaiter []

/-- Clusters that a SET takes from a partition when it completes (R360). -/
def State.leaving (s : State) (p : Part) : List Nat :=
  match s.mg.waiting with
  | some (_, _, k) =>
    if fld k 4 1 = 1 ∧ fld k 5 1 = p.val then (List.range 96).filter fun c => !(fld k 8 12).testBit c else []
  | none => []

/-- The controller of a die restarts, which pauses placement on it (R365). -/
def State.restarting (s : State) (die : Nat) : Bool :=
  s.mg.restart.any fun r => r.now.any fun e => decide (e.1 = die) && decide (s.nstime < e.2)

/-- Clusters on which a waiting team may be placed: its mask, without clusters that are being taken away and those of dead
dies. -/
def State.placeable (s : State) (w : Waiter) : List Nat :=
  match s.part w.node.part with
  | none => []
  | some q => (clustersOf (q.selected w.node.launch.mask)).filter fun c =>
      !(s.leaving q.p).contains c && !s.mg.deadDies.contains (c / 16) && !s.restarting (c / 16)

/-- Walks a queue in order: the first team that fits, with the clusters it may use, and the head teams that do not fit
(R89). -/
def State.queueScan (s : State) (choice : List CtxKey) : List Waiter → List Nat → List Nat → List Waiter → Option (Waiter × List Nat) × List Waiter
  | [], _, _, heads => (none, heads)
  | w :: rest, blocked, reserved, heads =>
    if blocked.contains w.eff then State.queueScan s choice rest blocked reserved heads
    else
      let mine := s.placeable w
      let allowed := mine.filter fun c => !reserved.contains c
      if (s.plan w.node w.ix w.team allowed none).isSome ∨ (s.plan w.node w.ix w.team allowed (some choice)).isSome then
        (some (w, allowed), heads)
      else State.queueScan s choice rest (w.eff :: blocked) (mine ++ reserved) (heads ++ [w])

/-- What the queue of a partition answers. -/
def State.scanPart (s : State) (p : Part) (choice : List CtxKey) : Option (Waiter × List Nat) × List Waiter :=
  s.queueScan choice (s.waiters p) [] [] []

/-! ## Victims (R91) -/

/-- The package as if teams had left. -/
def State.withoutTeams (s : State) (l : List Resident) : State :=
  l.foldl (fun s r =>
    match s.team r.part r.node r.team with
    | none => s
    | some t =>
      let s := t.keys.foldl (fun s k =>
        ((s.mapCore k.core.val fun c => c.freeCtx k.slot.val).leaveLock k).mapKey k fun c => { c with live := false }) s
      s.mapTeam r.part r.node r.team fun t => { t with members := t.members.map fun m =>
        match m with
        | .resident _ => .waiting
        | m => m }) s

/-- Before in the order of victims: lower level, then placed later. -/
def Resident.sooner (a b : Resident) : Bool :=
  decide (a.level < b.level) || (decide (a.level = b.level) && decide (b.placed ≤ a.placed))

/-- Inserts in the order of victims. -/
def insertVictim (r : Resident) : List Resident → List Resident
  | [] => [r]
  | q :: l => if r.sooner q then r :: q :: l else q :: insertVictim r l

/-- The choices of `k` elements of a list, in order. -/
def combos {α : Type} : Nat → List α → List (List α)
  | 0, _ => [[]]
  | _ + 1, [] => []
  | k + 1, a :: l => (combos k l).map (a :: ·) ++ combos (k + 1) l

/-- The first choice that is enough, of as few elements as possible. -/
def fewest {α : Type} (l : List α) (enough : List α → Bool) : Option (List α) :=
  (List.range (l.length + 1)).findSome? fun k => (combos k l).find? enough

/-- The victims: of the lowest levels that are enough, the fewest teams, those placed last first (R91). -/
def victimsOf (cands : List Resident) (enough : List Resident → Bool) : Option (List Resident) :=
  let l := cands.foldr insertVictim []
  (sortNat (l.map (·.level)).eraseDups).findSome? fun top =>
    let low := l.filter fun r => decide (r.level ≤ top)
    if enough low then fewest low enough else none

/-- A resident team that is being pre-empted. -/
def State.goes (s : State) (r : Resident) : Bool := (s.team r.part r.node r.team).any fun t => t.preempt.isSome

/-- A head team of level 20 or more that does not fit pre-empts teams of lower levels (R91). -/
def State.preemptFor (s : State) (w : Waiter) : State :=
  if w.node.launch.priority < 20 then s
  else
    let mine := s.residents.filter fun r => decide (r.part = w.node.part)
    let gone := mine.filter s.goes
    let fits (l : List Resident) : Bool :=
      ((s.withoutTeams (gone ++ l)).plan w.node w.ix w.team (s.placeable w) none).isSome
    if fits [] then s
    else
      let cands := mine.filter fun r => !s.goes r && decide (r.level < w.eff)
      match victimsOf cands fits with
      | some l => l.foldl (fun s r => s.preemptTeam r.part r.node r.team) s
      | none => s

/-- Every decision to pre-empt that is due (R91). -/
def State.decidePreempt (s : State) : State :=
  (s.parts.map (·.p)).foldl (fun s p => (s.scanPart p []).2.foldl State.preemptFor s) s

/-- Teams are pre-empted until the floors of those that stay fit, as for a team of level 20 (R320). -/
def State.shedTeams (s : State) : State :=
  let gone := s.residents.filter s.goes
  let fits (l : List Resident) : Bool := (s.withoutTeams (gone ++ l)).residentsFit
  if fits [] then s
  else
    let cands := s.residents.filter fun r => !s.goes r && decide (r.level < 20)
    match victimsOf cands fits with
    | some l => l.foldl (fun s r => s.preemptTeam r.part r.node r.team) s
    | none => cands.foldl (fun s r => s.preemptTeam r.part r.node r.team) s

/-! ## Placing and resuming (R71, R344) -/

/-- The registers of a task at launch (R71, R96, R275). TRAPSTREAM.SPC and STREAM, for which R331 gives no launch value, start at 0
(log entry 4). -/
def Ctx.begin (c : Ctx) (graph : Bool) (grant : Word) (pkgid : BitVec 16) : Ctx :=
  let l := c.launch
  let x := ((CRegs.init.x.set 1 l.args).set 2 (zext64 c.ident.inst)).set 3 (BitVec.ofNat 64 l.count)
  { c with
    c := { CRegs.init with x := x }
    sys := { SysRegs.init with evt := if graph then evGraph else 0, ratiogrant := grant, pkgid := pkgid }
    streams := (Vector.replicate 5 StreamSt.idle).set 0 { StreamSt.idle with pc := l.entry, busy := true } }

/-- Starts the acting member's task. -/
def State.beginTask (s : State) (graph : Bool) : State :=
  let g := s.grantWord s.clusterNo
  (s.clearWindows s.coreNo s.ctx.win).mapCtx fun c => c.begin graph g s.mg.pkgid

/-- Resumes the acting member from its block: registers, windows and bands; grants and doorbells follow (R344). -/
def State.reloadTask (s : State) (k : Keep) (b : Block) : State :=
  let g := s.grantWord s.clusterNo
  let slot := s.slotNo
  let s := s.mapCore s.coreNo fun c => { c with owner := c.owner.filter (fun o => o.2 ≠ slot), roLines := [] }
  let s := s.mapCore s.coreNo fun c => c.loadBands slot b.bands b.images
  let s := (s.reloadWindows b).mapCtx fun c => c.reload b.state k s.mg.pkgid s.serial s.nstime
  let here := spPa s.coreNo s.ctx.win.spBase
  let s := s.mapColl fun q => { q with exchanges := q.exchanges.map fun x => x.rebase k.spAt here s.ctx.win.spSize }
  let s := if s.ctx.sys.ratiogrant.setWidth 16 = g.setWidth 16 then s else s.mapCtx (·.event evRatio)
  s.mapSys fun r => { r with ratiogrant := g }

/-- The doorbells that a member kept, with what came for them (R260). -/
def State.restoreBells (s : State) (k : Keep) : State :=
  s.rebindBells State.postBell (fun s pa => s.overrun pa 1) k.bells

/-- Blocks of the members that resume, each with its joiner and context; the first failure ends it. -/
def State.readBlocks (s : State) (n : Node) : List (Joiner × CtxKey) → Except PartFault (List (Joiner × CtxKey × Option Block)) × State
  | [] => (.ok [], s)
  | (j, k) :: rest =>
    match j.keep with
    | none =>
      match State.readBlocks s n rest with
      | (.ok l, s) => (.ok ((j, k, none) :: l), s)
      | (.error f, s) => (.error f, s)
    | some _ =>
      match s.readBlock n j.inst k.core.val with
      | (.error f, s) => (.error f, s)
      | (.ok b, s) =>
        match State.readBlocks s n rest with
        | (.ok l, s) => (.ok ((j, k, some b) :: l), s)
        | (.error f, s) => (.error f, s)

/-- The trap record of a saved member, where its own block can be read (R334, R347). -/
def State.recordSaved (s : State) (n : Node) (f : PartFault) (j : Joiner) (core : Nat) : State :=
  if j.keep.isNone then s
  else
    match s.readBlock n j.inst core with
    | (.error _, s) => s
    | (.ok b, s) =>
      let pc := BitVec.ofNat 64 (leValue ((b.state.drop 0x0D00).take 8))
      let r : TrapRec := { cause := causeWord f.1 0 true, pc := pc, val := BitVec.ofNat 64 f.2, stream := streamWord 0 5 }
      match s.partWrite n.part (n.launch.stateBlock j.inst + 0x1F98) r.bytes with
      | .ok s => s
      | .error _ => s

/-- A member of a team of which a block could not be read ends (R347). -/
def State.endSaved (s : State) (n : Node) (f : PartFault) (e : Joiner × CtxKey) : State :=
  let (j, k) := e
  let l := n.launch
  let s := s.recordSaved n f j k.core.val
  let s := (s.logAt 0 0 .saveFault [n.id.toNat, j.inst, f.1.toNat, f.2]).msi (fnOf n.part) 0
  let s := s.mapMember n.part n.id j.inst fun _ => .ended
  (s.dropEntries n.part n.id j.inst).depart n.part l.group (l.firstMember + j.inst)

/-- Puts one member into its context. -/
def State.enter (s : State) (n : Node) (graph : Bool) (e : Joiner × CtxKey × Option Block) : State :=
  let (j, k, b) := e
  match s.bindMember n j k with
  | none => s
  | some s =>
    let s := s.on k fun t =>
      match j.keep, b with
      | some q, some b => t.reloadTask q b
      | _, _ => t.beginTask graph
    s.mapMember n.part n.id j.inst fun _ => .resident k

/-- A team becomes resident as instances on contexts: an evaluation is made at once where its clusters do not wait for one,
and else its islands rise to its floors (R320). -/
def State.settleGrants (s : State) (n : Node) (i : Nat) (l : List (Nat × CtxKey)) : State :=
  let s := l.foldl (fun s e => s.mapMember n.part n.id e.1 fun _ => .resident e.2) s
  let s := (s.mapTeam n.part n.id i fun t => { t with placed := s.serial, grant := n.launch.floors.pack }).trigger n.part
  if s.evalReady n.part then s.evaluate n.part else s.raiseFloors (n.residentOn i s.serial (l.map (·.2)))

/-- Makes a team resident on contexts: its islands get their grants, and every member starts or resumes (R71, R73, R320,
R344). A block that cannot be read ends the team (R347). -/
def State.place (s : State) (n : Node) (i : Nat) (t : Team) (l : List (Joiner × CtxKey)) : State :=
  match s.readBlocks n l with
  | (.error f, s) =>
    let s := l.foldl (fun s e => s.endSaved n f e) s
    s.mapTeam n.part n.id i fun t => { t with queued := false }
  | (.ok l, s) =>
    let s := s.settleGrants n i (l.map fun e => (e.1.inst, e.2.1))
    let s := l.foldl (fun s e => s.enter n t.graph e) s
    let s := l.foldl (fun s e =>
      match e.2.2, e.1.keep with
      | some b, some q => s.on e.2.1 fun t => ((t.regrant b.state).restoreBells q).takeEnds
      | _, _ => s) s
    (s.mapTeam n.part n.id i fun t =>
      { t with queued := false, graph := false, sliceAt := s.nstime, preempt := none, stopping := false, aged := 0 }).tick

/-- The partition that owns a core's cluster. -/
def State.partOfCore (s : State) (core : Nat) : Option Part :=
  (s.parts.find? fun q => q.ownsCluster (clusterOfCore core)).map (·.p)

/-- Places the next team of a partition, on the contexts chosen where they are a binding of it. -/
def State.placeNext (s : State) (p : Part) (choice : Option (List CtxKey)) : State :=
  match (s.scanPart p (choice.getD [])).1 with
  | none => s
  | some (w, allowed) =>
    match s.plan w.node w.ix w.team allowed choice with
    | some l => s.place w.node w.ix w.team l
    | none => s

/-- `TEAM_PLACEMENT`: decisions to pre-empt are taken, and the contexts chosen receive the next team of the partition whose
they are (R89, R91). -/
def execTeamPlacement (choice : List CtxKey) (s : State) :=
  s.event true fun t =>
    let t := t.ageAll.decidePreempt
    match choice.head?.bind fun k => t.partOfCore k.core.val with
    | some p => t.placeNext p (some choice)
    | none => t

/-! ## Time slices (R92, R100) -/

/-- The partition's quantum in nanoseconds. -/
def State.quantum (s : State) (p : Part) : Nat :=
  ((s.part p).elim 4 fun q => if q.quantumMs = 0 then 4 else q.quantumMs) * 1000000

/-- A resident team as the power rules see it. -/
def State.residentTeam (s : State) (p : Part) (id : BitVec 32) (i : Nat) : Option Resident :=
  s.residents.find? fun r => decide (r.part = p) && decide (r.node = id) && decide (r.team = i)

/-- A team of equal or higher effective priority waits that would fit if this one left. -/
def State.outbid (s : State) (r : Resident) : Bool :=
  match ((s.withoutTeams [r]).scanPart r.part []).1 with
  | some (w, _) => decide (r.level ≤ w.eff)
  | none => false

/-- Every resident member's C stream yields, or sleeps in `WFE` or `DONE` (R100). -/
def State.allIdle (s : State) (t : Team) : Bool :=
  t.keys.all fun k => (s.find k).any fun c => c.c.yielding || c.c.sleeping

/-- The end of a team's slice: it is pre-empted, or gets a new slice (R92). -/
def State.sliceEnd (s : State) (p : Part) (id : BitVec 32) (i : Nat) : State :=
  let s := s.ageAll
  match s.node p id, s.team p id i, s.residentTeam p id i with
  | some n, some t, some r =>
    let beyond := decide (t.sliceAt + s.quantum p ≤ s.nstime)
    if !n.launch.slice || t.preempt.isSome || !(beyond || s.allIdle t) then s
    else if s.outbid r then s.preemptTeam p id i
    else if beyond then s.mapTeam p id i fun t => { t with sliceAt := s.nstime }
    else s
  | _, _, _ => s

/-- `TIME_SLICE_EXPIRY` (R92) -/
def execTimeSliceExpiry (p : Part) (node : BitVec 32) (team : Nat) (s : State) := s.event true fun t => t.sliceEnd p node team

/-! ## The leader's lease (R95, R299) -/

/-- `LEASE_RENEWAL`: every 1 ms, while the lease has not lapsed and the leader lives. -/
def execLeaseRenewal (s : State) :=
  s.event (decide (s.nstime < s.mg.leaseUntil) && decide (s.mg.leaseUntil ≤ s.nstime + 4000000) && !s.mg.deadDies.contains s.mg.lease)
    fun t => t.mapMg fun m => { m with leaseUntil := t.nstime + 5000000 }

/-- The lowest-numbered live die. -/
def State.lowestDie (s : State) : Nat := ((List.range 6).find? fun d => !s.mg.deadDies.contains d).getD 0

/-- `LEASE_LAPSE`: the lowest-numbered live die leads, with queues, credits and packets as they are. -/
def execLeaseLapse (s : State) :=
  s.event (decide (s.mg.leaseUntil ≤ s.nstime)) fun t =>
    t.mapMg fun m => { m with lease := t.lowestDie, leaseUntil := t.nstime + 5000000 }

/-! ## The completion of a node (R75) -/

/-- All tasks of the node have ended. -/
def Node.done (n : Node) : Bool := n.admitted && n.teams.all fun t => t.members.all fun m => decide (m = MemberSt.ended)

/-- Every access of the partition's tasks has performed at SYSTEM scope. -/
def State.partPerformed (s : State) (p : Part) : Bool :=
  (s.ms.parked ++ s.ms.held).all (fun q => decide (q.part ≠ p)) &&
  s.ms.pending.all fun k => !((s.part p).any fun q => q.inCarve (k * 128) 128)

/-- Completes a node: its completion action, then it is no longer live (R72, R75). -/
def State.completeNode (s : State) (n : Node) : State :=
  let s := (s.completion n.ring n.index n.launch.cplAddr n.launch.cplValue).tell
  ({ s with nodes := s.nodes.filter fun m => !(decide (m.part = n.part) && decide (m.id = n.id)) }).freeGroups

/-- `NODE_COMPLETION` -/
def execNodeCompletion (p : Part) (node : BitVec 32) (s : State) :=
  s.event true fun t =>
    match t.node p node with
    | some n => if n.done && t.partPerformed p then t.completeNode n else t
    | none => t

end Sys2Proof.Machine
end

