-- ==== Sys2Proof/Machine/Partitions.lean ====
section
/-!
DEFINITION. Partitions: the PARTITION-CONFIG operations and the partition reset (09_memory R228, 16_package R358 to R361).
-/

namespace Sys2Proof.Machine

/-! ## Reset of a partition (R361) -/

/-- The cores of a partition. -/
def Partition.ownsCore (q : Partition) (core : Nat) : Bool := q.ownsCluster (clusterOfCore core)

/-- A sector lies in the partition's carve. -/
def Partition.ownsSector (q : Partition) (sec : Nat) : Bool := q.inCarve (sec * 128) 128

/-- The function's rings are disabled and their registers are at reset values. -/
def State.resetRings (s : State) (p : Part) : State := { s with rings := s.rings.filter fun e => decide (e.1.fn.val ≠ fnOf p) }

/-- Every resident task of a partition stops at once: its context returns with nothing awaited or saved. -/
def State.stopTasks (s : State) (p : Part) : State :=
  let l := s.resident.filter (Ctx.inPart p)
  let s := l.foldl (fun s c =>
    ((s.mapCore c.key.core.val fun k => k.freeCtx c.key.slot.val).dropWaits c.key).trigger c.ident.part) s
  s.mapAll fun c => if c.live ∧ c.inPart p then .idle c.key else c

/-- Requests in flight are aborted at their homes, with what is held or parked, what is being reduced and the entries of packets; the
lines that the partition's ways hold are written back and invalidated. -/
def State.abortRequests (s : State) (q : Partition) : State :=
  let s := s.mapMs fun m =>
    { m with parked := m.parked.filter fun r => decide (r.part ≠ q.p)
             held := m.held.filter fun r => decide (r.part ≠ q.p)
             red := m.red.filter fun r => !q.ownsSector r.sector
             redDie := m.redDie.filter fun e => !q.ownsSector e.2.2.sector
             dups := m.dups.filter fun e => decide (e.part ≠ q.p)
             markers := m.markers.filter fun k => !q.ownsCore k.core
             replicas := m.replicas.filter fun r => !q.ownsSector r.sector
             pending := m.pending.filter fun k => !q.ownsSector k
             maps := m.maps.map fun x => { x with l2 := (x.l2.map fun e => (e.1, e.2.filter fun c => !q.ways.getLsbD c.way)).filter fun e => !e.2.isEmpty }
             doorbells := m.doorbells.filter fun d => decide (d.1 ≠ q.p) }
  s.cores.foldl (fun s e => if q.ownsCore e.1 then s.mapCore e.1 fun c => { c with posted := [], red := [] } else s) s

/-- The bucket of a reset partition: its counters are zero and its ports hold nothing (R327). -/
def Bucket.reset (b : Bucket) : Bucket := { b with balance := 0, sectors := 0, throttled := 0, bonus := 0, starved := false }

/-- Every member of a partition's nodes departs its group (R292, R361). -/
def State.departPart (s : State) (p : Part) : State :=
  (s.nodes.filter fun n => decide (n.part = p)).foldl (fun s n =>
    (List.range (n.teams.length * n.launch.team)).foldl (fun s i => s.depart p n.launch.group (n.launch.firstMember + i)) s) s

/-- Steps 1 to 5 of R361. -/
def State.resetPart (s : State) (p : Part) : State :=
  match s.part p with
  | none => s
  | some q =>
    let s := ((((s.resetRings p).stopTasks p).abortRequests q).departPart p).tell
    let s := ({ s with nodes := s.nodes.filter fun n => decide (n.part ≠ p) }).freeGroups
    let s := s.mapPart p fun q => { q with credits := [] }
    (List.range 6).foldl (fun s d => s.mapBucket p d Bucket.reset) s

/-- `FUNCTION_LEVEL_RESET` -/
def execFunctionLevelReset (p : Part) (s : State) := s.event true fun t => t.resetPart p

/-! ## What a packet asks for (R359, R360) -/

/-- The operation of a PARTITION-CONFIG packet. -/
def opOf (k : Packet) : Nat := fld k 4 1

/-- The partition that a packet names. -/
def partOf (k : Packet) : Option Part := if h : fld k 5 1 < 16 then some ⟨fld k 5 1, h⟩ else none

/-- The configuration that a SET gives; masks, sequence number and credits stay. -/
def setOf (k : Packet) (p : Part) (old : Option Partition) : Partition :=
  { p := p, clusters := fld k 8 12, device := fld k 0x14 1, quantumMs := fld k 0x15 1, ways := BitVec.ofNat 16 (fld k 0x16 2)
    hbmBase := fld k 0x18 2, hbmSize := fld k 0x1A 2, powerShare := fld k 0x1C 2, firstKey := fld k 0x1E 1, keyCount := fld k 0x1F 1
    root := fld k 0x20 8, spill := fld k 0x28 8, spillSize := fld k 0x30 4
    shares := (List.range 6).map fun d => fld k (0x38 + 2 * d) 2
    dspBase := (List.range 6).map fun d => fld k (0x44 + 2 * d) 1
    dspSize := (List.range 6).map fun d => fld k (0x45 + 2 * d) 1
    masks := old.elim [] (·.masks), nextSeq := old.elim 0 (·.nextSeq), credits := old.elim [] (·.credits) }

/-- The presented device of a cluster. -/
def deviceOf (m : Mode) (cl : Nat) : Nat := cl / 16 / m.dies

/-- Two ranges of a start and a size meet. -/
def meets (a n b m : Nat) : Bool := decide (0 < n) && decide (0 < m) && decide (a < b + m) && decide (b < a + n)

/-- The keys of a partition other than key 0. -/
def Partition.keys (q : Partition) : List Nat := ((List.range q.keyCount).map (q.firstKey + ·)).filter (· ≠ 0)

/-- Limits of the SET payload (R360). -/
def State.setBad (s : State) (k : Packet) (p : Part) : List (Nat × Bool) :=
  let q := setOf k p none
  let m := s.mg.mode
  let others := s.parts.filter fun o => decide (o.p ≠ p)
  let mine := clustersOf q.clusters
  let z := 768 / m.devices
  let page (a : Nat) : Bool := decide (a % 4096 ≠ 0) || !q.inCarve a 1
  [(0x08, others.any (fun o => decide (o.clusters &&& q.clusters ≠ 0)) || mine.any fun c => mine.any fun d => decide (deviceOf m c ≠ deviceOf m d)),
   (0x14, decide (m.devices ≤ q.device) || mine.any fun c => decide (deviceOf m c ≠ q.device)),
   (0x15, decide (100 < q.quantumMs)), (0x16, decide (q.ways = 0)),
   (0x18, decide (q.hbmBase < q.device * z) || decide ((q.device + 1) * z < q.hbmBase + q.hbmSize) ||
     others.any fun o => meets q.hbmBase q.hbmSize o.hbmBase o.hbmSize),
   (0x1A, decide (q.hbmSize = 0)),
   (0x1E, decide (256 < q.firstKey + q.keyCount) || others.any fun o => q.keys.any o.keys.contains),
   (0x20, page q.root), (0x28, page q.spill), (0x30, decide (q.spillSize = 0)), (0x34, decide (fld k 0x34 4 ≠ 0))] ++
  ((List.range 6).map fun d =>
    (0x38 + 2 * d, decide (256 < q.share d + others.foldl (fun a o => a + o.share d) 0))) ++
  ((List.range 6).map fun d =>
    let b := q.dspBase.getD d 0
    let n := q.dspSize.getD d 0
    (0x44 + 2 * d, decide (32 < b + n) || others.any fun o => meets b n (o.dspBase.getD d 0) (o.dspSize.getD d 0))) ++
  mustZero k 0x50 0x20

/-- Fields that a SET may not change while the partition has a live node (R360). -/
def State.setFixed (s : State) (k : Packet) (p : Part) : List (Nat × Bool) :=
  match s.part p with
  | none => []
  | some o =>
    if !s.nodes.any fun n => decide (n.part = p) then []
    else
      let q := setOf k p none
      [(0x14, decide (q.device ≠ o.device)), (0x18, decide (q.hbmBase ≠ o.hbmBase)), (0x1A, decide (q.hbmSize ≠ o.hbmSize)),
       (0x1E, decide ((q.firstKey, q.keyCount) ≠ (o.firstKey, o.keyCount))), (0x20, decide (q.root ≠ o.root)),
       (0x28, decide (q.spill ≠ o.spill)), (0x30, decide (q.spillSize ≠ o.spillSize))] ++
      (List.range 6).map fun d =>
        (0x44 + 2 * d, decide ((q.dspBase.getD d 0, q.dspSize.getD d 0) ≠ (o.dspBase.getD d 0, o.dspSize.getD d 0)))

/-- Limits of the payload of an operation (R359). -/
def State.payloadBad (s : State) (k : Packet) (p : Part) : List (Nat × Bool) :=
  let there := (s.part p).isSome
  match opOf k with
  | 1 => s.setBad k p ++ s.setFixed k p
  | 2 => [(0x05, !there), (0x08, decide (fld k 8 1 = 0) || decide (15 < fld k 8 1)),
          (0x0C, decide (fld k 0x0C 12 &&& (s.part p).elim 0 (·.clusters) ≠ fld k 0x0C 12))] ++ mustZero k 9 3 ++ mustZero k 0x18 0x58
  | 3 => (0x05, !there || s.nodes.any fun n => decide (n.part = p)) :: mustZero k 8 0x68
  | 4 => (0x05, !there) :: mustZero k 8 0x68
  | 5 => (0x05, !there) :: mustZero k 0x18 0x58
  | _ => [(0x05, decide (p.val ≠ 0)), (0x08, decide (fld k 8 2 < 1800) || decide (5000 < fld k 8 2))] ++ mustZero k 0x0A 0x66

/-- Every limit of a PARTITION-CONFIG packet (R359). -/
def State.configBad (s : State) (k : Packet) : List (Nat × Bool) :=
  [headBad k] ++ mustZero k 2 2 ++ [(0x04, decide (opOf k = 0) || decide (6 < opOf k)), (0x05, decide (partOf k = none))] ++ mustZero k 6 2 ++
  (match partOf k with
   | some p => s.payloadBad k p
   | none => []) ++ tailBad k

/-- The lowest offset whose limit is broken. -/
def lowestBad (l : List (Nat × Bool)) : Option Nat :=
  (l.filter (·.2)).foldl (fun b e => some (min e.1 (b.getD e.1))) none

/-! ## Effects -/

/-- Teams of a partition that stand on a cluster that it loses (R360). -/
def State.onLeaving (s : State) (p : Part) (k : Packet) : List Resident :=
  s.residents.filter fun r => decide (r.part = p) && r.clusters.any fun c => !(fld k 8 12).testBit c

/-- A page of a shootdown's range is pinned (R228). -/
def State.rangePinned (s : State) (p : Part) (base len : Nat) : Bool :=
  (s.partMappings p).any fun m => m.pins.any fun q => meets q.1 q.2 base len

/-- C TLB entries of a range go (R228). -/
def State.dropTlb (s : State) (p : Part) (hit : Nat → Nat → Bool) : State :=
  let keep (c : Core) : Core := { c with tlb := c.tlb.filter fun t => !(decide (t.1 = p) && hit t.2.1 t.2.2.1) }
  { s with cores := Table.mapVals Core.init keep s.cores }

/-- What an accepted operation does before it can complete: teams on lost clusters are pre-empted, TLB entries go. -/
def State.beginConfig (s : State) (k : Packet) : State :=
  match partOf k with
  | none => s
  | some p =>
    match opOf k with
    | 1 => (s.onLeaving p k).foldl (fun s r => s.preemptTeam r.part r.node r.team) s
    | 5 => s.dropTlb p fun a n => meets a n (fld k 8 8) (fld k 0x10 8)
    | _ => s

/-- The operation can complete. -/
def State.configReady (s : State) (k : Packet) : Bool :=
  match partOf k with
  | none => true
  | some p =>
    match opOf k with
    | 1 => (s.onLeaving p k).isEmpty
    | 5 => !s.rangePinned p (fld k 8 8) (fld k 0x10 8)
    | _ => true

/-- The generation of a die's slice map rises by one. -/
def State.newMap (s : State) (die : Nat) : State := s.mapSlice die fun m => { m with gen := m.gen + 1 }

/-- Creates or changes a partition: the evaluation of its clusters is due (R320), and the slice maps of the dies of its clusters, before
and after, change their generation (R223; log entry 12). -/
def State.setPartition (s : State) (k : Packet) (p : Part) : State :=
  let q := setOf k p (s.part p)
  let dies := (List.range 6).filter fun d => decide (0 < q.onDie d) || (s.part p).any fun o => decide (0 < o.onDie d)
  let s := if (s.part p).isSome then s.mapPart p fun _ => q else { s with parts := s.parts ++ [q] }
  (dies.foldl State.newMap s).trigger p

/-- Frees every resource of a partition. -/
def State.destroyPart (s : State) (p : Part) : State :=
  let s := (s.resetPart p).dropTlb p fun _ _ => true
  let s := (List.range 6).foldl (fun s d => s.mapBucket p d fun _ => Bucket.zero) s
  { s with parts := s.parts.filter fun q => decide (q.p ≠ p) }.trigger p

/-- The module cap becomes `w` watts: a lowered cap ends every lock and is evaluated at once (R15, R320). A
frozen part evaluates nothing (R368). -/
def State.setCap (s : State) (w : Nat) : State :=
  let lower := decide (w < s.pw.cap)
  let s := s.mapPw fun q => { q with cap := w }
  if s.mg.frozen then s
  else if lower then (s.evaluateNow (List.range 96) (s.parts.map (·.p))).shedTeams else (s.parts.map (·.p)).foldl State.trigger s

/-- The effect of an operation that is ready. -/
def State.configEffect (s : State) (k : Packet) : State :=
  match partOf k with
  | none => s
  | some p =>
    match opOf k with
    | 1 => s.setPartition k p
    | 2 => s.mapPart p fun q => { q with masks := Table.set 0 q.masks (fld k 8 1) (fld k 0x0C 12) }
    | 3 => s.destroyPart p
    | 4 => s.resetPart p
    | 5 => s.dropTlb p fun a n => meets a n (fld k 8 8) (fld k 0x10 8)
    | _ => s.setCap (fld k 8 2)

/-- Completes an operation: its effect, then the packet's completion action (R359). -/
def State.finishConfig (s : State) (r : RingId) (idx : BitVec 32) (k : Packet) : State :=
  let s := s.mapMg fun m => { m with waiting := none }
  (s.configEffect k).packetDone r idx k

/-- A PARTITION-CONFIG packet: accepted on the management ring alone (R359). -/
def State.configPacket : PacketFn := fun s r idx k =>
  if (headBad k).2 then s.refuse r idx k eBADPKT 0
  else if r.fn.val ≠ 0 then s.refuse r idx k ePRIV 0
  else
    match lowestBad (s.configBad k) with
    | some o => s.refuse r idx k eBADPKT o
    | none =>
      let s := s.beginConfig k
      if s.configReady k then s.finishConfig r idx k else s.mapMg fun m => { m with waiting := some (r, idx, k) }

/-- The packet that waits can complete. -/
def State.waitingReady (s : State) : Bool := s.mg.waiting.any fun w => s.configReady w.2.2

/-- Completes the packet that waits. -/
def State.finishWaiting (s : State) : State :=
  match s.mg.waiting with
  | some (r, idx, k) => if s.configReady k then s.finishConfig r idx k else s
  | none => s

/-- The step of a PARTITION-CONFIG packet with operation `op`. -/
def State.onConfig (s : State) (op : Nat) (r : RingId) (k : Packet) : Host.Outcome State Fault Refusal :=
  s.onPacket State.configPacket (fun k => decide (typeOf k = 3) && decide (opOf k = op)) r k

/-- `SET` (R360) -/
def execCfgSet (src : RingId) (pkt : Packet) (s : State) := s.onConfig 1 src pkt
/-- `MASK` (R359) -/
def execCfgMask (src : RingId) (pkt : Packet) (s : State) := s.onConfig 2 src pkt
/-- `DESTROY` (R359) -/
def execCfgDestroy (src : RingId) (pkt : Packet) (s : State) := s.onConfig 3 src pkt
/-- `RESET` (R361) -/
def execCfgReset (src : RingId) (pkt : Packet) (s : State) := s.onConfig 4 src pkt
/-- `SHOOTDOWN` (R228) -/
def execCfgShootdown (src : RingId) (pkt : Packet) (s : State) := s.onConfig 5 src pkt
/-- `CAP` (R359) -/
def execCfgCap (src : RingId) (pkt : Packet) (s : State) := s.onConfig 6 src pkt

/-! ## The fetcher's reading of a slot (R78) -/

/-- Carries out a packet by its type. -/
def State.anyPacket : PacketFn := fun s r idx k =>
  match typeOf k with
  | 1 => s.launchPacket r idx k
  | 2 => s.signalPacket r idx k
  | 3 => s.configPacket r idx k
  | 4 => s.nopPacket r idx k
  | _ => s.refuse r idx k eBADPKT (if (headBad k).2 then 0 else 1)

/-- The fetcher reads the slot: it stops at a failed read, which is RINGFAULT, and at the wrong phase (R78). -/
def State.probe (s : State) (r : RingId) : State :=
  if !s.fetching r then s
  else
    let idle (s : State) : State := s.mapRing r fun g => { g with awake := false }
    match s.slotBytes r with
    | (.error _, s) => (idle s).ringError r eRINGFAULT 0xFF (s.ring r).head
    | (.ok b, s) => if (leValue b % 2 = 1) = ((s.ring r).phase = true) then s else idle s

/-- One packet of a ring whose fetcher runs, or the end of its reading. -/
def State.fetchRing (s : State) (r : RingId) : State :=
  let t := s.probe r
  if t.fetching r then
    match t.slotBytes r with
    | (.ok b, _) => t.take State.anyPacket r (BitVec.ofNat 1024 (leValue b))
    | (.error _, _) => t
  else t

end Sys2Proof.Machine
end

