-- ==== Sys2Proof/Machine/HostIf.lean ====
section
/-!
DEFINITION. The PCIe functions: ring registers, doorbells, bucket state, the MSI-X table, and the apertures of BAR2 and BAR4
(04_tasks R77, R78, 10_copy R260, 11_ordering R276, 14_clocks R327, 16_package R355 to R357).
-/

namespace Sys2Proof.Machine

/-! ## Ring registers (R77, R78) -/

/-- A ring that is enabled: the index, the head and the phase start anew. -/
def Ring.enable (g : Ring) : Ring :=
  if 4 ≤ g.logsize ∧ g.logsize ≤ 16 then { g with en := true, index := 0, phase := true, head := 0, awake := false } else g

/-- The fetcher wakes and reads the slot. -/
def State.wake (s : State) (r : RingId) : State := (s.mapRing r fun g => { g with awake := true }).probe r

/-- A write of EN. Whether the fetcher of a ring just enabled reads its slot before a RINGBELL write is open (R78; log entry
9). -/
def State.setEn (s : State) (r : RingId) (on : Bool) : State :=
  if !s.ringThere r ∨ (s.ring r).en = on then s
  else if on then
    let (k, s) := (s.mapRing r Ring.enable).draw
    if (s.ring r).en ∧ Config.fetcherStarts k then s.wake r else s
  else s.mapRing r fun g => { g with en := false, awake := false }

/-- `EN` -/
def execRingEn (r : RingId) (on : Bool) (s : State) := s.event true fun t => t.setEn r on

/-- A RINGBELL write: the fetcher wakes and reads the slot. -/
def State.ringBell (s : State) (r : RingId) : State :=
  if s.ringThere r ∧ (s.ring r).en then s.wake r else s

/-- `RINGBELL` -/
def execRingbell (r : RingId) (s : State) := s.event true fun t => t.ringBell r

/-- A write to RINGERR clears the bits written as 1. -/
def State.clearErr (s : State) (r : RingId) (v : BitVec 32) : State :=
  if s.ringThere r then s.mapRing r fun g => { g with err := g.err &&& ~~~v } else s

/-- `RINGERR` -/
def execRingerr (r : RingId) (val : BitVec 32) (s : State) := s.event true fun t => t.clearErr r val

/-- The partition of a ring that exists. -/
def State.ringPart (s : State) (r : RingId) : Option Partition := if s.ringThere r then s.fnPart r.fn else none

/-- A NODESIG write: one signal to a node. -/
def State.nodeSig (s : State) (r : RingId) (n : BitVec 32) : State :=
  match s.ringPart r with
  | some q => s.signal q.p n 1
  | none => s

/-- `NODESIG` -/
def execNodesig (r : RingId) (node : BitVec 32) (s : State) := s.event true fun t => t.nodeSig r node

/-- A HOSTBELL write: EVT.HOSTBELL in every resident context of a node. -/
def State.hostBell (s : State) (r : RingId) (n : BitVec 32) : State :=
  match s.ringPart r with
  | some q =>
    match s.node q.p n with
    | some d => s.nodeEvent d evHostbell false
    | none => s
  | none => s

/-- `HOSTBELL` -/
def execHostbell (r : RingId) (node : BitVec 32) (s : State) := s.event true fun t => t.hostBell r node

/-- A write of the register at offset 0x08: LOGSIZE while EN is 0, then EN. -/
def State.setSize (s : State) (r : RingId) (v : Nat) : State :=
  let s := if (s.ring r).en then s else s.mapRing r fun g => { g with logsize := v % 32 }
  s.setEn r (v.testBit 8)

/-- A write to a half of RINGBASE, ignored while EN is 1. -/
def State.setBase (s : State) (r : RingId) (high : Bool) (v : Nat) : State :=
  s.mapRing r fun g =>
    if g.en then g
    else
      let lo := if high then g.base.toNat % 2 ^ 32 else v / 128 * 128
      let hi := if high then v else g.base.toNat / 2 ^ 32
      { g with base := halves hi lo }

/-- A 32-bit write to a ring's registers. -/
def State.writeRing (s : State) (r : RingId) (off : Nat) (v : BitVec 32) : State :=
  if !s.ringThere r then s
  else
    match off with
    | 0x00 => s.setBase r false v.toNat
    | 0x04 => s.setBase r true v.toNat
    | 0x08 => s.setSize r v.toNat
    | 0x10 => s.ringBell r
    | 0x14 => s.clearErr r v
    | 0x18 => s.nodeSig r v
    | 0x1C => s.hostBell r v
    | _ => s

/-- A 32-bit read of a ring's registers. -/
def State.readRing (s : State) (r : RingId) (off : Nat) : Nat :=
  let g := s.ring r
  if !s.ringThere r then 0
  else
    match off with
    | 0x00 => g.base.toNat % 2 ^ 32
    | 0x04 => g.base.toNat / 2 ^ 32
    | 0x08 => bitOf g.en * 2 ^ 8 + g.logsize
    | 0x0C => g.head.toNat
    | 0x14 => g.err.toNat
    | _ => 0

/-! ## Doorbells (R260) -/

/-- A count held for a swapped-out owner of the doorbell. -/
def Team.holdPost (db n : Nat) (t : Team) : Team :=
  { t with members := t.members.map fun m =>
      match m with
      | .saved k => .saved { k with bells := k.bells.map fun b => if b.db = db then { b with posts := b.posts ++ [n] } else b }
      | m => m }

/-- A POSTN write: `n` slots of the ring bound to the doorbell, held while its owner is swapped out, dropped where nothing
is bound. -/
def State.postDoorbell (s : State) (p : Part) (db n : Nat) : State :=
  match s.ms.doorbells.find? fun d => decide (d.1 = p) && decide (d.2.1 = db) with
  | some d => s.postBell d.2.2.1 n
  | none => { s with nodes := s.nodes.map fun m => if m.part = p then { m with teams := m.teams.map (Team.holdPost db n) } else m }

/-- `POSTN` -/
def execPostn (fn : Fn) (db : Fin 4096) (n : BitVec 32) (_ : Bool) (s : State) :=
  s.event true fun t =>
    match t.fnPart fn with
    | some q => t.postDoorbell q.p db.val n.toNat
    | none => t

/-! ## BAR0 (R356) -/

/-- The ring whose registers hold an offset below 0x1_0000. -/
def ringAt (fn : Fn) (off : Nat) : RingId := ⟨fn, ⟨off / 0x1000 % 16, by omega⟩⟩

/-- The doorbell of an offset, if it is one. -/
def bellAt (off : Nat) : Option Nat :=
  if 0x100000 ≤ off ∧ off < 0x110000 ∧ off % 16 = 0 then some ((off - 0x100000) / 16) else none

/-- The word of the MSI-X table at an offset, if it is one: two vectors of 16 bytes. -/
def msixAt (fn : Fn) (off : Nat) : Option Nat :=
  if 0x300000 ≤ off ∧ off < 0x300020 then some (8 * fn.val + (off - 0x300000) / 4) else none

/-- A 32-bit write to BAR0. -/
def State.writeBar0 (s : State) (fn : Fn) (off : Nat) (v : BitVec 32) : State :=
  if off % 4 ≠ 0 then s
  else if off < 0x10000 then s.writeRing (ringAt fn off) (off % 0x1000) v
  else
    match bellAt off, msixAt fn off with
    | some d, _ =>
      match s.fnPart fn with
      | some q => s.postDoorbell q.p d v.toNat
      | none => s
    | none, some w => s.mapMg fun m => { m with msixTable := Table.set none m.msixTable w (some v) }
    | none, none => s

/-- `REGISTER_WRITE` -/
def execRegisterWrite (fn : Fn) (off : BitVec 22) (val : BitVec 32) (s : State) :=
  s.event true fun t => t.writeBar0 fn off.toNat val

/-- A 32-bit register of a die's bucket (R327). -/
def State.readBucket (s : State) (q : Partition) (d off : Nat) : Nat :=
  let b := s.bucket q.p d
  match off with
  | 0x00 => q.share d
  | 0x04 => b.allot
  | 0x08 => b.balance
  | 0x0C => b.sectors
  | 0x10 => b.throttled
  | 0x14 => b.bonus
  | 0x18 => s.pw.periods.toList.getD d 0 % 2 ^ 32
  | 0x1C => s.pw.periods.toList.getD d 0 / 2 ^ 32
  | _ => 0

/-- A word of the MSI-X table that nothing has written: the mask bit of its vector is set. -/
def msixReset (w : Nat) : BitVec 32 := if w % 4 = 3 then 1 else 0

/-- The 32-bit word at a multiple of 4 of BAR0. -/
def State.readBar0 (s : State) (fn : Fn) (off : Nat) : BitVec 32 :=
  BitVec.ofNat 32 (
    if off < 0x10000 then s.readRing (ringAt fn off) (off % 0x1000)
    else if 0x200000 ≤ off ∧ off < 0x2000C0 then
      (s.fnPart fn).elim 0 fun q => s.readBucket q ((off - 0x200000) / 32) (off % 32)
    else
      match msixAt fn off with
      | some w => ((Table.get none s.mg.msixTable w).getD (msixReset w)).toNat
      | none => 0)

/-- `n` bytes of BAR0. -/
def State.bar0Bytes (s : State) (fn : Fn) (off n : Nat) : List Byte :=
  (List.range n).map fun i => BitVec.ofNat 8 ((s.readBar0 fn ((off + i) / 4 * 4)).toNat / 2 ^ (8 * ((off + i) % 4)))

/-! ## BAR2 and BAR4 (R260, R276, R356) -/

/-- The core and offset of BAR2 bytes of the partition that one resident task of it holds. -/
def State.bar2 (s : State) (q : Partition) (off n : Nat) : Option Nat :=
  let core := off / 2 ^ 20
  if core < 768 ∧ q.ownsCore core ∧ s.spHeld (Ctx.inPart q.p) core (off % 2 ^ 20) n then some (spPa core (off % 2 ^ 20)) else none

/-- The physical address of BAR4 bytes inside the carve. -/
def bar4 (q : Partition) (off n : Nat) : Option Nat :=
  if off + n ≤ q.hbmSize * 2 ^ 30 then some (q.hbmBase * 2 ^ 30 + off) else none

/-- The bound ring whose slot array a peer's bytes meet, with the array's place. -/
def State.ringHit (s : State) (p : Part) (pa n : Nat) : Option (Nat × SlotRing × Nat) :=
  s.ms.doorbells.findSome? fun d =>
    let r := s.mem.slotRing d.2.2.1
    match (s.focus d.2.2.2).bind fun t => t.slotArray r with
    | none => none
    | some arr => if d.1 = p ∧ meets pa n arr (r.size * r.count) then some (d.2.2.1, r, arr) else none

/-- Every byte that lies in the array lies in a slot from POST to REL + C − 1. -/
def SlotRing.accepts (r : SlotRing) (arr pa n : Nat) : Bool :=
  (List.range n).all fun i =>
    decide (pa + i < arr) || decide (arr + r.size * r.count ≤ pa + i) ||
    decide (((pa + i - arr) / r.size + r.count - r.post % r.count) % r.count < r.count - diff32 r.post r.rel)

/-- Counts a peer's data write that met the slot array of a swapped-out owner. -/
def Bell.lose (pa n : Nat) (b : Bell) : Bell := if meets pa n b.arrayPa b.arrayLen then { b with lost := b.lost + 1 } else b

/-- The same for the swapped-out members of a team. -/
def Team.loseWrite (pa n : Nat) (t : Team) : Team :=
  { t with members := t.members.map fun m =>
      match m with
      | .saved k => .saved { k with bells := k.bells.map (Bell.lose pa n) }
      | m => m }

/-- A peer's write through BAR2. -/
def State.writeBar2 (s : State) (q : Partition) (off : Nat) (b : List Byte) : State :=
  match s.bar2 q off b.length with
  | none =>
    let pa := spPa (off / 2 ^ 20) (off % 2 ^ 20)
    { s with nodes := s.nodes.map fun m => if m.part = q.p then { m with teams := m.teams.map (Team.loseWrite pa b.length) } else m }
  | some pa =>
    match s.ringHit q.p pa b.length with
    | some (d, r, arr) => if r.accepts arr pa b.length then s.writeHome pa b else s.overrun d 1
    | none => s.writeHome pa b

/-- Writes the words of a list of bytes to BAR0. -/
def State.writeWords (s : State) (fn : Fn) : Nat → Nat → List Byte → State
  | 0, _, _ => s
  | k + 1, off, b => State.writeWords (s.writeBar0 fn off (BitVec.ofNat 32 (leValue (b.take 4)))) fn k (off + 4) (b.drop 4)

/-- The largest payload of a write, in bytes (R355). -/
def maxPayload : Nat := 512

/-- A peer's write: outside what the function shows, it is dropped; so is one of more than the largest payload (R356; log entry 62). -/
def State.peerWrite (s : State) (fn : Fn) (bar : Bar) (off : Nat) (b : List Byte) : State :=
  if maxPayload < b.length then s else
  match bar with
  | .bar0 => if off % 4 = 0 ∧ b.length % 4 = 0 ∧ off + b.length ≤ 2 ^ 22 then s.writeWords fn (b.length / 4) off b else s
  | .bar2 =>
    match s.fnPart fn with
    | some q => if b = [] then s else s.writeBar2 q off b
    | none => s
  | .bar4 =>
    match (s.fnPart fn).bind fun q => bar4 q off b.length with
    | some pa => s.writeHome pa b
    | none => s

/-- `PEER_WRITE`: through either port, with Relaxed Ordering or not, each write performs whole in its step (R355). -/
def execPeerWrite (fn : PortFn) (bar : Bar) (off : Nat) (bytes : List Byte) (_ : Bool) (s : State) :=
  s.event true fun t => t.peerWrite fn.fn bar off bytes

/-- What a host read of `n` bytes returns; `none` is Unsupported Request (R356). -/
def State.hostRead (s : State) (fn : Fn) (bar : Bar) (off n : Nat) : Option (List Byte) × State :=
  let at' (pa : Option Nat) : Option (List Byte) × State :=
    match pa with
    | none => (none, s)
    | some a =>
      let (b, s) := s.readHome a n
      (some b, s)
  match bar with
  | .bar0 => if off + n ≤ 2 ^ 22 then (some (s.bar0Bytes fn off n), s) else (none, s)
  | .bar2 => at' ((s.fnPart fn).bind fun q => s.bar2 q off n)
  | .bar4 => at' ((s.fnPart fn).bind fun q => bar4 q off n)

/-- `HOST_READ`: the same through either port (R355). -/
def execHostRead (fn : PortFn) (bar : Bar) (off : Nat) (len : Fin 65) (s : State) :=
  s.event true fun t =>
    let (b, t) := t.hostRead fn.fn bar off len.val
    t.mapMg fun m => { m with hostData := b }

end Sys2Proof.Machine
end

