-- ==== Sys2Proof/Machine/Links.lean ====
section
/-!
DEFINITION. Urhan links, dead dies and the scale-out ports (16_package R348 to R350, R362).
-/

namespace Sys2Proof.Machine

/-! ## Injection ports (R352; log entry 29) -/

/-- The seed of an injection port's LFSR. -/
def lfsrSeed (column row : Nat) : BitVec 16 := BitVec.ofNat 16 (column * 2 ^ 8) ||| BitVec.ofNat 16 row ||| 0x8000

/-- The LFSR of the injection port at a place of a die's mesh: its seed, until it has shifted. -/
def State.lfsr (s : State) (die column row : Nat) : BitVec 16 :=
  match s.net.lfsr.find? fun e => e.1 = 144 * die + 12 * row + column with
  | some e => e.2
  | none => lfsrSeed column row

/-- The route class that a port's next packet on a VC takes: 0 is XY-first, 1 is YX-first; VCs 4 and 5 always go XY-first. -/
def State.routeClass (s : State) (die column row vc : Nat) : Nat :=
  if vc = 4 ∨ vc = 5 then 0 else (s.lfsr die column row).toNat % 2

/-! ## The link layer (R348) -/

/-- The index of a direction. -/
def linkIx (l : LinkDir) : Nat := 2 * l.link.val + bitOf l.up

/-- A direction of a link. -/
def State.link (s : State) (l : LinkDir) : LinkSt := s.net.links.toList.getD (linkIx l) .init

/-- Changes a direction. -/
def State.mapLink (s : State) (l : LinkDir) (f : LinkSt → LinkSt) : State :=
  { s with net := { s.net with links := s.net.links.set! (linkIx l) (f (s.link l)) } }

/-- How far a flit lies ahead of the lowest one not delivered. -/
def LinkSt.ahead (k : LinkSt) (q : BitVec 12) : Nat := (q - k.nextRecv).toNat

/-- The flit has been delivered. -/
def LinkSt.got (k : LinkSt) (q : BitVec 12) : Bool := decide (256 ≤ k.ahead q) || k.early.contains q

/-- One bit of the division by the polynomial 0x04C1_1DB7. -/
def divBit (r : Nat) (b : Bool) : Nat :=
  let t := r * 2 + bitOf b
  if t.testBit 32 then t ^^^ 0x104C11DB7 else t

/-- The remainder of a byte string, most significant bits first, after another's. -/
def divBytes (r : Nat) (l : List Byte) : Nat :=
  l.foldl (fun r b => [7, 6, 5, 4, 3, 2, 1, 0].foldl (fun r i => divBit r (b.toNat.testBit i)) r) r

/-- The CRC-32 of a flit: over its sequence number and its payload (R348; log entry 61). -/
def flitCrc (q : BitVec 12) (payload : List Byte) : BitVec 32 :=
  BitVec.ofNat 32 (divBytes 0 ([BitVec.ofNat 8 (q.toNat / 256), BitVec.ofNat 8 q.toNat] ++ payload ++ List.replicate 4 0))

/-- A flit whose CRC does not fail. -/
def flitGood (f : Flit) : Bool := decide (f.crc = flitCrc f.seq f.payload)

/-- A flit as its sender puts it into a frame. -/
def flitOf (q : BitVec 12) (e : Transit) : Flit := ⟨q, e.payload, flitCrc q e.payload⟩

/-- The sender keeps a flit for replay, in a buffer of 256 flits, and sends it under the next number. -/
def LinkSt.launch (k : LinkSt) (e : Transit) : Option (LinkSt × BitVec 12 × Transit) :=
  if k.replay.length < 256 ∧ k.ahead k.nextSend < 256 then
    some ({ k with nextSend := k.nextSend + 1, replay := k.replay ++ [(k.nextSend, e)] }, k.nextSend, e)
  else none

/-- One flit of a frame on a channel, if the sender can send it. -/
def LinkSt.sendFlit (k : LinkSt) (ordered : Bool) : FlitOut → Option (LinkSt × BitVec 12 × Transit)
  | .fresh p => if p.length = 64 then k.launch ⟨ordered, p, none⟩ else none
  | .queued =>
    match k.queue with
    | [] => none
    | e :: rest => if e.ordered = ordered then { k with queue := rest }.launch e else none
  | .again q =>
    match k.replay.find? fun e => decide (e.1 = q) && decide (e.2.ordered = ordered) && k.resent.contains q with
    | some e => some ({ k with resent := k.resent.filter (· ≠ q) }, e)
    | none => none

/-- The flits of a frame, if the sender can send each. -/
def LinkSt.sendFlits (k : LinkSt) (ordered : Bool) : List FlitOut → Option (LinkSt × List (BitVec 12 × Transit))
  | [] => some (k, [])
  | f :: rest =>
    match k.sendFlit ordered f with
    | none => none
    | some (k, e) => (LinkSt.sendFlits k ordered rest).map fun r => (r.1, e :: r.2)

/-- Delivers in order what is held and skips what was delivered early; delivered flits are acknowledged. -/
def LinkSt.advance : Nat → LinkSt → LinkSt
  | 0, k => k
  | n + 1, k =>
    let q := k.nextRecv
    match k.heldFlits.find? fun e => e.1 = q with
    | some e => LinkSt.advance n { k with nextRecv := q + 1, heldFlits := k.heldFlits.filter (·.1 ≠ q)
                                          delivered := k.delivered ++ [e.2], replay := k.replay.filter (·.1 ≠ q) }
    | none =>
      if k.early.contains q then
        LinkSt.advance n { k with nextRecv := q + 1, early := k.early.filter (· ≠ q), replay := k.replay.filter (·.1 ≠ q) }
      else k

/-- A flit that was sent under number `q` comes out of a frame. A repeat of a delivered flit is dropped; on the ordered channel a flit
behind one that has not come is held, on the other it is delivered at once; a flit whose CRC fails is asked for again. -/
def LinkSt.receive (k : LinkSt) (q : BitVec 12) (e : Transit) (f : Flit) : LinkSt :=
  let fails := (k.wanted.find? fun w => w.1 = q).elim 0 (·.2)
  let rest := k.wanted.filter fun w => w.1 ≠ q
  if k.got q then { k with wanted := rest }
  else if ¬ flitGood f then { k with wanted := (q, fails + 1) :: rest }
  else
    let e := { e with payload := f.payload }
    let k := { k with wanted := rest }
    let k := if e.ordered then { k with heldFlits := (q, e) :: k.heldFlits.filter (·.1 ≠ q) }
      else { k with early := q :: k.early, delivered := k.delivered ++ [e] }
    k.advance 256

/-- The flits of a frame as they come out of it: those that were sent, or what forward error correction makes of a frame with errors. -/
def frameFlits (sent : List (BitVec 12 × Transit)) (wire : Option (List Flit × List Byte)) : List Flit :=
  match wire with
  | none => sent.map fun e => flitOf e.1 e.2
  | some w => Config.fecRepair w.1 w.2

/-- A frame of 8 flits is sent and comes out at the receiver, if the sender can send it. -/
def LinkSt.frame (k : LinkSt) (ordered : Bool) (sent : List FlitOut) (wire : Option (List Flit × List Byte)) : Option LinkSt :=
  if sent.length = 8 then
    (k.sendFlits ordered sent).map fun r =>
      (r.2.zip (frameFlits r.2 wire)).foldl (fun k e => k.receive e.1.1 e.1.2 e.2) r.1
  else none

/-- The link does not retrain: no flit of either direction has failed 8 times in a row, so that traffic waits at neither end. -/
def State.linkFlows (s : State) (l : LinkDir) : Bool :=
  [true, false].all fun up => (s.link ⟨l.link, up⟩).wanted.all fun w => decide (w.2 < 8)

/-- The two dies of a link. -/
def linkDies (n : Fin 7) : Nat × Nat :=
  match n with
  | 0 => (0, 1) | 1 => (1, 2) | 2 => (3, 4) | 3 => (4, 5) | 4 => (0, 3) | 5 => (1, 4) | 6 => (2, 5)

/-- The die that a direction leads to, and the one that it leaves. -/
def dieTo (l : LinkDir) : Nat := if l.up then (linkDies l.link).2 else (linkDies l.link).1

def dieFrom (l : LinkDir) : Nat := if l.up then (linkDies l.link).1 else (linkDies l.link).2

/-- Every direction. -/
def linkDirs : List LinkDir := (List.finRange 7).flatMap fun i => [⟨i, true⟩, ⟨i, false⟩]

/-- Dies from which a die is reached over at most `n` links that are up. -/
def State.diesWithin (s : State) (die : Nat) : Nat → List Nat
  | 0 => [die]
  | n + 1 =>
    let l := State.diesWithin s die n
    l ++ ((linkDirs.filter fun d => (s.link d).up && l.contains (dieTo d) && !l.contains (dieFrom d)).map fun d => dieFrom d).eraseDups

/-- The first direction of a shortest path between two dies over links that are up (R7, R350; log entry 61). -/
def State.firstHop (s : State) (src dst : Nat) : Option LinkDir :=
  match (List.range 6).find? fun n => (s.diesWithin dst n).contains src with
  | none | some 0 => none
  | some (n + 1) => linkDirs.find? fun d => (s.link d).up && decide (dieFrom d = src) && (s.diesWithin dst n).contains (dieTo d)

/-- A flit bound for another die waits at the first link of its path; one that no path leads to is lost with its die. -/
def State.forward (s : State) (die : Nat) (e : Transit) : State :=
  match e.dest with
  | none => s
  | some d =>
    match s.firstHop die d with
    | some l => s.mapLink l fun k => { k with queue := k.queue ++ [e] }
    | none => s

/-- `FLIT_RECEIVE`: the flits that it delivers and that are bound for another die go on. -/
def execFlitReceive (l : LinkDir) (ordered : Bool) (sent : List FlitOut) (wire : Option (List Flit × List Byte)) (s : State) :=
  s.event (s.linkFlows l && (s.link l).up) fun t =>
    match (t.link l).frame ordered sent wire with
    | none => t
    | some k => (k.delivered.drop (t.link l).delivered.length).foldl (fun t e => t.forward (dieTo l) e) (t.mapLink l fun _ => k)

/-- `REPEAT_REQUEST`: the sender resends the flit named, alone, from its replay buffer. -/
def execRepeatRequest (l : LinkDir) (seq : BitVec 12) (s : State) :=
  s.event ((s.link l).up && (s.link l).wanted.any fun w => decide (w.1 = seq)) fun t =>
    t.mapLink l fun k => if k.replay.any (fun e => decide (e.1 = seq)) ∧ ¬ k.resent.contains seq then { k with resent := seq :: k.resent } else k

/-! ## Retraining (R349, R350) -/

/-- A direction after a retraining that found `bad` more failed lanes: spares replace them, or it runs on 32 lanes. -/
def LinkSt.spare (k : LinkSt) (bad : Nat) : LinkSt :=
  let k := { k with wanted := k.wanted.map fun (w : BitVec 12 × Nat) => (w.1, 0) }
  if bad ≤ k.spares then { k with spares := k.spares - bad } else { k with lanes := 32, spares := 0 }

/-- What a direction has sent and not delivered, or has still to send, with the die that it is bound for. -/
def LinkSt.unsent (k : LinkSt) (far : Nat) : List Transit :=
  (((k.replay.filter fun e => !k.early.contains e.1).map (·.2)) ++ k.queue).map fun e => { e with dest := some (e.dest.getD far) }

/-- A direction of a link that is down. -/
def LinkSt.down (k : LinkSt) : LinkSt :=
  { k with up := false, replay := [], heldFlits := [], early := [], queue := [], wanted := [], resent := [], nextRecv := k.nextSend }

/-- A link goes down: the flits that it has not delivered are sent over the other links, each on its channel, in their order. -/
def State.linkDown (s : State) (n : Fin 7) : State :=
  let dirs : List LinkDir := [⟨n, true⟩, ⟨n, false⟩]
  let left := dirs.flatMap fun d => ((s.link d).unsent (dieTo d)).map fun e => (dieFrom d, e)
  left.foldl (fun s e => s.forward e.1 e.2) (dirs.foldl (fun s d => s.mapLink d LinkSt.down) s)

/-- Every link of a die is down. -/
def State.cutOff (s : State) (die : Nat) : Bool :=
  (List.range 7).all fun i =>
    if h : i < 7 then
      let d := linkDies ⟨i, h⟩
      !(decide (d.1 = die) || decide (d.2 = die)) || !(s.link ⟨⟨i, h⟩, true⟩).up
    else true

/-- A die that has lost all of its links is dead: every partition with a cluster on it is reset (R350). -/
def State.dieDead (s : State) (die : Nat) : State :=
  if s.mg.deadDies.contains die ∨ ¬ s.cutOff die then s
  else
    let s := s.mapMg fun m => { m with deadDies := die :: m.deadDies }
    ((s.parts.filter fun q => decide (0 < q.onDie die)).map (·.p)).foldl State.resetPart s

/-- A link retrains in one direction, or is down. -/
def State.retrain (s : State) (l : LinkDir) (bad : Nat) (trains : Bool) : State :=
  let (a, b) := linkDies l.link
  let detail := [l.link.val, bitOf l.up, bad]
  if trains then
    let s := s.mapLink l fun k => k.spare bad
    if bad = 0 then s else s.logAt a 0 .lane detail
  else
    let s := s.linkDown l.link
    ((s.logAt a 0 .link detail).dieDead a).dieDead b

/-- The link must retrain, which traffic waits for (R348): how many lanes have failed and whether it trains is free (log entry 9). -/
def State.retrainNow (s : State) (n : Fin 7) : State :=
  let (k, s) := s.draw
  let bad (up : Bool) : Nat := Config.failedLanes (2 * k + bitOf up) % 65
  let s := s.retrain ⟨n, true⟩ (bad true) (Config.trains k)
  if Config.trains k then s.retrain ⟨n, false⟩ (bad false) true else s

/-- `LINK_RETRAIN` -/
def execLinkRetrain (l : LinkDir) (bad : Nat) (trains : Bool) (s : State) :=
  s.event (s.link l).up fun t => t.retrain l bad trains

/-! ## Scale-out (R298, R362) -/

/-- A duplicate packet is dropped, and counted by the die of the port that it came by, or of the sector that it is for (R287, R362). -/
def State.dropScale (s : State) (peer : BitVec 16) (seq : BitVec 32) (m : ScaleMsg) : State :=
  match m with
  | .data pkt => s.dropDup pkt.addr
  | _ => s.countDup ((s.routeTo peer).elim 0 (·.val / 2)) [peer.toNat, seq.toNat]

/-- A packet of a peer: the next of its sequence is carried out and acknowledged, an earlier one is a duplicate, which is acknowledged
again, dropped and counted. An acknowledgement has no number. -/
def State.scaleIn (s : State) (peer : BitVec 16) (seq : BitVec 32) (m : ScaleMsg) : State :=
  let k := s.peer peer
  let waits : Bool :=
    match m with
    | .data pkt => (s.packetTaken pkt).isNone
    | _ => false
  match m with
  | .ack n => s.mapPeer peer fun q => { q with unacked := q.unacked.filter fun e => e.1 ≠ n }
  | _ =>
    if seq = k.nextRecv ∧ waits then s
    else if seq = k.nextRecv then
      ((s.mapPeer peer fun q => { q with nextRecv := q.nextRecv + 1 }).scaleMsg peer m).transmit peer 0 (.ack seq)
    else if reached k.nextRecv (seq + 1) then (s.dropScale peer seq m).transmit peer 0 (.ack seq)
    else s

/-- `SCALEOUT_PACKET_RECEIVE`: a package whose id is not set receives nothing. -/
def execScaleoutPacketReceive (peer : BitVec 16) (seq : BitVec 32) (msg : ScaleMsg) (s : State) :=
  s.event (decide (s.mg.pkgid ≠ 0xFFFF)) fun t => t.scaleIn peer seq msg

/-- A packet to a peer has not been acknowledged for 20 µs. -/
def State.resendDue (s : State) (peer : BitVec 16) (seq : BitVec 32) : Bool :=
  (s.peer peer).unacked.any fun e => decide (e.1 = seq) && decide (e.2.1 + 20000 ≤ s.nstime)

/-- The packets with a number that a peer has not acknowledged are sent again. -/
def State.resend (s : State) (peer : BitVec 16) (seq : BitVec 32) : State :=
  let again := (s.peer peer).unacked.filter fun e => decide (e.1 = seq)
  let t := s.mapPeer peer fun q => { q with unacked := q.unacked.map fun e => if e.1 = seq then (e.1, s.nstime, e.2.2) else e }
  again.foldl (fun t e => t.transmit peer seq e.2.2) t

/-- `SCALEOUT_RESEND`: the packet is sent again. -/
def execScaleoutResend (peer : BitVec 16) (seq : BitVec 32) (s : State) :=
  s.event (s.resendDue peer seq) fun t => t.resend peer seq

end Sys2Proof.Machine
end

