-- ==== Sys2Proof/Machine/Mgmt.lean ====
section
/-!
DEFINITION. The Vemund management controller, boot, freeze, and the asynchronous traps that the control stream takes
(14_clocks R320, 15_traps R333, 16_package R354, R362 to R368).
-/

namespace Sys2Proof.Machine

/-! ## Sensors and thermal limits (R320, R363) -/

/-- A thermal action is logged. -/
def State.logThermal (s : State) (die : Nat) (t : Int) : State := s.logAt die 0 .thermal [t.toNat]

/-- The hottest sensor of a die. -/
def State.hottest (s : State) (die : Nat) : Int :=
  (List.range 8).foldl (fun a i => max a (Table.get 0 s.mg.temps (8 * die + i))) (Table.get 0 s.mg.temps (8 * die))

/-- The limit that a temperature asks for, in percent, given the one that stands. -/
def limitAt (t : Int) (now : Option Nat) : Option Nat :=
  if 105 ≤ t then some 40 else if 95 ≤ t then some 75 else if t < 90 then none else now

/-- Partitions with a cluster on a die. -/
def State.partsOn (s : State) (die : Nat) : List Part := (s.parts.filter fun q => decide (0 < q.onDie die)).map (·.p)

/-- A die's limit changes: a limit that is set ends the locks of the die and is evaluated at once (R320). A frozen part evaluates nothing
(R368). -/
def State.setLimit (s : State) (die : Nat) (l : Option Nat) : State :=
  let s := s.mapPw fun w => { w with limit := w.limit.set! die l }
  if s.mg.frozen then s
  else match l with
  | none => (s.partsOn die).foldl State.trigger s
  | some _ => (s.evaluateNow ((List.range 16).map (16 * die + ·)) (s.partsOn die)).shedTeams

/-- A sensor reading, with the action that the hottest sensor of the die asks for. -/
def State.sample (s : State) (die sensor : Nat) (t : Int) : State :=
  let s := s.mapMg fun m => { m with temps := Table.set 0 m.temps (8 * die + sensor) t }
  let hot := s.hottest die
  let now := s.pw.limit.toList.getD die none
  if 115 ≤ hot then (s.logThermal die hot).mapMg fun m => { m with poweredOff := true }
  else
    let want := limitAt hot now
    if want = now then s else (s.logThermal die hot).setLimit die want

/-- Readings of voltage monitors, by rail (R363; log entry 30). -/
def MgmtSt.setVolts (m : MgmtSt) (l : List (Nat × Int)) : MgmtSt :=
  { m with volts := l.foldl (fun t e => Table.set 0 t e.1 e.2) m.volts }

/-- `THERMAL_SAMPLE` -/
def execThermalSample (die : Die) (sensor : Fin 8) (temp : Sample) (s : State) :=
  s.event true fun t => (t.mapMg (·.setVolts temp.rails)).sample die.val sensor.val temp.temp

/-- The last reading of a sensor: a thermal one of a die, or a rail's. -/
def MgmtSt.reading (m : MgmtSt) (die : Die) : Sensor → Int
  | .temp n => Table.get 0 m.temps (8 * die.val + n.val)
  | .volt rail => Table.get 0 m.volts rail

/-- `NUMERIC_SENSOR_READ` -/
def execNumericSensorRead (die : Die) (sensor : Sensor) (s : State) :=
  s.event true fun t => t.mapMg fun m => { m with lastRead := some (m.reading die sensor) }

/-- `NUMERIC_EFFECTER_SET`: the module cap, as CAP sets it (R15). -/
def execNumericEffecterSet (watts : Nat) (s : State) :=
  s.event (decide (1800 ≤ watts) && decide (watts ≤ 5000)) fun t => t.setCap watts

/-! ## The error log (R364) -/

/-- `LOG_MIRROR`: the log's entries are in SPI flash. -/
def execLogMirror (s : State) := s.event true fun t => t.mapMg fun m => { m with flash := m.log }

/-- `LOG_READ_CLEAR`: the host reads the log and clears it. -/
def execLogReadClear (s : State) := s.event true fun t => t.mapMg fun m => { m with logRead := m.log, log := [], flash := [] }

/-! ## Firmware (R365) -/

/-- The update's stage. -/
def MgmtSt.at (m : MgmtSt) (u : UpdateStage) : MgmtSt := { m with update := u }

/-- `REQUESTUPDATE` -/
def execRequestUpdate (s : State) := s.event (decide (s.mg.update = .idle)) fun t => t.mapMg (·.at .requested)

/-- `PASSCOMPONENTTABLE` -/
def execPassComponentTable (s : State) := s.event (decide (s.mg.update = .requested)) fun t => t.mapMg (·.at .tablePassed)

/-- `UPDATECOMPONENT` -/
def execUpdateComponent (comp : Component) (s : State) :=
  s.event (decide (s.mg.update = .tablePassed)) fun t => t.mapMg (·.at (.updating comp))

/-- `FIRMWARE_TRANSFER`: an image whose signature fails is refused and left inactive. -/
def execFirmwareTransfer (comp : Component) (version : Nat) (sigOk : Bool) (s : State) :=
  s.event (decide (s.mg.update = .updating comp)) fun t =>
    t.mapMg (·.at (if sigOk then .verified comp version else .tablePassed))

/-- A component's active version. -/
def MgmtSt.activate (m : MgmtSt) (c : Component) (v : Nat) : MgmtSt := { m with versions := m.versions.set! (componentIx c) v }

/-- The live dies other than the leader's, in order. -/
def State.followers (s : State) : List Nat := (List.range 6).filter fun d => decide (d ≠ s.mg.lease) && !s.mg.deadDies.contains d

/-- A verified image is activated: Vemund's roles swap, the die controllers restart one by one, and the power table and Nougat's microcode
wait for the next evaluation or self-test. -/
def State.activate (s : State) (c : Component) (v : Nat) : State :=
  let s := s.mapMg (·.at .idle)
  match c with
  | .vemund => s.mapMg fun m => { m.activate c v with activeDie := 3 - m.activeDie }
  | .dieController => s.mapMg fun m => { m with restart := some ⟨v, s.followers, none, [], false⟩ }
  | _ => s.mapMg fun m => { m with pendingVersions := m.pendingVersions.set! (componentIx c) (some v) }

/-- A die controller begins to restart, which pauses placement on its die for at most 5 ms (R365; log entry 9). -/
def State.beginRestart (s : State) (r : Restart) (die : Nat) : State :=
  let (n, s) := s.draw
  s.mapMg fun m => { m with restart := some { r with now := some (die, s.nstime + Config.restartTime n % 5000001) } }

/-- The next step of a restart of the die controllers: a follower that is done is updated, and the next begins; after the last one the leader
hands its lease to the lowest-numbered updated follower and restarts; then the image is active (R365). -/
def State.nextRestart (s : State) (r : Restart) : State :=
  let live (d : Nat) : Bool := !s.mg.deadDies.contains d
  let r : Restart := { r with updated := r.updated ++ (r.now.map (·.1)).toList, now := none }
  match r.left.filter live with
  | d :: rest => s.beginRestart { r with left := rest } d
  | [] =>
    if r.leader then s.mapMg fun m => { m.activate .dieController r.version with restart := none }
    else
      let old := s.mg.lease
      let s := match (sortNat r.updated).find? live with
        | some d => s.mapMg fun m => { m with lease := d, leaseUntil := s.nstime + 5000000 }
        | none => s
      s.beginRestart { r with left := [], leader := true } old

/-- A restart's next step is due. -/
def State.restartDue (s : State) : Bool := s.mg.restart.any fun r => r.now.all fun e => decide (e.2 ≤ s.nstime)

/-- The restart goes on. -/
def State.goRestart (s : State) : State :=
  match s.mg.restart with
  | some r => s.nextRestart r
  | none => s

/-- `ACTIVATEFIRMWARE` -/
def execActivateFirmware (comp : Component) (s : State) :=
  s.event true fun t =>
    match t.mg.update with
    | .verified c v => if c = comp then t.activate c v else t
    | _ => t

/-! ## The two controllers (R366) -/

/-- `HEARTBEAT` -/
def execHeartbeat (arrived : Bool) (s : State) :=
  s.event true fun t => t.mapMg fun m => { m with missed := if arrived then 0 else m.missed + 1 }

/-- `VEMUND_FAILOVER`: after 10 missed heartbeats the standby is active, with the log that flash holds. -/
def execVemundFailover (s : State) :=
  s.event (decide (10 ≤ s.mg.missed)) fun t =>
    (t.mapMg fun m => { m with activeDie := 3 - m.activeDie, log := m.flash, missed := 0 }).logAt (3 - t.mg.activeDie) 0 .failover []

/-! ## Reset, boot and freeze (R354, R367, R368) -/

/-- The part after module reset: what SPI flash holds stays. -/
def State.moduleReset (s : State) : State :=
  { State.reset with
      fresh := s.fresh, agenda := s.agenda, turn := s.turn
      mg := { MgmtSt.init with mode := s.mg.mode, flash := s.mg.flash, log := s.mg.flash, versions := s.mg.versions } }

/-- `MODULE_RESET` -/
def execModuleReset (s : State) := s.event true State.moduleReset

/-- A core after its self-test at boot `n`: the state of its arrays, and whether the core itself or its SRAMs have failed (R367; log entry
9). -/
def bootCore (n c : Nat) : Core :=
  { Core.init with mainFailed := Config.selfTestFails n c 0, shadowFailed := Config.selfTestFails n c 1, degraded := Config.selfTestFails n c 2 || Config.selfTestFails n c 3 }

/-- The cores after their self-test at boot `n`. -/
def bootCores (n : Nat) : Table Core := (List.range 768).foldl (fun t c => Table.set Core.init t c (bootCore n c)) []

/-- A die has failed its boot: both HBM stacks have failed their training or test, or every core its self-test (R367). -/
def bootDead (n die : Nat) : Bool :=
  (Config.stackFails n (2 * die) && Config.stackFails n (2 * die + 1)) || (List.range 128).all fun i =>
    let c := bootCore n (128 * die + i)
    c.degraded || (c.mainFailed && c.shadowFailed)

/-- The links train at boot `n`: one that does not is down, and a die that is cut off is dead (R349, R350, R367; log entry 9). -/
def State.trainLinks (s : State) (n : Nat) : State :=
  (List.finRange 7).foldl (fun s i => if Config.linkFails n i.val then s.retrain ⟨i, true⟩ 0 false else s) s

/-- The self-test of every Nougat: a failed one fails every arbitration of its cluster until a module reset, and microcode that waits
for the self-test is loaded (R213, R365). -/
def State.testNougats (s : State) : State :=
  let (n, s) := (s.loadPending .nougat).draw
  s.mapMg fun m =>
    { m with testedAt := s.nstime / 1000000000
             nougatBad := m.nougatBad ++ (List.range 96).filter fun c => !m.nougatBad.contains c && Config.nougatFails n c }

/-- A second of NSTIME has begun since the last self-test (R213). -/
def State.testDue (s : State) : Bool := decide (s.mg.testedAt < s.nstime / 1000000000)

/-- Boot completes: Vemund's image agrees with its signature, links and stacks have trained, self-tests have set the states of cores, arrays
and Nougats, a die that failed entirely is dead, the power table is loaded, and the lowest live die takes the lease (R95, R213, R317, R350,
R367). An image that does not is not run, and no later step of the boot comes (log entry 14). -/
def State.boot (s : State) : State :=
  if s.mg.booted then s
  else
    let (n, s) := s.draw
    if ¬ Config.imageOk n then s else
    let s := s.trainLinks n
    let dead := (List.range 6).filter fun d => bootDead n d && !s.mg.deadDies.contains d
    let s := { s with cores := bootCores n, mg := { s.mg with booted := true, trained := true, badStacks := (List.range 12).filter (Config.stackFails n), deadDies := s.mg.deadDies ++ dead } }
    let s := s.mapMg fun m => { m with lease := s.lowestDie, leaseUntil := s.nstime + 5000000 }
    (s.testNougats).loadTable (s.mg.versions.toList.getD 2 0)

/-- Every clock of the part stops; links, ports and HBM lose their training. -/
def State.freeze (s : State) : State :=
  { s.mapMg (fun m => { m with frozen := true, trained := false }) with
      net := { s.net with links := s.net.links.map fun k => { k with up := false } } }

/-- `FREEZE` -/
def execFreeze (s : State) := s.event true State.freeze

/-- A register of a context, as it stands. -/
def State.tapCtx (s : State) (k : CtxKey) (f : State → Nat) : Nat := (s.focus k).elim 0 f

/-- What a TAP access reads (log entry 15). -/
def State.tapValue (s : State) : TapTarget → Nat
  | .sram pa => if hbmTop ≤ pa then ((s.mem.getBytes pa 1).headD 0).toNat else 0
  | .xreg k i => s.tapCtx k fun t => t.ctx.c.x[i].toNat
  | .sr k n => s.tapCtx k fun t => (t.readSr n.toNat).toNat
  | .preg k i => s.tapCtx k fun t => t.ctx.p[i].toNat
  | .slot core shadow band place word =>
    let c := s.core core.val
    let st := if shadow then c.shadow else c.main
    leValue (st.slots.get .zero (1024 * band.val + place)).bytes / 2 ^ (32 * word) % 2 ^ 32
  | .lfsr die column row => (s.lfsr die.val column.val row.val).toNat
  | .duplicates die => s.ms.dupCount[die]
  | .ratio cl => (s.grantWord cl.val).toNat

/-- `TAP_ACCESS`: state of a frozen part is read, and none of it changes. -/
def execTapAccess (what : TapTarget) (s : State) :=
  s.event s.mg.frozen fun t => t.mapMg fun m => { m with tapRead := some (t.tapValue what) }

/-- `PRESENTATION_MODE_SET`: only while no partition exists (R354). -/
def execPresentationModeSet (mode : Mode) (s : State) :=
  s.event s.parts.isEmpty fun t => t.mapMg fun m => { m with mode := mode }

/-- `PACKAGE_ID_SET` (R362) -/
def execPackageIdSet (id : BitVec 16) (s : State) := s.event true fun t => t.mapMg fun m => { m with pkgid := id }

/-- `ROUTE_TABLE_LOAD` (R362) -/
def execRouteTableLoad (tbl : List Route) (s : State) := s.event true fun t => t.mapMg fun m => { m with routes := tbl }

/-- What a function's configuration space says of a feature: SR-IOV stands in the physical function alone (R355; log entry 62). -/
def cfgValue (fn : Fn) : CfgReg → Nat
  | .maxPayload => maxPayload
  | .relaxedOrdering | .tags10 | .tags14 => 1
  | .sriov => bitOf (decide (fn = 0))
  | .ats | .pasid | .ido | .ptm => 0
  | .other off => (Config.cfgWord fn off).toNat

/-- `CONFIGURATION_REQUEST`: an answer, the same through either port, once boot has completed, Configuration Request Retry Status before
(R355, R367). -/
def execConfigurationRequest (fn : PortFn) (reg : CfgReg) (s : State) :=
  s.event true fun t => t.mapMg fun m => { m with cfgAnswer := some (if m.booted && m.trained then .value (cfgValue fn.fn reg) else .retry) }

/-! ## Asynchronous traps (R328, R333) -/

/-- `ASYNC_TRAP_TAKEN`: the context's C stream stands at a boundary and takes its oldest pending trap. -/
def execAsyncTrapTaken (k : CtxKey) (s : State) := s.eventOn k fun t => if t.trapDue then t.takePending else t

end Sys2Proof.Machine
end

