-- ==== Sys2Proof/Machine/Dispatch.lean ====
section
/-!
DEFINITION. One arm per instruction or step of the part: its meaning, or its refusal by name.
-/

namespace Sys2Proof.Machine

/-- The effect of an instruction of the acting stream, or of a step of the part. -/
def exec (i : Instr) (s : State) : Host.Outcome State Fault Refusal :=
  match i with
  | .nop sy => Sys2Proof.Machine.execNop sy s
  | .done sy => Sys2Proof.Machine.execDone sy s
  | .yield sy => Sys2Proof.Machine.execYield sy s
  | .trap sy imm => Sys2Proof.Machine.execTrap sy imm s
  | .eret sy => Sys2Proof.Machine.execEret sy s
  | .brk sy => Sys2Proof.Machine.execBrk sy s
  | .wfe sy m => Sys2Proof.Machine.execWfe sy m s
  | .evclr sy m => Sys2Proof.Machine.execEvclr sy m s
  | .ret sy => Sys2Proof.Machine.execRet sy s
  | .fence sy classes scope ro => Sys2Proof.Machine.execFence sy classes scope ro s
  | .add sy rd ra rb => Sys2Proof.Machine.execAdd sy rd ra rb s
  | .sub sy rd ra rb => Sys2Proof.Machine.execSub sy rd ra rb s
  | .and sy rd ra rb => Sys2Proof.Machine.execAnd sy rd ra rb s
  | .or sy rd ra rb => Sys2Proof.Machine.execOr sy rd ra rb s
  | .xor sy rd ra rb => Sys2Proof.Machine.execXor sy rd ra rb s
  | .shl sy rd ra rb => Sys2Proof.Machine.execShl sy rd ra rb s
  | .shr sy rd ra rb => Sys2Proof.Machine.execShr sy rd ra rb s
  | .sra sy rd ra rb => Sys2Proof.Machine.execSra sy rd ra rb s
  | .mul sy rd ra rb => Sys2Proof.Machine.execMul sy rd ra rb s
  | .mulh sy rd ra rb => Sys2Proof.Machine.execMulh sy rd ra rb s
  | .mulhu sy rd ra rb => Sys2Proof.Machine.execMulhu sy rd ra rb s
  | .div sy rd ra rb => Sys2Proof.Machine.execDiv sy rd ra rb s
  | .divu sy rd ra rb => Sys2Proof.Machine.execDivu sy rd ra rb s
  | .rem sy rd ra rb => Sys2Proof.Machine.execRem sy rd ra rb s
  | .remu sy rd ra rb => Sys2Proof.Machine.execRemu sy rd ra rb s
  | .min sy rd ra rb => Sys2Proof.Machine.execMin sy rd ra rb s
  | .max sy rd ra rb => Sys2Proof.Machine.execMax sy rd ra rb s
  | .minu sy rd ra rb => Sys2Proof.Machine.execMinu sy rd ra rb s
  | .maxu sy rd ra rb => Sys2Proof.Machine.execMaxu sy rd ra rb s
  | .mov sy rd ra => Sys2Proof.Machine.execMov sy rd ra s
  | .popc sy rd ra => Sys2Proof.Machine.execPopc sy rd ra s
  | .clz sy rd ra => Sys2Proof.Machine.execClz sy rd ra s
  | .ctz sy rd ra => Sys2Proof.Machine.execCtz sy rd ra s
  | .addi sy rd ra imm => Sys2Proof.Machine.execAddi sy rd ra imm s
  | .addiLen1 sy rd ra imm => Sys2Proof.Machine.execAddiLen1 sy rd ra imm s
  | .addiLen2 sy rd ra imm => Sys2Proof.Machine.execAddiLen2 sy rd ra imm s
  | .andi sy rd ra imm => Sys2Proof.Machine.execAndi sy rd ra imm s
  | .andiLen1 sy rd ra imm => Sys2Proof.Machine.execAndiLen1 sy rd ra imm s
  | .andiLen2 sy rd ra imm => Sys2Proof.Machine.execAndiLen2 sy rd ra imm s
  | .ori sy rd ra imm => Sys2Proof.Machine.execOri sy rd ra imm s
  | .oriLen1 sy rd ra imm => Sys2Proof.Machine.execOriLen1 sy rd ra imm s
  | .oriLen2 sy rd ra imm => Sys2Proof.Machine.execOriLen2 sy rd ra imm s
  | .xori sy rd ra imm => Sys2Proof.Machine.execXori sy rd ra imm s
  | .xoriLen1 sy rd ra imm => Sys2Proof.Machine.execXoriLen1 sy rd ra imm s
  | .xoriLen2 sy rd ra imm => Sys2Proof.Machine.execXoriLen2 sy rd ra imm s
  | .shli sy rd ra imm => Sys2Proof.Machine.execShli sy rd ra imm s
  | .shliLen1 sy rd ra imm => Sys2Proof.Machine.execShliLen1 sy rd ra imm s
  | .shliLen2 sy rd ra imm => Sys2Proof.Machine.execShliLen2 sy rd ra imm s
  | .shri sy rd ra imm => Sys2Proof.Machine.execShri sy rd ra imm s
  | .shriLen1 sy rd ra imm => Sys2Proof.Machine.execShriLen1 sy rd ra imm s
  | .shriLen2 sy rd ra imm => Sys2Proof.Machine.execShriLen2 sy rd ra imm s
  | .srai sy rd ra imm => Sys2Proof.Machine.execSrai sy rd ra imm s
  | .sraiLen1 sy rd ra imm => Sys2Proof.Machine.execSraiLen1 sy rd ra imm s
  | .sraiLen2 sy rd ra imm => Sys2Proof.Machine.execSraiLen2 sy rd ra imm s
  | .li sy rd imm => Sys2Proof.Machine.execLi sy rd imm s
  | .liLen1 sy rd imm => Sys2Proof.Machine.execLiLen1 sy rd imm s
  | .liLen2 sy rd imm => Sys2Proof.Machine.execLiLen2 sy rd imm s
  | .muli sy rd ra imm => Sys2Proof.Machine.execMuli sy rd ra imm s
  | .muliLen1 sy rd ra imm => Sys2Proof.Machine.execMuliLen1 sy rd ra imm s
  | .muliLen2 sy rd ra imm => Sys2Proof.Machine.execMuliLen2 sy rd ra imm s
  | .cmp sy pd cc ra rb => Sys2Proof.Machine.execCmp sy pd cc ra rb s
  | .cmpi sy pd cc ra imm => Sys2Proof.Machine.execCmpi sy pd cc ra imm s
  | .cmpiLen1 sy pd cc ra imm => Sys2Proof.Machine.execCmpiLen1 sy pd cc ra imm s
  | .pand sy pd pa pb => Sys2Proof.Machine.execPand sy pd pa pb s
  | .por sy pd pa pb => Sys2Proof.Machine.execPor sy pd pa pb s
  | .pxor sy pd pa pb => Sys2Proof.Machine.execPxor sy pd pa pb s
  | .pandn sy pd pa pb => Sys2Proof.Machine.execPandn sy pd pa pb s
  | .pnot sy pd pa => Sys2Proof.Machine.execPnot sy pd pa s
  | .pset sy pd => Sys2Proof.Machine.execPset sy pd s
  | .pclr sy pd => Sys2Proof.Machine.execPclr sy pd s
  | .pmov sy pd pa => Sys2Proof.Machine.execPmov sy pd pa s
  | .pcnt sy rd pa => Sys2Proof.Machine.execPcnt sy rd pa s
  | .br sy disp => Sys2Proof.Machine.execBr sy disp s
  | .brLen1 sy disp => Sys2Proof.Machine.execBrLen1 sy disp s
  | .bp sy p sense disp => Sys2Proof.Machine.execBp sy p sense disp s
  | .bpLen1 sy p sense disp => Sys2Proof.Machine.execBpLen1 sy p sense disp s
  | .bany sy p sense disp => Sys2Proof.Machine.execBany sy p sense disp s
  | .banyLen1 sy p sense disp => Sys2Proof.Machine.execBanyLen1 sy p sense disp s
  | .ball sy p sense disp => Sys2Proof.Machine.execBall sy p sense disp s
  | .ballLen1 sy p sense disp => Sys2Proof.Machine.execBallLen1 sy p sense disp s
  | .call sy disp => Sys2Proof.Machine.execCall sy disp s
  | .callLen1 sy disp => Sys2Proof.Machine.execCallLen1 sy disp s
  | .bri sy ra => Sys2Proof.Machine.execBri sy ra s
  | .calli sy ra => Sys2Proof.Machine.execCalli sy ra s
  | .ld sy rd ra cls hint sz => Sys2Proof.Machine.execLd sy rd ra cls hint sz s
  | .ldLen1 sy rd ra cls hint sz off => Sys2Proof.Machine.execLdLen1 sy rd ra cls hint sz off s
  | .lds sy rd ra cls hint sz => Sys2Proof.Machine.execLds sy rd ra cls hint sz s
  | .ldsLen1 sy rd ra cls hint sz off => Sys2Proof.Machine.execLdsLen1 sy rd ra cls hint sz off s
  | .ldro sy rd ra cls hint sz => Sys2Proof.Machine.execLdro sy rd ra cls hint sz s
  | .ldroLen1 sy rd ra cls hint sz off => Sys2Proof.Machine.execLdroLen1 sy rd ra cls hint sz off s
  | .st sy rs ra cls hint sz => Sys2Proof.Machine.execSt sy rs ra cls hint sz s
  | .stLen1 sy rs ra cls hint sz off => Sys2Proof.Machine.execStLen1 sy rs ra cls hint sz off s
  | .mfsr sy rd sr => Sys2Proof.Machine.execMfsr sy rd sr s
  | .mtsr sy sr rs => Sys2Proof.Machine.execMtsr sy sr rs s
  | .ego sy e ra => Sys2Proof.Machine.execEgo sy e ra s
  | .ewait sy e => Sys2Proof.Machine.execEwait sy e s
  | .estat sy rd e => Sys2Proof.Machine.execEstat sy rd e s
  | .fqpush sy ra => Sys2Proof.Machine.execFqpush sy ra s
  | .pqpush sy q ra => Sys2Proof.Machine.execPqpush sy q ra s
  | .tmap sy hd ra rb rights => Sys2Proof.Machine.execTmap sy hd ra rb rights s
  | .tunmap sy hd => Sys2Proof.Machine.execTunmap sy hd s
  | .tquery sy rd hd => Sys2Proof.Machine.execTquery sy rd hd s
  | .binit sy b => Sys2Proof.Machine.execBinit sy b s
  | .bexp sy b ra => Sys2Proof.Machine.execBexp sy b ra s
  | .barr sy b ra => Sys2Proof.Machine.execBarr sy b ra s
  | .bwait sy b k => Sys2Proof.Machine.execBwait sy b k s
  | .btest sy pd b k => Sys2Proof.Machine.execBtest sy pd b k s
  | .amo sy op dbl cls scope ret acq rel rd ra rb => Sys2Proof.Machine.execAmo sy op dbl cls scope ret acq rel rd ra rb s
  | .cas sy dbl cls scope acq rel rd ra rb => Sys2Proof.Machine.execCas sy dbl cls scope acq rel rd ra rb s
  | .red sy op dbl cls ra rb => Sys2Proof.Machine.execRed sy op dbl cls ra rb s
  | .cbr sy op hint p disp => Sys2Proof.Machine.execCbr sy op hint p disp s
  | .cbrLen1 sy op hint p disp => Sys2Proof.Machine.execCbrLen1 sy op hint p disp s
  | .cleave sy => Sys2Proof.Machine.execCleave sy s
  | .cquery sy rd => Sys2Proof.Machine.execCquery sy rd s
  | .xcoll sy hd hs red ty b src dst => Sys2Proof.Machine.execXcoll sy hd hs red ty b src dst s
  | .gsig sy ra => Sys2Proof.Machine.execGsig sy ra s
  | .getratio sy rd => Sys2Proof.Machine.execGetratio sy rd s
  | .rlock sy => Sys2Proof.Machine.execRlock sy s
  | .runlock sy => Sys2Proof.Machine.execRunlock sy s
  | .amalloc sy rd ra => Sys2Proof.Machine.execAmalloc sy rd ra s
  | .amfree sy ra => Sys2Proof.Machine.execAmfree sy ra s
  | .amfreeDiscard sy ra => Sys2Proof.Machine.execAmfreeDiscard sy ra s
  | .amgrant sy rd ra rb => Sys2Proof.Machine.execAmgrant sy rd ra rb s
  | .amquery sy rd ra => Sys2Proof.Machine.execAmquery sy rd ra s
  | .vwait sy rd => Sys2Proof.Machine.execVwait sy rd s
  | .vsig sy rd => Sys2Proof.Machine.execVsig sy rd s
  | .vstat sy rd => Sys2Proof.Machine.execVstat sy rd s
  | .pref sy ra rb hint => Sys2Proof.Machine.execPref sy ra rb hint s
  | .wbr sy ra rb => Sys2Proof.Machine.execWbr sy ra rb s
  | .invr sy ra rb => Sys2Proof.Machine.execInvr sy ra rb s
  | .rinv sy ra rb => Sys2Proof.Machine.execRinv sy ra rb s
  | .icinv sy ra rb => Sys2Proof.Machine.execIcinv sy ra rb s
  | .slres sy rd sl => Sys2Proof.Machine.execSlres sy rd sl s
  | .slpost sy sl => Sys2Proof.Machine.execSlpost sy sl s
  | .slacq sy rd sl => Sys2Proof.Machine.execSlacq sy rd sl s
  | .slrel sy sl => Sys2Proof.Machine.execSlrel sy sl s
  | .vend sy => Sys2Proof.Machine.execVend sy s
  | .vpq sy vsd => Sys2Proof.Machine.execVpq sy vsd s
  | .vsetvl sy vsd vsa => Sys2Proof.Machine.execVsetvl sy vsd vsa s
  | .vflgr sy vd => Sys2Proof.Machine.execVflgr sy vd s
  | .vflgc sy => Sys2Proof.Machine.execVflgc sy s
  | .vview sy vd vsa => Sys2Proof.Machine.execVview sy vd vsa s
  | .vgetv sy vsd va => Sys2Proof.Machine.execVgetv sy vsd va s
  | .fadd sy vd va vb e1 => Sys2Proof.Machine.execFadd sy vd va vb e1 s
  | .fsub sy vd va vb e1 => Sys2Proof.Machine.execFsub sy vd va vb e1 s
  | .fmul sy vd va vb e1 => Sys2Proof.Machine.execFmul sy vd va vb e1 s
  | .fmin sy vd va vb e1 => Sys2Proof.Machine.execFmin sy vd va vb e1 s
  | .fmax sy vd va vb e1 => Sys2Proof.Machine.execFmax sy vd va vb e1 s
  | .fma sy vd va vb e1 => Sys2Proof.Machine.execFma sy vd va vb e1 s
  | .fms sy vd va vb e1 => Sys2Proof.Machine.execFms sy vd va vb e1 s
  | .fnma sy vd va vb e1 => Sys2Proof.Machine.execFnma sy vd va vb e1 s
  | .fabs sy vd va e1 => Sys2Proof.Machine.execFabs sy vd va e1 s
  | .fneg sy vd va e1 => Sys2Proof.Machine.execFneg sy vd va e1 s
  | .frcp sy vd va e1 => Sys2Proof.Machine.execFrcp sy vd va e1 s
  | .frsq sy vd va e1 => Sys2Proof.Machine.execFrsq sy vd va e1 s
  | .fsqrt sy vd va e1 => Sys2Proof.Machine.execFsqrt sy vd va e1 s
  | .fexp2 sy vd va e1 => Sys2Proof.Machine.execFexp2 sy vd va e1 s
  | .flog2 sy vd va e1 => Sys2Proof.Machine.execFlog2 sy vd va e1 s
  | .fsin sy vd va e1 => Sys2Proof.Machine.execFsin sy vd va e1 s
  | .fcos sy vd va e1 => Sys2Proof.Machine.execFcos sy vd va e1 s
  | .frnd sy vd va e1 => Sys2Proof.Machine.execFrnd sy vd va e1 s
  | .feq sy pd va vb e1 => Sys2Proof.Machine.execFeq sy pd va vb e1 s
  | .fne sy pd va vb e1 => Sys2Proof.Machine.execFne sy pd va vb e1 s
  | .flt sy pd va vb e1 => Sys2Proof.Machine.execFlt sy pd va vb e1 s
  | .fle sy pd va vb e1 => Sys2Proof.Machine.execFle sy pd va vb e1 s
  | .fun sy pd va vb e1 => Sys2Proof.Machine.execFun sy pd va vb e1 s
  | .iadd sy vd va vb e1 => Sys2Proof.Machine.execIadd sy vd va vb e1 s
  | .isub sy vd va vb e1 => Sys2Proof.Machine.execIsub sy vd va vb e1 s
  | .imul sy vd va vb e1 => Sys2Proof.Machine.execImul sy vd va vb e1 s
  | .imulh sy vd va vb e1 => Sys2Proof.Machine.execImulh sy vd va vb e1 s
  | .imulhu sy vd va vb e1 => Sys2Proof.Machine.execImulhu sy vd va vb e1 s
  | .imin sy vd va vb e1 => Sys2Proof.Machine.execImin sy vd va vb e1 s
  | .imax sy vd va vb e1 => Sys2Proof.Machine.execImax sy vd va vb e1 s
  | .iminu sy vd va vb e1 => Sys2Proof.Machine.execIminu sy vd va vb e1 s
  | .imaxu sy vd va vb e1 => Sys2Proof.Machine.execImaxu sy vd va vb e1 s
  | .iand sy vd va vb e1 => Sys2Proof.Machine.execIand sy vd va vb e1 s
  | .ior sy vd va vb e1 => Sys2Proof.Machine.execIor sy vd va vb e1 s
  | .ixor sy vd va vb e1 => Sys2Proof.Machine.execIxor sy vd va vb e1 s
  | .ishl sy vd va vb e1 => Sys2Proof.Machine.execIshl sy vd va vb e1 s
  | .ishr sy vd va vb e1 => Sys2Proof.Machine.execIshr sy vd va vb e1 s
  | .isra sy vd va vb e1 => Sys2Proof.Machine.execIsra sy vd va vb e1 s
  | .iadds sy vd va vb e1 => Sys2Proof.Machine.execIadds sy vd va vb e1 s
  | .isubs sy vd va vb e1 => Sys2Proof.Machine.execIsubs sy vd va vb e1 s
  | .iabs sy vd va e1 => Sys2Proof.Machine.execIabs sy vd va e1 s
  | .ieq sy pd va vb e1 => Sys2Proof.Machine.execIeq sy pd va vb e1 s
  | .ine sy pd va vb e1 => Sys2Proof.Machine.execIne sy pd va vb e1 s
  | .ilt sy pd va vb e1 => Sys2Proof.Machine.execIlt sy pd va vb e1 s
  | .ige sy pd va vb e1 => Sys2Proof.Machine.execIge sy pd va vb e1 s
  | .iltu sy pd va vb e1 => Sys2Proof.Machine.execIltu sy pd va vb e1 s
  | .igeu sy pd va vb e1 => Sys2Proof.Machine.execIgeu sy pd va vb e1 s
  | .bfx sy vd va e1 => Sys2Proof.Machine.execBfx sy vd va e1 s
  | .bfxu sy vd va e1 => Sys2Proof.Machine.execBfxu sy vd va e1 s
  | .bfi sy vd va e1 => Sys2Proof.Machine.execBfi sy vd va e1 s
  | .fshl sy vd va vb e1 => Sys2Proof.Machine.execFshl sy vd va vb e1 s
  | .fshr sy vd va vb e1 => Sys2Proof.Machine.execFshr sy vd va vb e1 s
  | .popcv sy vd va e1 => Sys2Proof.Machine.execPopcv sy vd va e1 s
  | .clzv sy vd va e1 => Sys2Proof.Machine.execClzv sy vd va e1 s
  | .brevv sy vd va e1 => Sys2Proof.Machine.execBrevv sy vd va e1 s
  | .cvt sy vd va e1 => Sys2Proof.Machine.execCvt sy vd va e1 s
  | .qnt sy vd va vb e1 => Sys2Proof.Machine.execQnt sy vd va vb e1 s
  | .dqnt sy vd va e1 => Sys2Proof.Machine.execDqnt sy vd va e1 s
  | .qscale sy vd va e1 => Sys2Proof.Machine.execQscale sy vd va e1 s
  | .vmov sy vd va e1 => Sys2Proof.Machine.execVmov sy vd va e1 s
  | .vsel sy vd va vb e1 => Sys2Proof.Machine.execVsel sy vd va vb e1 s
  | .vbcst sy vd va vb e1 => Sys2Proof.Machine.execVbcst sy vd va vb e1 s
  | .vidx sy vd e1 => Sys2Proof.Machine.execVidx sy vd e1 s
  | .vperm sy vd va vb e1 => Sys2Proof.Machine.execVperm sy vd va vb e1 s
  | .vcmprs sy vd va e1 => Sys2Proof.Machine.execVcmprs sy vd va e1 s
  | .vexpnd sy vd va e1 => Sys2Proof.Machine.execVexpnd sy vd va e1 s
  | .vsldn sy vd va vb e1 => Sys2Proof.Machine.execVsldn sy vd va vb e1 s
  | .vslup sy vd va vb e1 => Sys2Proof.Machine.execVslup sy vd va vb e1 s
  | .vradd sy vd va e1 => Sys2Proof.Machine.execVradd sy vd va e1 s
  | .vrfadd sy vd va e1 => Sys2Proof.Machine.execVrfadd sy vd va e1 s
  | .vrmin sy vd va e1 => Sys2Proof.Machine.execVrmin sy vd va e1 s
  | .vrmax sy vd va e1 => Sys2Proof.Machine.execVrmax sy vd va e1 s
  | .vrfmin sy vd va e1 => Sys2Proof.Machine.execVrfmin sy vd va e1 s
  | .vrfmax sy vd va e1 => Sys2Proof.Machine.execVrfmax sy vd va e1 s
  | .vscan sy vd va e1 => Sys2Proof.Machine.execVscan sy vd va e1 s
  | .vfscan sy vd va e1 => Sys2Proof.Machine.execVfscan sy vd va e1 s
  | .vld sy vd vsa e1 => Sys2Proof.Machine.execVld sy vd vsa e1 s
  | .vst sy vd vsa e1 => Sys2Proof.Machine.execVst sy vd vsa e1 s
  | .vgth sy vd vsa vb e1 => Sys2Proof.Machine.execVgth sy vd vsa vb e1 s
  | .vsct sy vd vsa vb e1 => Sys2Proof.Machine.execVsct sy vd vsa vb e1 s
  | .vldl sy vd vb e1 => Sys2Proof.Machine.execVldl sy vd vb e1 s
  | .vstl sy vd vb e1 => Sys2Proof.Machine.execVstl sy vd vb e1 s
  | .mchb sy band nb cols => Sys2Proof.Machine.execMchb sy band nb cols s
  | .mma sy va vb ta tb neg => Sys2Proof.Machine.execMma sy va vb ta tb neg s
  | .mmag sy vi vb vc => Sys2Proof.Machine.execMmag sy vi vb vc s
  | .mtrn sy va => Sys2Proof.Machine.execMtrn sy va s
  | .mperm sy va vb => Sys2Proof.Machine.execMperm sy va vb s
  | .mrsum sy va => Sys2Proof.Machine.execMrsum sy va s
  | .mcsum sy va => Sys2Proof.Machine.execMcsum sy va s
  | .mdrn sy vd band nb clear => Sys2Proof.Machine.execMdrn sy vd band nb clear s
  | .mzro sy band nb => Sys2Proof.Machine.execMzro sy band nb s
  | .mlda sy va band nb => Sys2Proof.Machine.execMlda sy va band nb s
  | .xpq sy od => Sys2Proof.Machine.execXpq sy od s
  | .xshp sy sh => Sys2Proof.Machine.execXshp sy sh s
  | .xcpy sy hd od hs os b sh red cls hint cmp zero => Sys2Proof.Machine.execXcpy sy hd od hs os b sh red cls hint cmp zero s
  | .xgth sy hd od hs os b hi sh cls hint => Sys2Proof.Machine.execXgth sy hd od hs os b hi sh cls hint s
  | .xsltIn sy hs os sl b cls hint => Sys2Proof.Machine.execXsltIn sy hs os sl b cls hint s
  | .xsltOut sy hd od sl b cls hint => Sys2Proof.Machine.execXsltOut sy hd od sl b cls hint s
  | .xfil sy hd od b sh fill cls hint => Sys2Proof.Machine.execXfil sy hd od b sh fill cls hint s
  | .xado sy od imm => Sys2Proof.Machine.execXado sy od imm s
  | .xadoLen1 sy od imm => Sys2Proof.Machine.execXadoLen1 sy od imm s
  | .asyncTrapTaken k => Sys2Proof.Machine.execAsyncTrapTaken k s
  | .vnop sy => Sys2Proof.Machine.execVnop sy s
  | .mnop sy => Sys2Proof.Machine.execMnop sy s
  | .xnop sy => Sys2Proof.Machine.execXnop sy s
  | .mend sy => Sys2Proof.Machine.execMend sy s
  | .xend sy => Sys2Proof.Machine.execXend sy s
  | .mche sy => Sys2Proof.Machine.execMche sy s
  | .xwait sy => Sys2Proof.Machine.execXwait sy s
  | .copyDone k cs n => Sys2Proof.Machine.execCopyDone k cs n s
  | .copyFault k cs n why => Sys2Proof.Machine.execCopyFault k cs n why s
  | .drainVerdict k => Sys2Proof.Machine.execDrainVerdict k s
  | .nougatArbitration k => Sys2Proof.Machine.execNougatArbitration k s
  | .nougatSelfTest cl pass => Sys2Proof.Machine.execNougatSelfTest cl pass s
  | .writeCompleteAtHome line => Sys2Proof.Machine.execWriteCompleteAtHome line s
  | .flushMarkerAnswer n => Sys2Proof.Machine.execFlushMarkerAnswer n s
  | .faultQueueReplay die slice => Sys2Proof.Machine.execFaultQueueReplay die slice s
  | .faultQueueWatchdog die slice => Sys2Proof.Machine.execFaultQueueWatchdog die slice s
  | .sliceRetire die slice target => Sys2Proof.Machine.execSliceRetire die slice target s
  | .reductionPacketArrival pkt => Sys2Proof.Machine.execReductionPacketArrival pkt s
  | .foldContribution die => Sys2Proof.Machine.execFoldContribution die s
  | .foldResult k => Sys2Proof.Machine.execFoldResult k s
  | .departure grp member => Sys2Proof.Machine.execDeparture grp member s
  | .groupTimeout k => Sys2Proof.Machine.execGroupTimeout k s
  | .collectivePacketArrival k hash => Sys2Proof.Machine.execCollectivePacketArrival k hash s
  | .xcollExchangeDone grp seq => Sys2Proof.Machine.execXcollExchangeDone grp seq s
  | .evLaunch src pkt => Sys2Proof.Machine.execEvLaunch src pkt s
  | .evSignal src pkt => Sys2Proof.Machine.execEvSignal src pkt s
  | .nopPacket src pkt => Sys2Proof.Machine.execNopPacket src pkt s
  | .cfgSet src pkt => Sys2Proof.Machine.execCfgSet src pkt s
  | .cfgMask src pkt => Sys2Proof.Machine.execCfgMask src pkt s
  | .cfgDestroy src pkt => Sys2Proof.Machine.execCfgDestroy src pkt s
  | .cfgReset src pkt => Sys2Proof.Machine.execCfgReset src pkt s
  | .cfgShootdown src pkt => Sys2Proof.Machine.execCfgShootdown src pkt s
  | .cfgCap src pkt => Sys2Proof.Machine.execCfgCap src pkt s
  | .ringEn r on => Sys2Proof.Machine.execRingEn r on s
  | .ringbell r => Sys2Proof.Machine.execRingbell r s
  | .ringerr r val => Sys2Proof.Machine.execRingerr r val s
  | .nodesig r node => Sys2Proof.Machine.execNodesig r node s
  | .hostbell r node => Sys2Proof.Machine.execHostbell r node s
  | .postn fn db n relaxed => Sys2Proof.Machine.execPostn fn db n relaxed s
  | .registerWrite fn off val => Sys2Proof.Machine.execRegisterWrite fn off val s
  | .peerWrite fn bar off bytes relaxed => Sys2Proof.Machine.execPeerWrite fn bar off bytes relaxed s
  | .hostRead fn bar off len => Sys2Proof.Machine.execHostRead fn bar off len s
  | .functionLevelReset p => Sys2Proof.Machine.execFunctionLevelReset p s
  | .nodeCompletion p node => Sys2Proof.Machine.execNodeCompletion p node s
  | .teamPlacement choice => Sys2Proof.Machine.execTeamPlacement choice s
  | .aging p node team => Sys2Proof.Machine.execAging p node team s
  | .timeSliceExpiry p node team => Sys2Proof.Machine.execTimeSliceExpiry p node team s
  | .evSave p node team => Sys2Proof.Machine.execEvSave p node team s
  | .leaseRenewal => Sys2Proof.Machine.execLeaseRenewal s
  | .leaseLapse => Sys2Proof.Machine.execLeaseLapse s
  | .pralineEvaluation p => Sys2Proof.Machine.execPralineEvaluation p s
  | .lockWindowExpiry cl => Sys2Proof.Machine.execLockWindowExpiry cl s
  | .lockRestEnd cl => Sys2Proof.Machine.execLockRestEnd cl s
  | .bucketRefill die => Sys2Proof.Machine.execBucketRefill die s
  | .flitReceive l ordered sent wire => Sys2Proof.Machine.execFlitReceive l ordered sent wire s
  | .repeatRequest l seq => Sys2Proof.Machine.execRepeatRequest l seq s
  | .linkRetrain l bad trains => Sys2Proof.Machine.execLinkRetrain l bad trains s
  | .scaleoutPacketReceive peer seq msg => Sys2Proof.Machine.execScaleoutPacketReceive peer seq msg s
  | .scaleoutResend peer seq => Sys2Proof.Machine.execScaleoutResend peer seq s
  | .thermalSample die sensor temp => Sys2Proof.Machine.execThermalSample die sensor temp s
  | .numericSensorRead die sensor => Sys2Proof.Machine.execNumericSensorRead die sensor s
  | .numericEffecterSet watts => Sys2Proof.Machine.execNumericEffecterSet watts s
  | .logMirror => Sys2Proof.Machine.execLogMirror s
  | .logReadClear => Sys2Proof.Machine.execLogReadClear s
  | .requestUpdate => Sys2Proof.Machine.execRequestUpdate s
  | .passComponentTable => Sys2Proof.Machine.execPassComponentTable s
  | .updateComponent comp => Sys2Proof.Machine.execUpdateComponent comp s
  | .firmwareTransfer comp version sigOk => Sys2Proof.Machine.execFirmwareTransfer comp version sigOk s
  | .activateFirmware comp => Sys2Proof.Machine.execActivateFirmware comp s
  | .heartbeat arrived => Sys2Proof.Machine.execHeartbeat arrived s
  | .vemundFailover => Sys2Proof.Machine.execVemundFailover s
  | .moduleReset => Sys2Proof.Machine.execModuleReset s
  | .freeze => Sys2Proof.Machine.execFreeze s
  | .tapAccess what => Sys2Proof.Machine.execTapAccess what s
  | .keyInstall key val => Sys2Proof.Machine.execKeyInstall key val s
  | .keyRevoke key => Sys2Proof.Machine.execKeyRevoke key s
  | .presentationModeSet mode => Sys2Proof.Machine.execPresentationModeSet mode s
  | .packageIdSet id => Sys2Proof.Machine.execPackageIdSet id s
  | .routeTableLoad tbl => Sys2Proof.Machine.execRouteTableLoad tbl s
  | .configurationRequest fn reg => Sys2Proof.Machine.execConfigurationRequest fn reg s

end Sys2Proof.Machine
end

