-- ==== Sys2Proof/Machine/Fetch.lean ====
section
/-!
DEFINITION. Instruction fetch, and one instruction of a stream (02_encoding R21 to R24, 04_tasks R94, 09_memory R214,
R220, R228, 15_traps R328, R333).
-/

namespace Sys2Proof.Machine

/-! ## Fetching words (R23, R220) -/

/-- What fetching answers: something read, a fault with its cause and value, or a wait; with the state. -/
inductive Fetch (α : Type) where
  | got (a : α) (s : State)
  | fault (c : BitVec 8) (v : Word) (s : State)
  | wait (s : State)

/-- Words of ordinary pages in HBM are cached for fetch, those of device pages and of the scratchpad apertures never (R216, R222, R226). -/
def Place.fetchCached (p : Place) : Bool := decide (p.pa < hbmTop) && !p.device

/-- What a fetch of a stream that waited has got for an address. -/
def State.fetchedAt (s : State) (t : Stream) (a : Word) : Option FetchAnswer :=
  s.ctx.order.fetched.find? fun e => decide (e.stream = t) && decide (e.va = a)

/-- A fetch that misses the L1 instruction cache reads L2. Its request is one of the core's port, and a home may park it; one that a home
drops faults as a load does (R220, R237, R325). -/
def State.fetchMiss (s : State) (t : Stream) (p : Place) (a : Word) : Fetch Nat :=
  match s.fetchedAt t a with
  | some e =>
    match e.word with
    | some w => .got w s
    | none => .fault e.cause a (s.mapOrder fun o => { o with fetched := o.fetched.erase e })
  | none =>
    if s.fetchSent t a then .wait s
    else if !s.hasTokens p.pa 4 || s.mustPark p 4 then .wait (s.send (s.request p a 0 (.fetch t)))
    else if s.poisonedAt p.pa 4 then .fault cPOISON a (s.pay p.pa 4)
    else
      let (b, s) := (((s.pay p.pa 4).rekey p.pa 4 p.key).cached p .fetch .default).readAt s.dieNo p.pa 4 p.fetchCached
      .got (leValue b) (if p.fetchCached then s.mapCore s.coreNo (·.fillIcache p.pa (leValue b)) else s)

/-- A word that the L1 instruction cache holds: once memory holds another, or poison, which of the two is used is open,
since a line may be evicted at any time (R220; log entry 9). -/
def State.fetchHit (s : State) (t : Stream) (p : Place) (a : Word) (w : Nat) : Fetch Nat :=
  if leValue (s.seenBy s.dieNo p.pa 4) = w ∧ ¬ s.poisonedAt p.pa 4 then .got w s
  else
    let (k, s) := s.draw
    if Config.fetchFresh k then s.fetchMiss t p a else .got w s

/-- The place of a word of code (R23, R214). -/
def State.fetchPlace (s : State) (a : Word) : Except (BitVec 8) Place × State :=
  let va := a.toNat
  if 2 ^ 56 ≤ va then (.error cXLATE, s)
  else if 0xFD ≤ va / 2 ^ 48 then (.error cPROT, s)
  else
    match s.translate va with
    | (.error c, s) => (.error c, s)
    | (.ok f, s) =>
      let pa := f.pa + (va - f.va)
      if f.r ∧ s.apertureOk s.ctx.ident.part pa 4 then (.ok ⟨pa, false, f.key, f.device⟩, s) else (.error cPROT, s)

/-- Fetches the word at an address for a stream (R23). -/
def State.fetchWord (s : State) (t : Stream) (a : Word) : Fetch Nat :=
  match s.fetchPlace a with
  | (.error c, s) => .fault c a s
  | (.ok p, s) =>
    match if p.fetchCached then (s.core s.coreNo).icache.find? (fun e => e.1 = p.pa) else none with
    | some e => s.fetchHit t p a e.2
    | none => s.fetchMiss t p a

/-- Goes on with what was fetched. -/
def Fetch.bind {α β : Type} (f : Fetch α) (g : α → State → Fetch β) : Fetch β :=
  match f with
  | .got a s => g a s
  | .fault c v s => .fault c v s
  | .wait s => .wait s

/-- The address is one of the three words of an instruction at `pc`. -/
def ofInstr (pc a : Word) : Bool := decide (a = pc) || decide (a = pc + 4) || decide (a = pc + 8)

/-- What the stream has asked for elsewhere, before a jump or a trap took it to `pc`, serves no fetch any more. -/
def State.prune (s : State) (t : Stream) (pc : Word) : State :=
  let s := if s.ctx.order.fetched.all fun e => decide (e.stream ≠ t) || ofInstr pc e.va then s
    else s.mapOrder fun o => { o with fetched := o.fetched.filter fun e => decide (e.stream ≠ t) || ofInstr pc e.va }
  let stale (q : Parked) : Bool := decide (q.key = s.ctx.key) && !q.gone && !ofInstr pc q.va &&
    match q.kind with
    | .fetch u => decide (u = t)
    | _ => false
  if (s.ms.parked ++ s.ms.held).any stale then
    let quit (q : Parked) : Parked := if stale q then { q with gone := true } else q
    s.mapMs fun m => { m with parked := m.parked.map quit, held := m.held.map quit }
  else s

/-- What the fetches of a stream have got has been taken. -/
def State.takeFetched (s : State) (t : Stream) : State :=
  if s.ctx.order.fetched.all fun e => decide (e.stream ≠ t) then s
  else s.mapOrder fun o => { o with fetched := o.fetched.filter fun e => decide (e.stream ≠ t) }

/-- Fetches and decodes the instruction at `pc`, answering its first word too: a word whose framing fails ends the
fetching (R24). -/
def State.fetchInstr (s : State) (t : Stream) (pc : Word) : Fetch (Nat × Decoded) :=
  (s.fetchWord t pc).bind fun w0 s =>
    let n := Sys2Proof.fld w0 26 2
    if n = 0 ∨ n = 3 then .got (w0, decode t w0 0 0) s
    else (s.fetchWord t (pc + 4)).bind fun e1 s =>
      if n = 1 ∨ 2 ^ 28 ≤ e1 then .got (w0, decode t w0 e1 0) s
      else (s.fetchWord t (pc + 8)).bind fun e2 s => .got (w0, decode t w0 e1 e2) s

/-! ## One instruction of a stream -/

/-- A fault of the instruction that was to be fetched; one of a copy stream waits until no command before it can fault (R23, R24, R328;
log entry 45). -/
def State.fetchFault (s : State) (t : Stream) (c : BitVec 8) (v : Word) : Host.Outcome State Fault Refusal :=
  let waits : Bool := match t with
    | .ld => s.ctx.ld.busy
    | .st => s.ctx.st.busy
    | _ => false
  s.run t Sync.none 0 .run (fun _ => .none) fun _ => if waits then .wait else .trap c v

/-- Carries out what was decoded; `ex` gives the meaning of an instruction. -/
def State.perFetched (ex : Instr → State → Host.Outcome State Fault Refusal) (s : State) :
    Fetched → Host.Outcome State Fault Refusal
  | .ins i => ex i s
  | .vnop sy => execVnop sy s
  | .mnop sy => execMnop sy s
  | .xnop sy => execXnop sy s
  | .mend sy => execMend sy s
  | .xend sy => execXend sy s
  | .mche sy => execMche sy s
  | .xwait sy => execXwait sy s

/-- The acting context's team is being saved: its streams have stopped (R340). -/
def State.beingSaved (s : State) : Bool :=
  match s.node s.ctx.ident.part s.ctx.launch.node with
  | some n => (n.teams[s.ctx.ident.inst.toNat / n.launch.team]?).any (·.stopping)
  | none => false

/-- Stream `t` of the acting context may go on: it is busy and not paused, its team is not being saved and its task not ending,
and no other context holds the MX engine it needs (R94, R332, R334, R340). -/
def State.mayRun (s : State) (t : Stream) : Bool :=
  !s.beingSaved && s.ctx.ending.isNone && (s.str t).busy && !(s.str t).paused && !(decide (t = .mx) && s.mxTaken)

/-- The next instruction of stream `t` of the acting context; at a boundary of the C stream a pending trap comes first
(R333). -/
def State.runStream (ex : Instr → State → Host.Outcome State Fault Refusal) (s : State) (t : Stream) :
    Host.Outcome State Fault Refusal :=
  if !s.mayRun t then .next (if t = .c then s.finishEnding else s)
  else if t = .c ∧ s.trapDue then .next s.takePending
  else
    match (s.prune t (s.str t).pc).fetchInstr t (s.str t).pc with
    | .wait s => .next s
    | .fault c v s => s.fetchFault t c v
    | .got (w0, .error b) s => (s.takeFetched t).fetchFault t cILLEGAL (BitVec.ofNat 64 (b.trapval w0))
    | .got (_, .ok f) s => (s.takeFetched t).perFetched ex f

end Sys2Proof.Machine
end

