-- ==== Sys2Proof/WellFormed.lean ====
section
/-!
DEFINITION. Well-formed instructions: those with an encoding whose fields are all in their ranges
(02_encoding R24, R34, R36; 12_atomics R280).
-/

namespace Sys2Proof

/-- The stream whose map holds an instruction; the LD stream stands for both copy streams, and a step
of the part has none (R1, R32 to R37). -/
def Instr.home : Instr → Option Stream
  | .nop .. | .done .. | .yield .. | .trap .. | .eret .. | .brk .. | .wfe .. | .evclr .. | .ret ..
  | .fence .. | .add .. | .sub .. | .and .. | .or .. | .xor .. | .shl .. | .shr .. | .sra .. | .mul ..
  | .mulh .. | .mulhu .. | .div .. | .divu .. | .rem .. | .remu .. | .min .. | .max .. | .minu .. | .maxu ..
  | .mov .. | .popc .. | .clz .. | .ctz .. | .addi .. | .addiLen1 .. | .addiLen2 .. | .andi .. | .andiLen1 ..
  | .andiLen2 .. | .ori .. | .oriLen1 .. | .oriLen2 .. | .xori .. | .xoriLen1 .. | .xoriLen2 .. | .shli ..
  | .shliLen1 .. | .shliLen2 .. | .shri .. | .shriLen1 .. | .shriLen2 .. | .srai .. | .sraiLen1 ..
  | .sraiLen2 .. | .li .. | .liLen1 .. | .liLen2 .. | .muli .. | .muliLen1 .. | .muliLen2 .. | .cmp ..
  | .cmpi .. | .cmpiLen1 .. | .pand .. | .por .. | .pxor .. | .pandn .. | .pnot .. | .pset .. | .pclr ..
  | .pmov .. | .pcnt .. | .br .. | .brLen1 .. | .bp .. | .bpLen1 .. | .bany .. | .banyLen1 .. | .ball ..
  | .ballLen1 .. | .call .. | .callLen1 .. | .bri .. | .calli .. | .ld .. | .ldLen1 .. | .lds ..
  | .ldsLen1 .. | .ldro .. | .ldroLen1 .. | .st .. | .stLen1 .. | .mfsr .. | .mtsr .. | .ego .. | .ewait ..
  | .estat .. | .fqpush .. | .pqpush .. | .tmap .. | .tunmap .. | .tquery .. | .binit .. | .bexp ..
  | .barr .. | .bwait .. | .btest .. | .amo .. | .cas .. | .red .. | .cbr .. | .cbrLen1 .. | .cleave ..
  | .cquery .. | .xcoll .. | .gsig .. | .getratio .. | .rlock .. | .runlock .. | .amalloc .. | .amfree ..
  | .amfreeDiscard .. | .amgrant .. | .amquery .. | .vwait .. | .vsig .. | .vstat .. | .pref .. | .wbr ..
  | .invr .. | .rinv .. | .icinv .. | .slres .. | .slpost .. | .slacq .. | .slrel .. => some .c
  | .vend .. | .vpq .. | .vsetvl .. | .vflgr .. | .vflgc .. | .vview .. | .vgetv .. | .fadd .. | .fsub ..
  | .fmul .. | .fmin .. | .fmax .. | .fma .. | .fms .. | .fnma .. | .fabs .. | .fneg .. | .frcp .. | .frsq ..
  | .fsqrt .. | .fexp2 .. | .flog2 .. | .fsin .. | .fcos .. | .frnd .. | .feq .. | .fne .. | .flt ..
  | .fle .. | .fun .. | .iadd .. | .isub .. | .imul .. | .imulh .. | .imulhu .. | .imin .. | .imax ..
  | .iminu .. | .imaxu .. | .iand .. | .ior .. | .ixor .. | .ishl .. | .ishr .. | .isra .. | .iadds ..
  | .isubs .. | .iabs .. | .ieq .. | .ine .. | .ilt .. | .ige .. | .iltu .. | .igeu .. | .bfx .. | .bfxu ..
  | .bfi .. | .fshl .. | .fshr .. | .popcv .. | .clzv .. | .brevv .. | .cvt .. | .qnt .. | .dqnt ..
  | .qscale .. | .vmov .. | .vsel .. | .vbcst .. | .vidx .. | .vperm .. | .vcmprs .. | .vexpnd .. | .vsldn ..
  | .vslup .. | .vradd .. | .vrfadd .. | .vrmin .. | .vrmax .. | .vrfmin .. | .vrfmax .. | .vscan ..
  | .vfscan .. | .vld .. | .vst .. | .vgth .. | .vsct .. | .vldl .. | .vstl .. | .vnop .. => some .vx
  | .mchb .. | .mma .. | .mmag .. | .mtrn .. | .mperm .. | .mrsum .. | .mcsum .. | .mdrn .. | .mzro ..
  | .mlda .. | .mnop .. | .mend .. | .mche .. => some .mx
  | .xpq .. | .xshp .. | .xcpy .. | .xgth .. | .xsltIn .. | .xsltOut .. | .xfil .. | .xado .. | .xadoLen1 ..
  | .xnop .. | .xend .. | .xwait .. => some .ld
  | .copyDone .. | .copyFault .. | .drainVerdict .. | .nougatArbitration .. | .nougatSelfTest ..
  | .writeCompleteAtHome .. | .flushMarkerAnswer .. | .faultQueueReplay .. | .faultQueueWatchdog ..
  | .sliceRetire .. | .reductionPacketArrival .. | .foldContribution .. | .foldResult .. | .departure ..
  | .groupTimeout .. | .collectivePacketArrival .. | .xcollExchangeDone .. | .evLaunch .. | .evSignal ..
  | .nopPacket .. | .cfgSet .. | .cfgMask .. | .cfgDestroy .. | .cfgReset .. | .cfgShootdown .. | .cfgCap ..
  | .ringEn .. | .ringbell .. | .ringerr .. | .nodesig .. | .hostbell .. | .postn .. | .registerWrite ..
  | .peerWrite .. | .hostRead .. | .functionLevelReset .. | .nodeCompletion .. | .teamPlacement ..
  | .aging .. | .timeSliceExpiry .. | .evSave .. | .leaseRenewal .. | .leaseLapse .. | .pralineEvaluation ..
  | .lockWindowExpiry .. | .lockRestEnd .. | .bucketRefill .. | .flitReceive .. | .repeatRequest ..
  | .linkRetrain .. | .scaleoutPacketReceive .. | .scaleoutResend .. | .thermalSample ..
  | .numericSensorRead .. | .numericEffecterSet .. | .logMirror .. | .logReadClear .. | .requestUpdate ..
  | .passComponentTable .. | .updateComponent .. | .firmwareTransfer .. | .activateFirmware ..
  | .heartbeat .. | .vemundFailover .. | .moduleReset .. | .freeze .. | .tapAccess .. | .keyInstall ..
  | .keyRevoke .. | .presentationModeSet .. | .packageIdSet .. | .routeTableLoad ..
  | .configurationRequest .. | .asyncTrapTaken .. => none

/-- `i` is an instruction (not a step of the part), every operand is in its range and every unused
field is zero. -/
def Instr.wellFormed (i : Instr) : Bool :=
  i.home.isSome && i.operandBad.isNone && i.mbzBad.isNone

end Sys2Proof
end

