-- ==== Sys2Proof/Machine/Auto.lean ====
section
/-!
DEFINITION. What the part does on its own, and the order of moves: the agenda first, then a rotation among the streams and
the steps that are due (log entry 1).
-/

namespace Sys2Proof.Machine

/-- The outcome of a move. -/
abbrev Out := Host.Outcome State Fault Refusal

/-! ## The steps that may be due -/

/-- Steps about a copy command in flight, whose bytes move one by one between those of others (R241, R245, R249); a failed integrity check (R248) comes by the agenda only. -/
def copyAutos (k : CtxKey) (cs : CopyStream) (q : CopyCmd) : List (State → Out) :=
  if q.done then []
  else [moveCopy k cs q.seq, execCopyFault k cs q.seq .poison, execCopyFault k cs q.seq .watchdog]

/-- Steps about a context (R189, R200, R296, R305, R312). -/
def ctxAutos (c : Ctx) : List (State → Out) :=
  (c.ld.flight.flatMap (copyAutos c.key .ld)) ++ (c.st.flight.flatMap (copyAutos c.key .st)) ++
  (if c.mx.drain.isSome then [execDrainVerdict c.key] else []) ++
  (if c.mx.dispute.isSome then [execNougatArbitration c.key] else []) ++
  (if c.coll.fold.isSome then [execFoldResult c.key, execGroupTimeout c.key] else []) ++
  (c.coll.exchanges.filter (·.moving)).flatMap fun x => [execXcollExchangeDone c.launch.group x.seq, execGroupTimeout c.key]

/-- Dies. -/
def allDies : List Die := List.finRange 6

/-- The slice of a parked request, as its steps name it. -/
def parkedAutos (q : Parked) : List (State → Out) :=
  if h : q.die < 6 ∧ q.slice < 16 then
    [execFaultQueueReplay ⟨q.die, h.1⟩ ⟨q.slice, h.2⟩, execFaultQueueWatchdog ⟨q.die, h.1⟩ ⟨q.slice, h.2⟩]
  else []

/-- Steps of the memory side (R237, R267, R272, R298). -/
def State.memAutos (s : State) : List (State → Out) :=
  s.ms.pending.map execWriteCompleteAtHome ++ (s.ms.markers.map fun m => execFlushMarkerAnswer m.serial) ++
  s.ms.parked.flatMap parkedAutos ++
  (if s.ms.held.isEmpty then [] else [fun t : State => t.event true State.runPorts]) ++
  (if s.ms.weak.isEmpty then [] else [fun t : State => t.event true State.correct]) ++
  ((List.range 6).filter fun d => !(s.sliceMap d).moving.isEmpty).map retireAuto ++
  (allDies.filter fun d => !(s.votesAt d.val).isEmpty).map execFoldContribution

/-- Steps about a cluster's lock (R324). -/
def lockAutos (cl : Nat) : List (State → Out) :=
  if h : cl < 96 then [execLockWindowExpiry ⟨cl, h⟩, execLockRestEnd ⟨cl, h⟩] else []

/-- Steps of the power unit (R319, R324, R326). -/
def State.powerAutos (s : State) : List (State → Out) :=
  s.pw.due.map execPralineEvaluation ++
  (if s.pw.shed && s.residentsFit then [fun t : State => t.event true State.endShed] else []) ++ s.pw.islands.flatMap (fun e => lockAutos e.1) ++
  (allDies.filter fun d => s.refillDue d.val).map execBucketRefill

/-- Steps of a node: its completion, and the ends of its teams' slices and their saves (R75, R92, R340). -/
def nodeAutos (n : Node) : List (State → Out) :=
  (if n.done then [execNodeCompletion n.part n.id] else []) ++
  n.teams.zipIdx.flatMap fun e =>
    if e.1.queued then []
    else if e.1.preempt.isSome then [execEvSave n.part n.id e.2]
    else if n.launch.slice then [execTimeSliceExpiry n.part n.id e.2] else []

/-- Aging, the decisions to pre-empt, and the placement of a partition's next team (R89 to R91). -/
def placeAuto (p : Part) (s : State) : Out := s.event true fun t => t.ageAll.decidePreempt.placeNext p none

/-- Steps of the die controllers and of Vemund (R78, R89, R95, R228, R362, R364, R366). -/
def State.leaderAutos (s : State) : List (State → Out) :=
  ((s.rings.filter (·.2.awake)).map fun e => fun t : State => t.event true fun u => u.fetchRing e.1) ++
  (if s.testDue then [fun t : State => t.event true State.testNougats] else []) ++
  (if s.restartDue then [fun t : State => t.event true State.goRestart] else []) ++
  (((List.finRange 7).filter fun n => (s.link ⟨n, true⟩).up && !s.linkFlows ⟨n, true⟩).map fun n => fun t : State =>
    t.event true (·.retrainNow n)) ++
  (if s.waitingReady then [fun t : State => t.event true State.finishWaiting] else []) ++
  s.nodes.flatMap nodeAutos ++
  ((s.parts.filter fun q => !(s.waiters q.p).isEmpty).map fun q => placeAuto q.p) ++
  (if s.mustTell then [fun t : State => t.event true State.tell] else []) ++
  [execLeaseRenewal, execLeaseLapse] ++
  (if s.mg.flash = s.mg.log then [] else [execLogMirror]) ++
  (if s.mg.missed < 10 then [] else [execVemundFailover]) ++
  s.net.peers.flatMap fun q => (q.unacked.filter fun e => s.resendDue q.id e.1).map fun e => execScaleoutResend q.id e.1

/-! ## Moves -/

/-- The place of a context's stream among those of its core. -/
def unitNo (k : CtxKey) (t : Stream) : Nat := 5 * k.slot.val + t.ix.val

/-- The slot since which a context's stream is ready; one that is not ready comes last (R94). -/
def State.readyAt (s : State) (k : CtxKey) (t : Stream) : Nat :=
  match (s.core k.core.val).readySince.get 0 (unitNo k t) with
  | 0 => 2 ^ 64
  | n => n

/-- Precedence on a unit of a core: no YIELD mark before a mark, the higher priority of the team first, and then the context that has been
ready longest (R94, R100). -/
def State.precedes (s : State) (t : Stream) (a b : Ctx) : Bool :=
  let marked (c : Ctx) : Bool := decide (t = .c) && c.c.yielding
  (!marked a && marked b) || (marked a == marked b &&
    (decide (b.launch.priority < a.launch.priority) ||
      (decide (a.launch.priority = b.launch.priority) && decide (s.readyAt a.key t ≤ s.readyAt b.key t))))

/-- Inserts a context in the order of precedence. -/
def State.insertReady (s : State) (t : Stream) (c : Ctx) : List Ctx → List Ctx
  | [] => [c]
  | d :: l => if s.precedes t c d then c :: d :: l else d :: s.insertReady t c l

/-- The contexts that hold tasks on a core, by slot. -/
def State.users (s : State) (core : Nat) : List Ctx :=
  ([0, 1, 2, 3] : List (Fin 4)).filterMap fun x => s.resident.find? fun c => decide (c.key.core.val = core) && decide (c.key.slot = x)

/-- The contexts that use the unit of a stream on a core, in the order in which it picks among those that are ready. -/
def State.order (s : State) (core : Nat) (t : Stream) : List CtxKey :=
  ((s.users core).foldr (s.insertReady t) []).map (·.key)

/-- One instruction of a stream of the context with a key, if it holds a task. -/
def State.streamMove (ex : Instr → State → Out) (s : State) (k : CtxKey) (t : Stream) : Out :=
  match s.focus k with
  | some u => ({ u with stream := t }).runStream ex t
  | none => .next s

/-- The stream of the context with a key has used the slot: its state is another (an instruction of it has completed, faulted or begun), it
waits for an access that it did not wait for before, or its task has ended. -/
def State.wentOn (s u : State) (k : CtxKey) (t : Stream) : Bool :=
  decide ((s.find k).map (fun c => c.streams[t.ix]) ≠ (u.find k).map fun c => c.streams[t.ix]) ||
  (decide (t = .c) && !(s.focus k).any State.awaited && (u.focus k).any State.awaited)

/-- A stream is ready at a slot, or not: the number of the first slot since which it is. -/
def Core.noteReady (c : Core) (k : CtxKey) (t : Stream) (ready : Bool) : Core :=
  let n := if !ready then 0
    else match c.readySince.get 0 (unitNo k t) with
      | 0 => c.readySince.foldl (fun m e => max m e.2) 0 + 1
      | n => n
  { c with readySince := c.readySince.set 0 (unitNo k t) n }

/-- Which contexts are ready for a unit is noted before it picks, where there is a choice: ready is a stream that would use the slot (R94;
log entry 1). -/
def State.noteUnit (ex : Instr → State → Out) (s : State) (core : Nat) (t : Stream) : State :=
  let l := s.users core
  if l.length < 2 then s
  else l.foldl (fun u c =>
    let ready := match s.streamMove ex c.key t with
      | .next v => s.wentOn v c.key t
      | _ => true
    u.mapCore core (·.noteReady c.key t ready)) s

/-- A stream that has used a slot is ready anew from the next one on. -/
def State.usedSlot (s : State) (k : CtxKey) (t : Stream) : State :=
  if (s.users k.core.val).length < 2 then s else s.mapCore k.core.val (·.noteReady k t false)

/-- One issue slot of a unit, offered to contexts in order: the first whose stream uses it has it (R94). -/
def State.slotMove (ex : Instr → State → Out) (t : Stream) : List CtxKey → State → Out
  | [], s => .next s
  | k :: rest, s =>
    match s.streamMove ex k t with
    | .next u => if s.wentOn u k t then .next (u.usedSlot k t) else State.slotMove ex t rest u
    | o => o

/-- The contexts up to one of them. -/
def uptoKey (k : CtxKey) : List CtxKey → List CtxKey
  | [] => [k]
  | j :: l => if j = k then [k] else j :: uptoKey k l

/-- Every move that may be due. -/
def State.moves (ex : Instr → State → Out) (s : State) : List (State → Out) :=
  let cores := sortNat (s.resident.map fun c => c.key.core.val).eraseDups
  (cores.flatMap fun c => Stream.all.map fun t => fun u : State =>
    let u := u.noteUnit ex c t
    State.slotMove ex t (u.order c t) u) ++
  s.resident.flatMap ctxAutos ++ s.memAutos ++ s.powerAutos ++ s.leaderAutos

/-- A move of the agenda: an issue slot that goes to a stream of a context unless one that precedes it takes it, or a step of the
part. An instruction is no step of the part. -/
def State.agendaMove (ex : Instr → State → Out) (s : State) : Move → Out
  | .run k t =>
    let s := s.noteUnit ex k.core.val t
    State.slotMove ex t (uptoKey k (s.order k.core.val t)) s
  | .copy k t n => moveCopy k t n s
  | .ev i => if i.home = none then ex i s else .next s
  | .remways die v => .next (s.setRemways die v)
  | .readRemote die => .next (s.readRemote die)

/-- Vemund's steps go on while every clock of the part is stopped, and a frozen part can be read and reset (R354, R362 to R366,
R368). -/
def frozenStep : Instr → Bool
  | .thermalSample .. | .numericSensorRead .. | .numericEffecterSet .. | .logMirror | .logReadClear | .requestUpdate
  | .passComponentTable | .updateComponent .. | .firmwareTransfer .. | .activateFirmware .. | .heartbeat ..
  | .vemundFailover | .moduleReset | .tapAccess .. | .presentationModeSet .. | .packageIdSet .. | .routeTableLoad .. => true
  | _ => false

/-- A module reset. -/
def isModuleReset : Instr → Bool
  | .moduleReset => true
  | _ => false

/-- The part can make the move: without power only a module reset, with its clocks stopped only what does not need them. -/
def State.canMove (s : State) : Move → Bool
  | .run .. | .copy .. | .remways .. | .readRemote .. => !s.mg.frozen && !s.mg.poweredOff
  | .ev i => if s.mg.poweredOff then isModuleReset i else !s.mg.frozen || frozenStep i

/-! ## Time -/

/-- The timers of members of a group that stands still move on with time, so that they measure none of it (R305). -/
def Ctx.holdTimers (c : Ctx) (e : Nat) : Ctx := { c with coll := c.coll.later e }

/-- Time passes (R117; log entry 9). -/
def State.pass (s : State) : State :=
  let (n, s) := s.draw
  let e := Config.elapsed n
  let s := { s with nstime := s.nstime + e }
  s.mapAll fun c => if c.coll.fold.isSome || !c.coll.exchanges.isEmpty then
      (if s.groupStill c.ident.part c.launch.group then c.holdTimers e else c)
    else c

/-- Time passes with a move, unless the clocks have stopped. -/
def passes : Out → Out
  | .next s => .next (if s.mg.frozen || s.mg.poweredOff then s else s.pass)
  | o => o

/-- One step of the part: the agenda's first move, boot, or the next move of the rotation (log entry 1). -/
def State.advance (ex : Instr → State → Out) (s : State) : Out :=
  match s.agenda with
  | m :: rest =>
    let u := { s with agenda := rest }
    if s.canMove m then passes (u.agendaMove ex m) else .next u
  | [] =>
    if s.mg.frozen || s.mg.poweredOff then .fault .stopped
    else if !s.mg.booted then passes (.next s.boot)
    else
      let l := s.moves ex
      let u := { s with turn := s.turn + 1 }
      match l[s.turn % l.length]? with
      | some f => passes (f u)
      | none => passes (.next u)

end Sys2Proof.Machine
end

