-- ==== Sys2Proof/Machine/Prime.lean ====
section
/-!
DEFINITION. A package in which one task of one member stands on core 0, ready to run an instruction that is placed in
memory: what a launch from outside would bring about, all at once (log entry 5).
-/

namespace Sys2Proof.Machine

/-- The context that is primed. -/
def primedKey : CtxKey := ⟨0, 0⟩

/-- Where the instruction is placed, virtually and physically. -/
def primedPc : Nat := 0x10000

/-- A partition of cluster 0 with the lowest GiB of HBM and its page tables at 0x1000. -/
def primedPart : Partition :=
  { p := 0, clusters := 1, device := 0, quantumMs := 0, ways := 0, hbmBase := 0, hbmSize := 1, powerShare := 0
    firstKey := 0, keyCount := 0, root := 0x1000, spill := 0, spillSize := 0, shares := [], dspBase := [], dspSize := []
    masks := [], nextSeq := 1, credits := [] }

/-- Page tables that map the lowest GiB onto itself, readable and writable, in three levels (R226, R227). -/
def primedTables : List (Nat × Nat) := [(0x1000, 0x2001), (0x2000, 0x3001), (0x3000, 0xF)]

/-- The launch that the task stands for: one instance with all of the core's windows and banks. -/
def primedLaunch : Launch :=
  { Launch.none with count := 1, team := 1, cap := 4, entry := 0x10000, rsBytes := 262144, spBytes := 983040, amBanks := 32, journal := 32768 }

/-- Its windows (R127, R196, R217). -/
def primedWindows : Windows :=
  { rsBase := 0, rsSize := 262144, spBase := 0, spSize := 983040, jBase := 983040, jSize := 32768 }

/-- Its node: one team whose one member is resident. -/
def primedNode : Node :=
  { part := 0, id := 0, launch := primedLaunch, seq := 0, pending := 0, extra := 0, admitted := true
    teams := [{ Team.fresh 1 with members := [.resident primedKey] }], ring := ⟨1, 0⟩, index := 0 }

/-- A stream at the instruction. -/
def primedStream : StreamSt := { StreamSt.idle with pc := BitVec.ofNat 64 primedPc, busy := true }

/-- The context with the task, its C stream and stream `t` at the instruction; its registers stay as they are. -/
def Ctx.prime (c : Ctx) (t : Stream) : Ctx :=
  { c with
      key := primedKey, live := true, ident := ⟨0, 0, 0⟩, launch := primedLaunch, win := primedWindows
      streams := ((Vector.replicate 5 StreamSt.idle).set 0 primedStream).set t.ix primedStream
      ver := none, spec := none, cb := [], coll := .empty, pend := [], order := .none, ending := none, owed := [] }

/-- The memory with the page tables and the instruction's bytes. -/
def primedMemory (m : Memory) (code : List Byte) : Memory :=
  (primedTables.foldl (fun m e => m.setLe e.1 8 e.2) m).setBytes primedPc code

/-- The state in which stream `t` of the primed context runs the instruction with these bytes next. -/
def State.prime (s : State) (t : Stream) (code : List Byte) : State :=
  let die := homeDie s.mg.mode primedPc
  let bucket : Bucket := { Table.get Bucket.zero s.pw.buckets die with balance := 16 }
  { s with
      ctx := s.ctx.prime t, stream := t, others := s.others.filter fun c => decide (c.key.core ≠ 0)
      cores := Table.set Core.init s.cores 0 { s.core 0 with tlb := [], icache := [] }
      mem := primedMemory s.mem code
      ms := { s.ms with
        poisoned := [], weak := [], badWords := [], replicas := [], red := [], redDie := [], parked := [], held := [], sealed := []
        maps := s.ms.maps.map fun m => { m with moving := [] } }
      parts := primedPart :: s.parts.filter fun q => decide (q.p ≠ 0)
      nodes := primedNode :: s.nodes.filter fun n => decide (n.part ≠ 0)
      pw := { s.pw with buckets := Table.set Bucket.zero s.pw.buckets die bucket }
      mg := { s.mg with booted := true, frozen := false, poweredOff := false }
      agenda := [.run primedKey t] }

end Sys2Proof.Machine
end

