-- ==== Sys2Proof/Machine/Step.lean ====
section
/-!
DEFINITION. One step of the package, and the placing of an instruction that the next step runs.
-/

namespace Sys2Proof.Machine

/-- One step of the package: a move, and the time that passes with it. -/
def step (s : State) : Host.Outcome State Fault Refusal := s.advance exec

/-- The state with an instruction of the opcode table stored where the next step fetches it: a task of one member stands on
core 0, its streams at the instruction (log entries 5 and 6). -/
def State.withFetchWord (s : State) (nbits w : Nat) : State :=
  s.prime (tableStream nbits w) ((tableWords nbits w).flatMap bytesOfWord)

end Sys2Proof.Machine
end

