-- ==== Sys2Proof/Safety.lean ====
section
/-!
DEFINITION. What counts as a safe run, and the invariant that states meet.
-/

namespace Sys2Proof.Machine

/-- A step that neither stops the machine nor is refused. -/
def goesOn (o : Host.Outcome State Fault Refusal) : Bool :=
  match o with
  | .next _ => true
  | _ => false

/-- The first `n` steps from a state neither stop nor are refused. -/
def safeRun (s : State) : Nat → Bool
  | 0 => true
  | n + 1 =>
    match step s with
    | .next t => safeRun t n
    | _ => false

/-- Memory and the table of cores are in their canonical form: keys strictly rising, and nothing listed that equals what an
unlisted key holds. -/
def State.tablesOk (s : State) : Bool := s.mem.wf && Table.wf Core.init s.cores

/-! ## The words of the claims about one instruction -/

/-- Nothing keeps the acting context's stream `t` from issuing an instruction with these sync bits (R27, R28, R194): no
fault of it is held, no push of it waits for room, every counter that it pops is nonzero, no epoch is open, the tokens
popped depend on none, and its operands have their residues (R210). -/
def State.ready (s : State) (t : Stream) (sy : Sync) : Bool :=
  s.mayIssue t sy && s.ctx.ver.isNone && s.ctx.spec.isNone && decide ((s.popped t sy).2 = .clean) &&
    decide (s.ctx.c.badX = 0) && s.ms.badWords.isEmpty

/-- The state in which the instruction's own effect starts: its pops are taken (R27) and the YIELD mark is gone (R100). -/
def State.begun (s : State) (t : Stream) (sy : Sync) : State := ((s.popped t sy).1).unyield t

/-- The program counter of a stream. -/
def State.pcOf (s : State) (t : Stream) : Word := (s.str t).pc

/-- The address `n` words behind the stream's program counter. -/
def State.behind (s : State) (t : Stream) (n : Nat) : Word := s.pcOf t + BitVec.ofNat 64 (4 * n)

/-- The target of a branch of the C stream: its address plus four times its displacement (R111). -/
def State.target {n : Nat} (s : State) (disp : BitVec n) : Word := s.pcOf .c + 4 * disp.signExtend 64

/-- The state with a stream's program counter at an address. -/
def State.at (s : State) (t : Stream) (pc : Word) : State := s.mapStr t fun x => { x with pc := pc }

/-- The instruction has its effect `w` and the stream goes on at `pc`: the sync pushes wait for `need` (R28). -/
def State.endsAt (s : State) (i : Instr) (t : Stream) (sy : Sync) (pc : Word) (need : Need) (w : State) : Prop :=
  exec i s = .next (w.complete t sy pc need .clean)

/-- The instruction of `n` words has its effect `w` and the stream goes on behind it. -/
def State.completes (s : State) (i : Instr) (t : Stream) (sy : Sync) (n : Nat) (need : Need) (w : State) : Prop :=
  s.endsAt i t sy (s.behind t n) need w

/-- A context without the bookkeeping of the sync bits and of the issue slots: its token counters, held pops and pushes, counts of
instructions, and the marks of a YIELD or a wait (R26 to R30, R100). Everything else of it is there. -/
def Ctx.still (c : Ctx) : Ctx :=
  { c with
      tok := Vector.replicate 10 [], streams := c.streams.map fun x => { x with held := none, pushes := [], count := 0 }
      c := { c.c with yielding := false, sleeping := false } }

/-- A state without the bookkeeping of the acting context's sync bits. Two states that are equal in this have the same
registers of every kind, the same program counters, the same memory and the same state of the rest of the part. -/
def State.still (s : State) : State := { s with ctx := s.ctx.still }

/-- The instruction answers a next state which is `e` with the stream at `pc`, in everything but the bookkeeping of the
sync bits: the frame and the result at once. -/
def State.gives (s : State) (i : Instr) (t : Stream) (pc : Word) (e : State) : Prop :=
  ∃ u, exec i s = .next u ∧ u.still = (e.at t pc).still

/-- Nothing stands between the acting context and the bytes of memory: no reduction is outstanding, no replica, no
read-only-path line and no sector in an L1 data cache is held, no sector has an error, no store waits in the commit buffer, and no
access of an earlier instruction is under way. -/
def State.plain (s : State) : Bool :=
  s.ms.red.isEmpty && s.ms.replicas.isEmpty && s.ms.poisoned.isEmpty && s.ms.weak.isEmpty && s.ctx.cb.isEmpty &&
    (s.core s.coreNo).roLines.isEmpty && (s.cores.all fun c => c.2.l1s.isEmpty) && !s.awaited

/-- The physical address of an address of the own SP window (R215, R217). -/
def State.ownPa (s : State) (a : Word) : Nat := spPa s.coreNo (s.ctx.win.spBase + a.toNat % 2 ^ 48)

/-- `n` bytes at an aligned address lie in the own SP window (R215, R235). -/
def State.inOwnWindow (s : State) (a : Word) (n : Nat) : Bool :=
  decide (a.toNat / 2 ^ 48 = 0xFF) && decide (a.toNat % n = 0) && decide (a.toNat % 2 ^ 48 + n ≤ s.ctx.win.spSize)

/-- The state with bytes of memory written. -/
def State.withBytes (s : State) (pa : Nat) (b : List Byte) : State := { s with mem := s.mem.setBytes pa b }

/-- An access of `n` bytes to a place performs at once: it has its tokens, and nothing parks it (R237, R325). -/
def State.passes (s : State) (p : Place) (n : Nat) : Bool := s.hasTokens p.pa n && !s.mustPark p n

/-- A place holds what a read of `n` bytes needs at once: tokens, no condition that parks it, no poison (R211, R237,
R325). -/
def State.open (s : State) (p : Place) (n : Nat) : Bool := s.passes p n && !s.badAt p.pa n

/-- Everything that a fence of some classes at a scope waits for has come about: no store of a class is held in the commit
buffer; beyond CORE scope no request of a class is held at the core's port; beyond CLUSTER scope no slice that the scope
reaches has to answer a marker; and beyond DIE scope no write of a class is pending at its home (R269, R272). -/
def State.drained (s : State) (classes : BitVec 16) (scope : Scope) : Bool :=
  let mine (k : Nat) : Bool := classes.getLsbD k
  let here (d : Nat) : Bool := wideScope scope || decide (d = s.dieNo)
  !(s.ctx.cb.any fun e => e.classes.any fun k => mine k.1.val) &&
  (decide (scope = .core) || !s.portHolds classes) &&
  (!marksScope scope ||
    (!((s.core s.coreNo).posted.any fun e => mine e.1 && here e.2.1) &&
     !(s.ms.markers.any fun m => decide (m.core = s.coreNo) && mine m.cls && here m.die) &&
     !(wideScope scope && s.ctx.order.sectors.any fun e => mine e.2)))

/-- What a wait for some classes at a scope reports first: the first access that a home dropped and that it would have waited for
(R237). -/
def State.reportOf (s : State) (r : Reporter) (classes : BitVec 16) (scope : Scope) : Option Dropped :=
  s.ctx.order.dropped.find? (s.reports r classes scope)

/-- A wait for some classes at a scope completes at once. -/
def State.fencedOff (s : State) (r : Reporter) (classes : BitVec 16) (scope : Scope) : Bool :=
  s.drained classes scope && (s.reportOf r classes scope).isNone

/-- The instruction of one word of the C stream writes `v` to a scalar register and changes nothing else. -/
def State.givesX (s : State) (i : Instr) (n : Nat) (rd : XReg) (v : Word) : Prop :=
  s.gives i .c (s.behind .c n) (s.setX rd v)

/-- The instruction of the C stream writes `v` to a predicate and changes nothing else. -/
def State.givesP (s : State) (i : Instr) (n : Nat) (pd : PReg) (v : BitVec 1024) : Prop :=
  s.gives i .c (s.behind .c n) (s.setP .c pd v)

/-- The C stream takes a trap at the instruction: the trap registers hold the cause, the instruction's address, the value
and the stream word, the engines pause, and the stream goes on at the handler (R332). -/
def State.traps (s : State) (i : Instr) (cause : BitVec 8) (val : Word) : Prop :=
  exec i s = .next (s.takeTrap cause val)

/-- An engine stream records a fault at the instruction, which keeps its pops and makes no push (R30, R328, R337). -/
def State.faults (s : State) (i : Instr) (t : Stream) (sy : Sync) (cause : BitVec 8) (val : Word) : Prop :=
  exec i s = .next (((s.begun t sy).keepPops t sy .clean).recordFault t cause val)

/-- The instruction has issued and waits at its pc in the state `w`, its pops taken (R27). -/
def State.begins (s : State) (i : Instr) (t : Stream) (sy : Sync) (w : State) : Prop :=
  exec i s = .next (w.keepPops t sy .clean)

/-- The views named pass the checks of R133 for elements 0 to VL − 1: type, length, place in the window. -/
def State.fine (s : State) (l : List (VReg × (ElemTy → Bool))) : Prop :=
  ∀ q ∈ l, s.viewFault q.1 q.2 s.vl s.named = none

/-- A VX instruction makes element writes in their order and raises flags unless nf is set (R139); it waits only where a
write of it would touch the operand rows of an open span. -/
def State.givesV (s : State) (i : Instr) (sy : Sync) (x : Option VExt) (writes : List BitWrite)
    (flags : List (Nat × BitVec 5)) : Prop :=
  (∀ w, State.writeBits .vx (s.begun .vx sy) writes = some w →
    s.completes i .vx sy (1 + extLen x) .now (w.raiseLanes (nfOf x) flags)) ∧
  (s.ctx.mx.opRows = [] → (State.writeBits .vx (s.begun .vx sy) writes).isSome = true)

/-- An element-wise VX instruction: each active element of vd takes the bits that `f` gives and its lane the flags; pz
zeroes the inactive elements below VL (R138, R139). -/
def State.givesE (s : State) (i : Instr) (sy : Sync) (x : Option VExt) (vd : VReg) (f : Nat → Nat × BitVec 5) : Prop :=
  s.givesV i sy x
    ((s.actives x).map (fun e => (s.view vd).put e (f e).1) ++ (s.cleared x).map (fun e => (s.view vd).put e 0))
    ((s.actives x).map fun e => (e, (f e).2))

/-- A store's tables are in their canonical form. -/
def Store.wf (st : Store) : Bool := Table.wf Slot.zero st.slots && Table.wf BandSt.zero st.bands

/-- An MX command of one word completes: in each store of the core the new contents stand to the old ones as `p` says, and
memory, the scalar registers, the views and the special registers stay. -/
def State.completesMx (s : State) (i : Instr) (p : Store → Store → Prop) : Prop :=
  ∃ t, exec i s = .next t ∧ t.pcOf .mx = s.behind .mx 1 ∧ p s.here.main t.here.main ∧ p s.here.shadow t.here.shadow ∧
    t.mem = s.mem ∧ (∀ r, t.x r = s.x r) ∧ t.ctx.vx = s.ctx.vx ∧ t.ctx.sys = s.ctx.sys

/-- The matrix stream may issue an adding command with command code `cmd`: its chain is `ch`, on bands that the context
owns, the format word is `w` and legal for operands of kind `k`, and the bands have that kind or none (R163, R170 to
R175). -/
def State.mayAdd (s : State) (cmd : Nat) (ch : Chain) (w : Word) (k : BandKind) : Prop :=
  s.mxReady = true ∧ (s.ctx.queues[0]).peek = some w ∧ s.queueDep 0 = .clean ∧ s.ctx.mx.chain = some ch ∧ ch.cols ≤ 64 ∧
  s.bandFault ch.band ch.nb false = none ∧ (Fmt.ofWord w).adding cmd = some k ∧
  s.here.am.clash (rangeBands ch.band ch.nb) k (Fmt.ofWord w).anchor = false

/-- An adding command of `len` words adds, in both stores through the adders of their arrays, `prods i j` to the slot at row i below `m`
and column j below `n` of the chain, and changes no other slot; the chain's bands take kind `k` where they had none; the command is logged in
the span, which has room for it (R178, R190). -/
def State.addsTo (s : State) (i : Instr) (len : Nat) (ch : Chain) (k : BandKind) (anchor : Int) (m n : Nat)
    (prods : Nat → Nat → List (Val × Val)) : Prop :=
  s.ctx.mx.spanFull ((grid m n).map fun q => (ch.key q.1 q.2, (prods q.1 q.2).length)) = false →
  let added (shadow : Bool) (st st' : Store) : Prop :=
    (∀ r < m, ∀ c < n, st'.slot (ch.key r c) = s.here.adder shadow k r c ((st.slot (ch.key r c)).addAll k anchor (prods r c))) ∧
    (∀ key, (∀ r < m, ∀ c < n, key ≠ ch.key r c) → st'.slot key = st.slot key) ∧
    (∀ b ∈ rangeBands ch.band ch.nb, (st'.band b).kind = if (st.band b).kind = .none then k else (st.band b).kind)
  ∃ t, exec i s = .next t ∧ t.pcOf .mx = s.behind .mx len ∧ added false s.here.main t.here.main ∧ added true s.here.shadow t.here.shadow ∧
    t.mem = s.mem ∧ (∀ r, t.x r = s.x r) ∧ t.ctx.vx = s.ctx.vx ∧ t.ctx.sys = s.ctx.sys ∧
    t.ctx.mx.spanLog.length = s.ctx.mx.spanLog.length + 1

end Sys2Proof.Machine
end

