-- ==== Sys2Proof/Certificates/Slice0/Obligations.lean ====
section
/-!
DEFINITION. The statements for the provers. Each speaks of every state and every operand that meets its hypotheses;
`State.gives`, `State.completes` and the other words of the claims are defined in Safety.lean.
-/

open Sys2Proof Sys2Proof.Machine

/-! ## The control stream: registers, compares, predicates (R102 to R110) -/

/-- The register-register forms add, subtract, combine, shift and multiply as R106 says; nothing else changes: no other
register, no flag, no byte of memory. The divisions, their corners included, and the minima and maxima of R106. The bit
counts of R106: `POPC` writes the number of one bits, `CLZ` and `CTZ` the number of zeros above and below the highest
and the lowest one bit, 64 for a zero. Each of these instructions has the OP and fn of the table of R106 in a CR word;
fn 3 of OP 0x04 is ILLEGAL, FUNC, and a nonzero rb of OP 0x07 is ILLEGAL, MBZ. -/
def Obligations.RegisterArithmetic : Prop :=
  (∀ (s : State) (sy : Sync) (rd ra rb : XReg), s.ready .c sy = true →
    let a := s.x ra
    let b := s.x rb
    s.givesX (.add sy rd ra rb) 1 rd (a + b) ∧ s.givesX (.sub sy rd ra rb) 1 rd (a - b) ∧
    s.givesX (.and sy rd ra rb) 1 rd (a &&& b) ∧ s.givesX (.or sy rd ra rb) 1 rd (a ||| b) ∧
    s.givesX (.xor sy rd ra rb) 1 rd (a ^^^ b) ∧ s.givesX (.mov sy rd ra) 1 rd a ∧
    s.givesX (.shl sy rd ra rb) 1 rd (a <<< (b.toNat % 64)) ∧ s.givesX (.shr sy rd ra rb) 1 rd (a >>> (b.toNat % 64)) ∧
    s.givesX (.sra sy rd ra rb) 1 rd (a.sshiftRight (b.toNat % 64)) ∧
    s.givesX (.mul sy rd ra rb) 1 rd (a * b) ∧
    s.givesX (.mulh sy rd ra rb) 1 rd ((a.signExtend 128 * b.signExtend 128).extractLsb' 64 64) ∧
    s.givesX (.mulhu sy rd ra rb) 1 rd ((a.setWidth 128 * b.setWidth 128).extractLsb' 64 64)) ∧
  (∀ (s : State) (sy : Sync) (rd ra rb : XReg), s.ready .c sy = true →
    let a := s.x ra
    let b := s.x rb
    s.givesX (.div sy rd ra rb) 1 rd (if b = 0 then 0xFFFFFFFFFFFFFFFF else a.sdiv b) ∧
    s.givesX (.divu sy rd ra rb) 1 rd (if b = 0 then 0xFFFFFFFFFFFFFFFF else a / b) ∧
    s.givesX (.rem sy rd ra rb) 1 rd (if b = 0 then a else a.srem b) ∧
    s.givesX (.remu sy rd ra rb) 1 rd (if b = 0 then a else a % b) ∧
    s.givesX (.min sy rd ra rb) 1 rd (if a.sle b then a else b) ∧ s.givesX (.max sy rd ra rb) 1 rd (if a.sle b then b else a) ∧
    s.givesX (.minu sy rd ra rb) 1 rd (if a.ule b then a else b) ∧ s.givesX (.maxu sy rd ra rb) 1 rd (if a.ule b then b else a)) ∧
  (∀ (s : State) (sy : Sync) (rd ra : XReg), s.ready .c sy = true →
    let a := s.x ra
    s.givesX (.popc sy rd ra) 1 rd (BitVec.ofNat 64 ((List.range 64).filter fun i => a.getLsbD i).length) ∧
    (∃ n ≤ 64, s.givesX (.clz sy rd ra) 1 rd (BitVec.ofNat 64 n) ∧ (∀ i < n, a.getLsbD (63 - i) = false) ∧
      (n < 64 → a.getLsbD (63 - n) = true)) ∧
    (∃ n ≤ 64, s.givesX (.ctz sy rd ra) 1 rd (BitVec.ofNat 64 n) ∧ (∀ i < n, a.getLsbD i = false) ∧
      (n < 64 → a.getLsbD n = true))) ∧
  (∀ (sy : Sync) (rd ra rb : XReg),
    let word (op fn : Nat) (b : XReg) : Nat := first sy 0 op (rd.val * 2 ^ 14 + ra.val * 2 ^ 8 + b.val * 2 ^ 2 + fn)
    let reads (op fn : Nat) (b : XReg) (i : Instr) : Prop := decodeList .c [word op fn b] = .ok (.ins i)
    reads 2 0 rb (.add sy rd ra rb) ∧ reads 2 1 rb (.sub sy rd ra rb) ∧ reads 2 2 rb (.and sy rd ra rb) ∧
    reads 2 3 rb (.or sy rd ra rb) ∧ reads 3 0 rb (.xor sy rd ra rb) ∧ reads 3 1 rb (.shl sy rd ra rb) ∧
    reads 3 2 rb (.shr sy rd ra rb) ∧ reads 3 3 rb (.sra sy rd ra rb) ∧ reads 4 0 rb (.mul sy rd ra rb) ∧
    reads 4 1 rb (.mulh sy rd ra rb) ∧ reads 4 2 rb (.mulhu sy rd ra rb) ∧ reads 5 0 rb (.div sy rd ra rb) ∧
    reads 5 1 rb (.divu sy rd ra rb) ∧ reads 5 2 rb (.rem sy rd ra rb) ∧ reads 5 3 rb (.remu sy rd ra rb) ∧
    reads 6 0 rb (.min sy rd ra rb) ∧ reads 6 1 rb (.max sy rd ra rb) ∧ reads 6 2 rb (.minu sy rd ra rb) ∧
    reads 6 3 rb (.maxu sy rd ra rb) ∧ reads 7 0 0 (.mov sy rd ra) ∧ reads 7 1 0 (.popc sy rd ra) ∧
    reads 7 2 0 (.clz sy rd ra) ∧ reads 7 3 0 (.ctz sy rd ra) ∧
    decodeList .c [word 4 3 rb] = .error { sub := .func, k := 0 } ∧
    ∀ fn < 4, rb ≠ 0 → decodeList .c [word 7 fn rb] = .error { sub := .mbz, k := 0 })

/-- The immediate forms of R107, at each LEN: the 8-bit and 36-bit immediates are sign-extended. The shifts by an
immediate of R107, at each LEN, for the immediates 0 to 63 that their encodings admit. Each of these instructions has
the OP of the table of R107, and its immediate lies in the first word's low byte, in E1 and in E2 as R31 says; a shift
by an immediate outside 0 to 63 is ILLEGAL, OPERAND, and `LI` with a nonzero ra is ILLEGAL, MBZ. -/
def Obligations.ImmediateForms : Prop :=
  (∀ (s : State) (sy : Sync) (rd ra : XReg) (i0 : BitVec 8) (i1 : BitVec 36) (i2 : BitVec 64), s.ready .c sy = true →
    let a := s.x ra
    let j0 : Word := i0.signExtend 64
    let j1 : Word := i1.signExtend 64
    (s.givesX (.addi sy rd ra i0) 1 rd (a + j0) ∧ s.givesX (.addiLen1 sy rd ra i1) 2 rd (a + j1) ∧
      s.givesX (.addiLen2 sy rd ra i2) 3 rd (a + i2)) ∧
    (s.givesX (.andi sy rd ra i0) 1 rd (a &&& j0) ∧ s.givesX (.andiLen1 sy rd ra i1) 2 rd (a &&& j1) ∧
      s.givesX (.andiLen2 sy rd ra i2) 3 rd (a &&& i2)) ∧
    (s.givesX (.ori sy rd ra i0) 1 rd (a ||| j0) ∧ s.givesX (.oriLen1 sy rd ra i1) 2 rd (a ||| j1) ∧
      s.givesX (.oriLen2 sy rd ra i2) 3 rd (a ||| i2)) ∧
    (s.givesX (.xori sy rd ra i0) 1 rd (a ^^^ j0) ∧ s.givesX (.xoriLen1 sy rd ra i1) 2 rd (a ^^^ j1) ∧
      s.givesX (.xoriLen2 sy rd ra i2) 3 rd (a ^^^ i2)) ∧
    (s.givesX (.muli sy rd ra i0) 1 rd (a * j0) ∧ s.givesX (.muliLen1 sy rd ra i1) 2 rd (a * j1) ∧
      s.givesX (.muliLen2 sy rd ra i2) 3 rd (a * i2)) ∧
    (s.givesX (.li sy rd i0) 1 rd j0 ∧ s.givesX (.liLen1 sy rd i1) 2 rd j1 ∧ s.givesX (.liLen2 sy rd i2) 3 rd i2)) ∧
  (∀ (s : State) (sy : Sync) (rd ra : XReg) (n : Nat), s.ready .c sy = true → n < 64 →
    let a := s.x ra
    (s.givesX (.shli sy rd ra (BitVec.ofNat 8 n)) 1 rd (a <<< n) ∧ s.givesX (.shliLen1 sy rd ra (BitVec.ofNat 36 n)) 2 rd (a <<< n) ∧
      s.givesX (.shliLen2 sy rd ra (BitVec.ofNat 64 n)) 3 rd (a <<< n)) ∧
    (s.givesX (.shri sy rd ra (BitVec.ofNat 8 n)) 1 rd (a >>> n) ∧ s.givesX (.shriLen1 sy rd ra (BitVec.ofNat 36 n)) 2 rd (a >>> n) ∧
      s.givesX (.shriLen2 sy rd ra (BitVec.ofNat 64 n)) 3 rd (a >>> n)) ∧
    (s.givesX (.srai sy rd ra (BitVec.ofNat 8 n)) 1 rd (a.sshiftRight n) ∧
      s.givesX (.sraiLen1 sy rd ra (BitVec.ofNat 36 n)) 2 rd (a.sshiftRight n) ∧
      s.givesX (.sraiLen2 sy rd ra (BitVec.ofNat 64 n)) 3 rd (a.sshiftRight n))) ∧
  (∀ (sy : Sync) (rd ra : XReg) (i0 : BitVec 8) (i1 : BitVec 36) (i2 : BitVec 64),
    let w (len op imm : Nat) (a : XReg) : Nat := first sy len op (rd.val * 2 ^ 14 + a.val * 2 ^ 8 + imm % 2 ^ 8)
    let l0 (op : Nat) (a : XReg) : List Nat := [w 0 op i0.toNat a]
    let l1 (op : Nat) (a : XReg) : List Nat := [w 1 op i1.toNat a, i1.toNat / 2 ^ 8]
    let l2 (op : Nat) (a : XReg) : List Nat := [w 2 op i2.toNat a, i2.toNat / 2 ^ 8 % 2 ^ 28, i2.toNat / 2 ^ 36]
    let reads (op : Nat) (a : XReg) (i j k : Instr) : Prop :=
      decodeList .c (l0 op a) = .ok (.ins i) ∧ decodeList .c (l1 op a) = .ok (.ins j) ∧ decodeList .c (l2 op a) = .ok (.ins k)
    let shift (op : Nat) (i j k : Instr) : Prop :=
      decodeList .c (l0 op ra) = (if i0.toNat < 64 then .ok (.ins i) else .error { sub := .operand, k := 0 }) ∧
      decodeList .c (l1 op ra) = (if i1.toNat < 64 then .ok (.ins j) else .error { sub := .operand, k := 0 }) ∧
      decodeList .c (l2 op ra) = (if i2.toNat < 64 then .ok (.ins k) else .error { sub := .operand, k := 0 })
    let bad : Decoded := .error { sub := .mbz, k := 0 }
    reads 8 ra (.addi sy rd ra i0) (.addiLen1 sy rd ra i1) (.addiLen2 sy rd ra i2) ∧
    reads 9 ra (.andi sy rd ra i0) (.andiLen1 sy rd ra i1) (.andiLen2 sy rd ra i2) ∧
    reads 10 ra (.ori sy rd ra i0) (.oriLen1 sy rd ra i1) (.oriLen2 sy rd ra i2) ∧
    reads 11 ra (.xori sy rd ra i0) (.xoriLen1 sy rd ra i1) (.xoriLen2 sy rd ra i2) ∧
    shift 12 (.shli sy rd ra i0) (.shliLen1 sy rd ra i1) (.shliLen2 sy rd ra i2) ∧
    shift 13 (.shri sy rd ra i0) (.shriLen1 sy rd ra i1) (.shriLen2 sy rd ra i2) ∧
    shift 14 (.srai sy rd ra i0) (.sraiLen1 sy rd ra i1) (.sraiLen2 sy rd ra i2) ∧
    reads 15 0 (.li sy rd i0) (.liLen1 sy rd i1) (.liLen2 sy rd i2) ∧
    reads 16 ra (.muli sy rd ra i0) (.muliLen1 sy rd ra i1) (.muliLen2 sy rd ra i2) ∧
    (ra ≠ 0 → decodeList .c (l0 15 ra) = bad ∧ decodeList .c (l1 15 ra) = bad ∧ decodeList .c (l2 15 ra) = bad))

/-- The compares write the comparison to every bit of the predicate (R108), and the logic forms combine whole predicates
(R109); nothing else changes. -/
def Obligations.ComparesAndPredicates : Prop :=
  ∀ (s : State) (sy : Sync) (pd pa pb : PReg) (ra rb : XReg) (i0 : BitVec 6) (i1 : BitVec 34), s.ready .c sy = true →
    let all (b : Bool) : BitVec 1024 := if b then BitVec.allOnes 1024 else 0
    let cmp (cc : Cc) (a b : Word) : Bool := match cc with
      | .eq => decide (a = b) | .ne => decide (a ≠ b) | .lt => a.slt b | .ge => b.sle a | .ltu => a.ult b | .geu => b.ule a
    (∀ cc, s.givesP (.cmp sy pd cc ra rb) 1 pd (all (cmp cc (s.x ra) (s.x rb))) ∧
      s.givesP (.cmpi sy pd cc ra i0) 1 pd (all (cmp cc (s.x ra) (i0.signExtend 64))) ∧
      s.givesP (.cmpiLen1 sy pd cc ra i1) 2 pd (all (cmp cc (s.x ra) (i1.signExtend 64)))) ∧
    s.givesP (.pand sy pd pa pb) 1 pd (s.pr pa &&& s.pr pb) ∧ s.givesP (.por sy pd pa pb) 1 pd (s.pr pa ||| s.pr pb) ∧
    s.givesP (.pxor sy pd pa pb) 1 pd (s.pr pa ^^^ s.pr pb) ∧ s.givesP (.pandn sy pd pa pb) 1 pd (s.pr pa &&& ~~~(s.pr pb)) ∧
    s.givesP (.pnot sy pd pa) 1 pd (~~~(s.pr pa)) ∧ s.givesP (.pset sy pd) 1 pd (BitVec.allOnes 1024) ∧
    s.givesP (.pclr sy pd) 1 pd 0 ∧ s.givesP (.pmov sy pd pa) 1 pd (s.pr pa)

/-- `PCNT` writes the number of one bits among the active elements, at most 1,024 and 0 when VL is 0, and changes
nothing else; its word holds rd at bit 14 and pa at bit 10, and a word of it with one of bits [9:0] set is ILLEGAL, MBZ
(R110). -/
def Obligations.PredicateCount : Prop :=
  (∀ (s : State) (sy : Sync) (rd : XReg) (pa : PReg), s.ready .c sy = true →
    let n := ((List.range 1024).filter fun e => decide (e < s.vl) && (s.pr pa).getLsbD e).length
    s.givesX (.pcnt sy rd pa) 1 rd (BitVec.ofNat 64 n) ∧ n ≤ 1024 ∧ (s.vl = 0 → n = 0)) ∧
  (∀ (sy : Sync) (rd : XReg) (pa : PReg), encode (.pcnt sy rd pa) = [first sy 0 0x14 (rd.val * 2 ^ 14 + pa.val * 2 ^ 10)] ∧
    ∀ low < 2 ^ 10, decodeList .c [first sy 0 0x14 (rd.val * 2 ^ 14 + pa.val * 2 ^ 10 + low)] =
      if low = 0 then .ok (.ins (.pcnt sy rd pa)) else .error { sub := .mbz, k := 0 }) ∧
  encode (.pcnt Sync.none 8 5) = [0x01421400]

/-- `x0` reads zero whatever was written, and every other register reads what was written to it last; a write to one
leaves the others (R102). -/
def Obligations.ScalarRegisters : Prop :=
  ∀ (s : State) (r k : XReg) (v : Word),
    s.x 0 = 0 ∧ s.setX 0 v = s ∧ (r ≠ 0 → (s.setX r v).x r = v) ∧ (k ≠ r → (s.setX r v).x k = s.x k)

/-! ## The control stream: flow, traps, special registers (R96 to R117, R328 to R336) -/

/-- Branches go to pc + 4·disp when taken and on behind themselves when not, and change nothing else (R111); `BRI` goes
to an aligned register (R112). -/
def Obligations.Branches : Prop :=
  ∀ (s : State) (sy : Sync) (p : PReg) (sense : Bool) (ra : XReg) (d0 : BitVec 15) (d1 : BitVec 43), s.ready .c sy = true →
    let bit (e : Nat) : Bool := (s.pr p).getLsbD e
    let some1 : Bool := (List.range 1024).any fun e => decide (e < s.vl) && bit e
    let all1 : Bool := (List.range 1024).all fun e => !decide (e < s.vl) || bit e
    let go (taken : Bool) (dest : Word) (n : Nat) : Word := if taken then dest else s.behind .c n
    s.gives (.br sy d0) .c (s.target d0) s ∧ s.gives (.brLen1 sy d1) .c (s.target d1) s ∧
    s.gives (.bp sy p sense d0) .c (go (bit 0 == sense) (s.target d0) 1) s ∧
    s.gives (.bpLen1 sy p sense d1) .c (go (bit 0 == sense) (s.target d1) 2) s ∧
    s.gives (.bany sy p sense d0) .c (go (some1 == sense) (s.target d0) 1) s ∧
    s.gives (.banyLen1 sy p sense d1) .c (go (some1 == sense) (s.target d1) 2) s ∧
    s.gives (.ball sy p sense d0) .c (go (all1 == sense) (s.target d0) 1) s ∧
    s.gives (.ballLen1 sy p sense d1) .c (go (all1 == sense) (s.target d1) 2) s ∧
    ((s.x ra).extractLsb' 0 2 = 0 → s.gives (.bri sy ra) .c (s.x ra) s)

/-- A call with room on the return stack pushes the address behind itself and jumps; a return takes the newest entry
away and jumps to it (R114). A call of any form on a full return stack stores its eight oldest entries as group DEPTH of the spill
area before it pushes; with DEPTH 255 it traps STACK with value 1, and a store that faults traps with the group's
address. A return from an empty stack with DEPTH above 0 loads group DEPTH - 1 of the spill area as its eight entries and returns to the
newest of them; a load that faults traps with the group's address (R114). -/
def Obligations.CallsAndReturns : Prop :=
  (∀ (s : State) (sy : Sync) (ra : XReg) (d0 : BitVec 15) (d1 : BitVec 43), s.ready .c sy = true →
    let push (n : Nat) : State := s.mapC fun c => { c with stack := c.stack ++ [s.behind .c n] }
    (s.ctx.c.stack.length < 16 →
      s.gives (.call sy d0) .c (s.target d0) (push 1) ∧ s.gives (.callLen1 sy d1) .c (s.target d1) (push 2) ∧
      ((s.x ra).extractLsb' 0 2 = 0 → s.gives (.calli sy ra) .c (s.x ra) (push 1))) ∧
    (∀ older top, s.ctx.c.stack = older ++ [top] → top.extractLsb' 0 2 = 0 →
      s.gives (.ret sy) .c top (s.mapC fun c => { c with stack := older }))) ∧
  (∀ (s : State) (sy : Sync) (ra : XReg) (d0 : BitVec 15) (d1 : BitVec 43), s.ready .c sy = true →
    let w := s.ctx.c.stackbase
    let depth := w.toNat / 2 ^ 56
    let group (k : Nat) : Word := BitVec.ofNat 64 (w.toNat % 2 ^ 56 / 64 * 64 + 64 * k)
    let base (k : Nat) : Word := BitVec.ofNat 64 (k * 2 ^ 56 + w.toNat % 2 ^ 56)
    let bytes : List Byte := (s.ctx.c.stack.take 8).flatMap fun e => leBytes 8 e.toNat
    let spills (i : Instr) (n : Nat) (dest : Word) : Prop :=
      (depth = 255 → s.traps i 0x15 1) ∧
      (depth < 255 → ∀ u, (s.begun .c sy).store .c (group depth) bytes 0 .default = .done () u →
        s.endsAt i .c sy dest .now
          (u.mapC fun c => { c with stack := c.stack.drop 8 ++ [s.behind .c n], stackbase := base (depth + 1) })) ∧
      (depth < 255 → ∀ c v, (s.begun .c sy).store .c (group depth) bytes 0 .default = .fault c v → s.traps i c v)
    (s.ctx.c.stack.length = 16 → spills (.call sy d0) 1 (s.target d0) ∧ spills (.callLen1 sy d1) 2 (s.target d1) ∧
      ((s.x ra).extractLsb' 0 2 = 0 → spills (.calli sy ra) 1 (s.x ra))) ∧
    (s.ctx.c.stack = [] → 0 < depth →
      (∀ v u, (s.begun .c sy).load (group (depth - 1)) 64 0 .default false = .done v u →
        let entry (j : Nat) : Word := BitVec.ofNat 64 (v / 2 ^ (64 * j))
        ((entry 7).extractLsb' 0 2 = 0 → s.endsAt (.ret sy) .c sy (entry 7) .now
          (u.mapC fun c => { c with stack := (List.range 7).map entry, stackbase := base (depth - 1) })) ∧
        ((entry 7).extractLsb' 0 2 ≠ 0 → s.traps (.ret sy) 0x03 (entry 7))) ∧
      (∀ c v, (s.begun .c sy).load (group (depth - 1)) 64 0 .default false = .fault c v → s.traps (.ret sy) c v)))

/-- Jumps to an address in a register, starts of streams and returns from a trap at an address whose two low bits are
not zero trap ALIGN with that address, and so does a return from a trap to an address with one of bits [63:56] set; a return from an empty stack with DEPTH 0 traps STACK with value 0 (R112, R114,
R118, R336). -/
def Obligations.MisalignedTargetsTrap : Prop :=
  ∀ (s : State) (sy : Sync) (ra : XReg) (e : Engine), s.ready .c sy = true →
    ((s.x ra).extractLsb' 0 2 ≠ 0 →
      s.traps (.bri sy ra) 0x03 (s.x ra) ∧ s.traps (.calli sy ra) 0x03 (s.x ra) ∧ s.traps (.ego sy e ra) 0x03 (s.x ra)) ∧
    (∀ older top, s.ctx.c.stack = older ++ [top] → top.extractLsb' 0 2 ≠ 0 → s.traps (.ret sy) 0x03 top) ∧
    (s.ctx.c.stack = [] → s.ctx.c.stackbase.toNat < 2 ^ 56 → s.traps (.ret sy) 0x15 0) ∧
    (s.ctx.c.trappc.extractLsb' 0 2 ≠ 0 ∨ s.ctx.c.trappc.extractLsb' 56 8 ≠ 0 → s.traps (.eret sy) 0x03 s.ctx.c.trappc)

/-- `NOP` has no effect. `PREF` passes the lines of its range through the caches and raises no fault, wherever its range
lies; no register, predicate, special register or view changes, and where no reduction is outstanding and no sector is
encrypted no byte of memory.
`EVCLR` clears the bits of EVT in its mask; `WFE` goes on once a bit of its mask is set and waits, with nothing changed
but the mark that it waits, while none is; `YIELD` sets the mark that lets other contexts issue first (R97, R100,
R236). -/
def Obligations.HintsAndEvents : Prop :=
  ∀ (s : State) (sy : Sync) (m : BitVec 6) (ra rb : XReg) (h : Hint), s.ready .c sy = true →
    let n := min (s.x rb).toNat (2 ^ 32)
    s.gives (.nop sy) .c (s.behind .c 1) s ∧
    s.completes (.pref sy ra rb h) .c sy 1 .now
      (State.prefetch h (n / 2 ^ 16 + 4) (s.begun .c sy) (s.x ra).toNat ((s.x ra).toNat + n)) ∧
    (∃ t, exec (.pref sy ra rb h) s = .next t ∧ t.pcOf .c = s.behind .c 1 ∧ (s.ms.red = [] → s.ms.sealed = [] → t.mem = s.mem) ∧
      (∀ r, t.x r = s.x r) ∧ t.ctx.p = s.ctx.p ∧ t.ctx.sys = s.ctx.sys ∧ t.ctx.vx = s.ctx.vx ∧ t.ctx.c.stack = s.ctx.c.stack) ∧
    s.gives (.evclr sy m) .c (s.behind .c 1) (s.mapSys fun r => { r with evt := r.evt &&& ~~~m }) ∧
    (s.ctx.sys.evt &&& m ≠ 0 → s.gives (.wfe sy m) .c (s.behind .c 1) s) ∧
    (s.ctx.sys.evt &&& m = 0 → exec (.wfe sy m) s = .next (s.mapC fun c => { c with sleeping := true })) ∧
    s.completes (.yield sy) .c sy 1 .now ((s.begun .c sy).mapC fun c => { c with yielding := true })

/-- `DONE`, once no engine stream runs and everything of the context has performed, ends the task: the context holds no
task any more, while its registers keep their values until the next one, its bands and grants are free, nothing waits on its behalf, and no
byte of memory changes (R75, R99).
That `DONE` also waits for collective exchanges in flight is the model's choice (log entry 32). -/
def Obligations.DoneEndsTheTask : Prop :=
  ∀ (s : State) (sy : Sync), s.ready .c sy = true → s.ctx.enginesIdle = true → s.ctx.mx.drain = none →
    s.ctx.coll.exchanges = [] → s.ctx.pend = [] → s.ctx.order.dropped = [] → s.allPerformed = true → s.tablesOk = true →
    ∃ t, exec (.done sy) s = .next t ∧ t.ctx = (s.begun .c sy).ctx.ended ∧ t.ctx.live = false ∧
      t.ctx.sys = s.ctx.sys ∧ t.ctx.c.x = s.ctx.c.x ∧ t.mem = s.mem ∧
      (t.core s.coreNo).owner = (s.core s.coreNo).owner.filter (fun o => o.2 ≠ s.ctx.key.slot.val) ∧
      (t.core s.coreNo).grants =
        (s.core s.coreNo).grants.filter (fun g => g.2.1 ≠ s.ctx.key.slot.val ∧ g.2.2 ≠ s.ctx.key.slot.val) ∧
      ((t.ms.parked ++ t.ms.held).all fun q => decide (q.key ≠ s.ctx.key)) = true

/-- `TRAP` and `BRK` take traps TRAPINSN with the immediate and BRK with 0. With a handler and outside of one: TRAPCAUSE
holds the cause with HS set and ASYNC clear, TRAPPC the instruction's address, TRAPVAL the value, TRAPSTREAM the stream
C and its pc with RESUME clear; the engine streams pause, the C stream goes to TRAPVEC's address; registers, predicates,
special registers and memory stay (R330 to R332, R335). -/
def Obligations.TrapEntrySavesTheContext : Prop :=
  ∀ (s : State) (sy : Sync) (imm : BitVec 12), s.ready .c sy = true → s.ctx.c.trapcause.getLsbD 15 = false →
    s.ctx.c.trapvec &&& 0x00FFFFFFFFFFFFFC ≠ 0 →
    let entered (i : Instr) (cause : Nat) (val : Word) : Prop := ∃ t, exec i s = .next t ∧
      t.ctx.c.trapcause = BitVec.ofNat 64 (0x8000 + cause) ∧ t.ctx.c.trappc = s.pcOf .c ∧ t.ctx.c.trapval = val ∧
      t.ctx.c.trapstream = s.pcOf .c <<< 8 ∧ t.pcOf .c = s.ctx.c.trapvec &&& 0x00FFFFFFFFFFFFFC ∧
      (∀ k : Stream, k ≠ .c → (t.str k).paused = true ∧ t.pcOf k = s.pcOf k) ∧
      (∀ r, t.x r = s.x r) ∧ t.ctx.p = s.ctx.p ∧ t.ctx.sys = s.ctx.sys ∧ t.ctx.vx = s.ctx.vx ∧ t.ctx.c.stack = s.ctx.c.stack ∧
      t.mem = s.mem ∧ t.cores = s.cores
    entered (.trap sy imm) 0x13 (imm.setWidth 64) ∧ entered (.brk sy) 0x14 0

/-- `ERET` with an aligned TRAPPC below 2^56 goes on at TRAPPC, clears HS and RESUME, ends the pause of the engine
streams, and where RESUME was set restarts the faulted stream that STREAM names (R336). -/
def Obligations.ReturnFromTrap : Prop :=
  ∀ (s : State) (sy : Sync), s.ready .c sy = true → s.ctx.c.trappc.extractLsb' 0 2 = 0 → s.ctx.c.trappc.toNat < 2 ^ 56 →
    ∃ t, exec (.eret sy) s = .next t ∧ t.pcOf .c = s.ctx.c.trappc ∧
      t.ctx.c.trapcause = s.ctx.c.trapcause &&& 0xFFFFFFFFFFFF7FFF ∧
      t.ctx.c.trapstream = s.ctx.c.trapstream &&& 0xFFFFFFFFFFFFFFF7 ∧ t.ctx.c.trapval = s.ctx.c.trapval ∧
      (∀ k : Stream, k ≠ .c → (t.str k).paused = false ∧
        (s.ctx.c.trapstream.getLsbD 3 = true → (s.ctx.c.trapstream &&& 7).toNat = k.ix.val → (s.str k).fault.isSome = true →
          (t.str k).busy = true ∧ (t.str k).fault = none ∧ t.pcOf k = s.pcOf k)) ∧
      (∀ r, t.x r = s.x r) ∧ t.ctx.p = s.ctx.p ∧ t.ctx.sys = s.ctx.sys ∧ t.mem = s.mem ∧ t.cores = s.cores

/-- `MFSR` reads every special register of R115, and `MTSR` writes it, an `SWZ` register once no copy in flight touches
scratchpads (R219); `REMWAYS` is no task's to write, and traps PROT (R115, R116). What a special register reads after a
write: writable bits take the value, EVT's bits clear where the value has ones, and every other bit, and every read-only
register, reads as before (R96, R113, R115, R219, R253, R258, R330, R331). -/
def Obligations.SpecialRegisters : Prop :=
  (∀ (s : State) (sy : Sync) (rd rs : XReg) (sr : BitVec 12), s.ready .c sy = true →
    s.givesX (.mfsr sy rd sr) 1 rd (s.readSr sr.toNat) ∧
    (sr ≠ 0x070 → (0x040 ≤ sr.toNat → sr.toNat ≤ 0x047 → s.ctx.spInFlight = false) →
      s.gives (.mtsr sy sr rs) .c (s.behind .c 1) (s.writeSr sr.toNat (s.x rs))) ∧
    s.traps (.mtsr sy 0x070 rs) 0x05 0x070) ∧
  (∀ (s : State) (n k : Nat) (v : Word), n ∈ srNumbers → k ∈ srNumbers →
    let mask : Word := match n with
      | 0x012 => 0x3F | 0x020 => 0xFF81FF | 0x021 | 0x022 => 0xFFFFFFFFFFFFFFFF | 0x023 => 0x00FFFFFFFFFFFFFC | 0x024 => 8
      | 0x052 | 0x055 => 0xFFFFFFFFFFFFFFC0 | 0x054 => 0xFFFFFFFFFFFFFFE0 | _ => 0
    (s.writeSr n v).readSr n =
      (if n = 0x011 then s.readSr 0x011 &&& ~~~v
       else if 0x040 ≤ n ∧ n ≤ 0x047 then v &&& 0x7FFFFFFFF
       else (s.readSr n &&& ~~~mask) ||| (v &&& mask)) ∧
    (k ≠ n → (s.writeSr n v).readSr k = s.readSr k))

/-! ## Loads, stores, fences, cache maintenance (R235, R236, R269) -/

/-- A load of 1, 2, 4 or 8 aligned bytes of the own SP window writes them, zero-extended or, for `LDS`, sign-extended,
and changes nothing else; without and with an offset (R215, R235). A load at any address that passes its checks: where the
core's L1 data cache serves it, no request leaves the core; else, where it has its tokens and nothing parks it, its bytes are read at
the point of coherence and extended; poison among them traps; else its request is sent and the stream waits; and what the
request has read then completes it (R211, R214, R220, R235, R237, R263, R325). What the L1 data cache serves is the model's choice
(log entry 53). -/
def Obligations.Loads : Prop :=
  (∀ (s : State) (sy : Sync) (rd ra : XReg) (cls : Fin 16) (h : Hint) (sz : Size) (off : BitVec 28), s.ready .c sy = true →
    s.plain = true →
    let a1 := s.x ra + off.signExtend 64
    let val (a : Word) : Nat := s.mem.getLe (s.ownPa a) sz.bytes
    let sext (v : Nat) : Word := (BitVec.ofNat (8 * sz.bytes) v).signExtend 64
    (s.inOwnWindow (s.x ra) sz.bytes = true →
      s.givesX (.ld sy rd ra cls h sz) 1 rd (BitVec.ofNat 64 (val (s.x ra))) ∧
      s.givesX (.lds sy rd ra cls h sz) 1 rd (sext (val (s.x ra))) ∧
      s.givesX (.ldro sy rd ra cls h sz) 1 rd (BitVec.ofNat 64 (val (s.x ra)))) ∧
    (s.inOwnWindow a1 sz.bytes = true →
      s.givesX (.ldLen1 sy rd ra cls h sz off) 2 rd (BitVec.ofNat 64 (val a1)) ∧
      s.givesX (.ldsLen1 sy rd ra cls h sz off) 2 rd (sext (val a1)) ∧
      s.givesX (.ldroLen1 sy rd ra cls h sz off) 2 rd (BitVec.ofNat 64 (val a1)))) ∧
  (∀ (s : State) (sy : Sync) (rd ra : XReg) (cls : Fin 16) (h : Hint) (sz : Size) (off : BitVec 28), s.ready .c sy = true →
    s.ctx.order.answer = none →
    let u := s.begun .c sy
    let loads (i : Instr) (n : Nat) (a : Word) (ro signed : Bool) : Prop :=
      ∀ p w, u.locate a sz.bytes true false = (.ok p, w) →
        let ext (b : List Byte) : Word := if signed then sextBytes sz.bytes (leValue b) else BitVec.ofNat 64 (leValue b)
        (s.ctx.order.result = none → ∀ y, w.servedByL1 p sz.bytes ro = (true, y) →
          let r := y.hitL1 p sz.bytes cls h ro
          (y.badAt p.pa sz.bytes = false → s.completes i .c sy n .now (r.2.setX rd (ext r.1))) ∧
          (y.badAt p.pa sz.bytes = true → s.traps i 0x0C a)) ∧
        (s.ctx.order.result = none → ∀ y, w.servedByL1 p sz.bytes ro = (false, y) →
          let r := (((y.pay p.pa sz.bytes).rekey p.pa sz.bytes p.key).cached p .load h).fetchBytes p sz.bytes cls ro
          (y.open p sz.bytes = true → s.completes i .c sy n .now (r.2.setX rd (ext r.1))) ∧
          (y.passes p sz.bytes = true → y.badAt p.pa sz.bytes = true →
            exec i s = .next ((s.pay p.pa sz.bytes).takeTrap 0x0C a)) ∧
          (y.passes p sz.bytes = false → s.begins i .c sy (y.sendOnce (y.request p a cls (.load sz.bytes ro) h)))) ∧
        (∀ v, s.ctx.order.result = some v →
          s.completes i .c sy n .now ((w.mapOrder fun o => { o with result := none }).setX rd
            (ext (w.through p.pa (leBytes sz.bytes v)))))
    let a1 := s.x ra + off.signExtend 64
    loads (.ld sy rd ra cls h sz) 1 (s.x ra) false false ∧ loads (.ldLen1 sy rd ra cls h sz off) 2 a1 false false ∧
    loads (.lds sy rd ra cls h sz) 1 (s.x ra) false true ∧ loads (.ldsLen1 sy rd ra cls h sz off) 2 a1 false true ∧
    loads (.ldro sy rd ra cls h sz) 1 (s.x ra) true false ∧ loads (.ldroLen1 sy rd ra cls h sz off) 2 a1 true false)

/-- A store to the own SP window writes the low bytes of the register in little-endian order at the address, leaves
every other byte of memory, and changes nothing else (R2, R215, R235). A store through a translated address that has its
tokens and that nothing parks writes its bytes at the physical address that the translation gives, and no other byte of
memory changes from what it was when the page's key had been applied; one that has no tokens or that is parked completes
as well, its request sent and no byte of memory changed (R214, R235, R237, R325). What applying a page's key does to the bytes of a
sector that another key wrote is the model's choice (log entries 11 and 46). -/
def Obligations.Stores : Prop :=
  (∀ (s : State) (sy : Sync) (rs ra : XReg) (cls : Fin 16) (h : Hint) (sz : Size) (off : BitVec 28), s.ready .c sy = true →
    s.plain = true → s.tablesOk = true →
    let a1 := s.x ra + off.signExtend 64
    let bytes := leBytes sz.bytes (s.x rs).toNat
    let stored (i : Instr) (n : Nat) (a : Word) : Prop :=
      s.gives i .c (s.behind .c n) (s.withBytes (s.ownPa a) bytes) ∧
      ∀ t, exec i s = .next t → t.mem.getBytes (s.ownPa a) sz.bytes = bytes ∧
        ∀ c, c < s.ownPa a ∨ s.ownPa a + sz.bytes ≤ c → t.mem.get c = s.mem.get c
    (s.inOwnWindow (s.x ra) sz.bytes = true → stored (.st sy rs ra cls h sz) 1 (s.x ra)) ∧
    (s.inOwnWindow a1 sz.bytes = true → stored (.stLen1 sy rs ra cls h sz off) 2 a1)) ∧
  (∀ (s : State) (sy : Sync) (rs ra : XReg) (cls : Fin 16) (h : Hint) (sz : Size) (off : BitVec 28), s.ready .c sy = true →
    s.tablesOk = true → s.ms.red = [] →
    let u := s.begun .c sy
    let a1 := s.x ra + off.signExtend 64
    let bytes := leBytes sz.bytes (s.x rs).toNat
    let stored (i : Instr) (n : Nat) (a : Word) : Prop :=
      ∀ p w, u.locate a sz.bytes false true = (.ok p, w) →
        let before := ((w.pay p.pa sz.bytes).rekey p.pa sz.bytes p.key).mem
        ∃ t, exec i s = .next t ∧ t.pcOf .c = s.behind .c n ∧
          (w.passes p sz.bytes = true → t.mem.getBytes p.pa sz.bytes = bytes ∧
            ∀ c, c < p.pa ∨ p.pa + sz.bytes ≤ c → t.mem.get c = before.get c) ∧
          (w.passes p sz.bytes = false → p.pa % sz.bytes = 0 → t.mem = w.mem ∧ (s.ms.sealed = [] → w.mem = s.mem) ∧
            ∃ q ∈ t.ms.parked ++ t.ms.held, q.addr = p.pa ∧ q.kind = .store (cellsAt p.pa bytes)) ∧
          (∀ r, t.x r = s.x r) ∧ t.ctx.p = s.ctx.p ∧ t.ctx.sys = s.ctx.sys ∧ t.ctx.vx = s.ctx.vx
    stored (.st sy rs ra cls h sz) 1 (s.x ra) ∧ stored (.stLen1 sy rs ra cls h sz off) 2 a1)

/-- A scalar access that is not aligned traps ALIGN with its address, one beyond 2^56 XLATE, and one that leaves the own
SP window PROT (R214, R215, R235). Atomics on host memory or on pages of MTYPE Device trap PROT (R277, R279), and
atomics that are not aligned trap ALIGN, before a release of theirs waits for anything. -/
def Obligations.BadAddressesTrap : Prop :=
  (∀ (s : State) (sy : Sync) (rd ra : XReg) (cls : Fin 16) (h : Hint) (sz : Size), s.ready .c sy = true →
    s.ctx.order.answer = none →
    let a := s.x ra
    let both (cause : BitVec 8) : Prop := s.traps (.ld sy rd ra cls h sz) cause a ∧ s.traps (.lds sy rd ra cls h sz) cause a ∧
      s.traps (.ldro sy rd ra cls h sz) cause a ∧ s.traps (.st sy rd ra cls h sz) cause a
    (2 ^ 56 ≤ a.toNat → both 0x04) ∧
    (a.toNat < 2 ^ 56 → a.toNat % sz.bytes ≠ 0 → both 0x03) ∧
    (a.toNat / 2 ^ 48 = 0xFF → a.toNat % sz.bytes = 0 → s.ctx.win.spSize < a.toNat % 2 ^ 48 + sz.bytes → both 0x05)) ∧
  (∀ (s : State) (sy : Sync) (op : AmoOp) (rop : RedOp) (dbl : Bool) (cls : Fin 16) (scope : Scope) (ret acq rel : Bool)
      (rd ra rb : XReg),
    s.ready .c sy = true → s.ctx.order.answer = none →
    let u := s.begun .c sy
    let n := atomBytes dbl
    let a := s.x ra
    let all (cause : BitVec 8) : Prop := s.traps (.amo sy op dbl cls scope ret acq rel rd ra rb) cause a ∧
      s.traps (.cas sy dbl cls scope acq rel rd ra rb) cause a
    let redTraps (cause : BitVec 8) : Prop := s.traps (.red sy rop dbl cls ra rb) cause a
    (a.toNat < 2 ^ 56 → a.toNat % n ≠ 0 → all 0x03 ∧ redTraps 0x03) ∧
    (∀ p w, u.locate a n true true = (.ok p, w) → (p.device = true ∨ regionOf p.pa = .host) → all 0x05) ∧
    (∀ p w, u.locate a n false true = (.ok p, w) → (p.device = true ∨ regionOf p.pa = .host) → redTraps 0x05))

/-- `FENCE` completes once nothing of its classes is outstanding at its scope, and at once when it names none; with `.ro`
the core's read-only-path lines go, and it changes nothing else. At a scope beyond the die it first reports, as a trap,
a posted access of its classes that a home dropped. While a store of its classes is held in the commit buffer it waits,
with nothing changed (R237, R269, R272). -/
def Obligations.FenceCompletes : Prop :=
  ∀ (s : State) (sy : Sync) (classes : BitVec 16) (scope : Scope) (ro : Bool), s.ready .c sy = true →
    let i : Instr := .fence sy classes scope ro
    let gone : State := if ro then s.mapCore s.coreNo fun c => { c with roLines := [] } else s
    (s.fencedOff .fence classes scope = true → s.gives i .c (s.behind .c 1) gone) ∧
    (classes = 0 → s.gives i .c (s.behind .c 1) gone) ∧
    (∀ e, s.reportOf .fence classes scope = some e →
      exec i s = .next ((s.mapOrder fun o => { o with dropped := o.dropped.erase e }).takeTrap e.cause e.va)) ∧
    (s.reportOf .fence classes scope = none → (s.ctx.cb.any fun e => e.classes.any fun k => classes.getLsbD k.1.val) = true →
      exec i s = .next s)

/-- The range forms, over the physical pieces of their range: `WBR` merges outstanding reductions, `INVR` also removes
replicas and lines, `RINV` removes the core's own read-only-path lines, all of them for a range of 0
bytes, and `ICINV` removes the pieces from every instruction cache once all earlier stores have performed at DEVICE
scope. Each traps with the cause and the address of the first page of its range that fails (R236, R284). A merge that its home
parks is waited for; the trap that its drop gives is taken at the instruction (R237, R289). -/
def Obligations.CacheMaintenanceCompletes : Prop :=
  ∀ (s : State) (sy : Sync) (ra rb : XReg), s.ready .c sy = true →
    let u := s.begun .c sy
    let n := min (s.x rb).toNat (2 ^ 32)
    (s.x rb = 0 → s.gives (.rinv sy ra rb) .c (s.behind .c 1) (s.mapCore s.coreNo fun c => { c with roLines := [] })) ∧
    (∀ l w, State.rangePieces (n / 2 ^ 16 + 4) u (s.x ra).toNat ((s.x ra).toNat + n) [] = (.ok l, w) →
      (s.ctx.order.answer = none → w.ctx.order.result = none →
        (w.stuckMerge l = none → s.completes (.wbr sy ra rb) .c sy 1 .now (w.mergePieces l) ∧
          s.completes (.invr sy ra rb) .c sy 1 .now ((w.mergePieces l).dropCopies l)) ∧
        ∀ p, w.stuckMerge l = some p →
          let u' := w.sendOnce (w.request p (BitVec.ofNat 64 p.pa) 0 .merge)
          s.begins (.wbr sy ra rb) .c sy u' ∧ s.begins (.invr sy ra rb) .c sy u') ∧
      (∀ c v, w.ctx.order.answer = some (c, v) → s.traps (.wbr sy ra rb) c v ∧ s.traps (.invr sy ra rb) c v) ∧
      (s.x rb ≠ 0 → s.completes (.rinv sy ra rb) .c sy 1 .now
        (w.mapCore w.coreNo fun c => { c with roLines := c.roLines.filter fun e => !inPieces l e.1 })) ∧
      (s.drained (BitVec.allOnes 16) .device = true → s.completes (.icinv sy ra rb) .c sy 1 .now (w.dropCode l))) ∧
    ∀ c v w, State.rangePieces (n / 2 ^ 16 + 4) u (s.x ra).toNat ((s.x ra).toNat + n) [] = (.error (c, v), w) →
      let val : Word := BitVec.ofNat 64 v
      s.traps (.wbr sy ra rb) c val ∧ s.traps (.invr sy ra rb) c val ∧ s.traps (.icinv sy ra rb) c val ∧
      (s.x rb ≠ 0 → s.traps (.rinv sy ra rb) c val)

/-! ## Atomics (R277 to R284) -/

/-- `AMO`, `CAS` and `RED` on 4 or 8 aligned bytes of the own SP window: the old value is returned where the form
returns one, the new value of the operation stands in memory, and every other byte stays; floating-point operations
combine as R280 says through the one rounded sum of the type (R279 to R282). -/
def Obligations.AtomicsInTheOwnWindow : Prop :=
  ∀ (s : State) (sy : Sync) (op : AmoOp) (rop : RedOp) (dbl : Bool) (cls : Fin 16) (scope : Scope) (ret acq rel : Bool)
      (rd ra rb : XReg),
    s.ready .c sy = true → s.plain = true → (rel = true → s.fencedOff .release (BitVec.allOnes 16) scope = true) →
    let n := atomBytes dbl
    s.inOwnWindow (s.x ra) n = true →
    let pa := s.ownPa (s.x ra)
    let d := s.mem.getLe pa n
    let v := (s.x rb).toNat % 2 ^ (8 * n)
    let signed (k : Nat) : Int := (BitVec.ofNat (8 * n) k).toInt
    let wrote (k : Nat) : State := s.withBytes pa (leBytes n k)
    let new : Nat := match op with
      | .add => (d + v) % 2 ^ (8 * n) | .and => d &&& v | .or => d ||| v | .xor => d ^^^ v
      | .min => if signed v < signed d then v else d | .max => if signed d < signed v then v else d
      | .minu => min d v | .maxu => max d v | .swap => v
      | .fadd32 => fpAdd .fp32 d v | .faddbf16x2 => bf16x2 d v
    let red : Nat := match rop with
      | .add => (d + v) % 2 ^ (8 * n) | .and => d &&& v | .or => d ||| v | .xor => d ^^^ v
      | .min => if signed v < signed d then v else d | .max => if signed d < signed v then v else d
      | .fadd32 => fpAdd .fp32 d v | .faddbf16x2 => bf16x2 d v
    s.gives (.amo sy op dbl cls scope ret acq rel rd ra rb) .c (s.behind .c 2)
      (if ret then (wrote new).setX rd (BitVec.ofNat 64 d) else wrote new) ∧
    s.gives (.cas sy dbl cls scope acq rel rd ra rb) .c (s.behind .c 2)
      ((if d = (s.x rd).toNat % 2 ^ (8 * n) then wrote v else s).setX rd (BitVec.ofNat 64 d)) ∧
    s.gives (.red sy rop dbl cls ra rb) .c (s.behind .c 2) (wrote red)

/-! ## Engine control, queues, handles (R118 to R123, R228 to R232) -/

/-- `EGO` starts an idle stream at an aligned address: it is BUSY from there, with no fault and no held pops, and tokens
held by a faulted instruction return to their counters; it waits, with nothing changed, while the stream is BUSY.
`EWAIT` goes on once the stream, or every stream, is idle and no trap entry has paused it; while one is BUSY or paused it
waits, with nothing changed (R118, R119, R332). -/
def Obligations.EngineStartsAndWaits : Prop :=
  ∀ (s : State) (sy : Sync) (e : Engine) (ra : XReg), s.ready .c sy = true →
    ((s.x ra).extractLsb' 0 2 = 0 → (s.str e.stream).busy = false → ∃ t, exec (.ego sy e ra) s = .next t ∧
      (t.str e.stream).busy = true ∧ (t.str e.stream).fault = none ∧ (t.str e.stream).held = none ∧ t.pcOf e.stream = s.x ra ∧
      t.pcOf .c = s.behind .c 1 ∧ (∀ k, k ≠ e.stream → (t.str k).busy = (s.str k).busy) ∧ (∀ r, t.x r = s.x r) ∧
      t.ctx.p = s.ctx.p ∧ t.ctx.sys = s.ctx.sys ∧ t.mem = s.mem) ∧
    ((s.x ra).extractLsb' 0 2 = 0 → (s.str e.stream).busy = false →
      s.completes (.ego sy e ra) .c sy 1 .now (((s.begun .c sy).mapCtx (·.returnHeld e.stream)).mapStr e.stream fun x =>
        { x with pc := s.x ra, busy := true, fault := none, held := none, ref := none })) ∧
    ((s.x ra).extractLsb' 0 2 = 0 → (s.str e.stream).busy = true → exec (.ego sy e ra) s = .next s) ∧
    ((s.str e.stream).busy = false → (s.str e.stream).paused = false → s.gives (.ewait sy (some e)) .c (s.behind .c 1) s) ∧
    ((s.str e.stream).busy = true ∨ (s.str e.stream).paused = true → exec (.ewait sy (some e)) s = .next s) ∧
    ((∀ k : Stream, k ≠ .c → (s.str k).busy = false ∧ (s.str k).paused = false) →
      s.gives (.ewait sy none) .c (s.behind .c 1) s) ∧
    ((∃ k : Stream, k ≠ .c ∧ ((s.str k).busy = true ∨ (s.str k).paused = true)) → exec (.ewait sy none) s = .next s)

/-- `ESTAT` reads BUSY in bit 0, FAULT in bit 1 with its cause above, and the count of completed copy commands in the
high half; `TQUERY` reads a handle's state, bit 1 of which says that a release of an earlier mapping is pending (R120, R232). `FQPUSH` and `PQPUSH` append the register to the tail of a
queue with room, and wait with nothing changed while it is full (R122, R123). -/
def Obligations.StatusAndQueues : Prop :=
  (∀ (s : State) (sy : Sync) (rd : XReg) (e : Engine) (hd : HReg), s.ready .c sy = true →
    let x := s.str e.stream
    let cause : Nat := match x.fault with | some (c, _, _) => c.toNat | none => 0
    s.givesX (.estat sy rd e) 1 rd
      (BitVec.ofNat 64 ((s.ctx.doneseq e.stream).toNat * 2 ^ 32 + cause * 4 + (if x.fault.isSome then 2 else 0) + (if x.busy then 1 else 0))) ∧
    (60 ≤ hd.val → s.givesX (.tquery sy rd hd) 1 rd (BitVec.ofNat 64 (s.fixedExtent hd.val * 2 ^ 16 + 9))) ∧
    let releasing : Nat := if s.ctx.releases.any (fun r => decide (r.h = hd.val)) then 2 else 0
    (∀ h : hd.val < 60, s.ctx.handles[hd.val] = none → s.givesX (.tquery sy rd hd) 1 rd (BitVec.ofNat 64 releasing)) ∧
    (∀ h : hd.val < 60, ∀ m, s.ctx.handles[hd.val] = some m → s.givesX (.tquery sy rd hd) 1 rd (BitVec.ofNat 64 (m.extent * 2 ^ 16 + (m.runs.length - 1) * 2 ^ 8 +
        (if m.zero then 16 else 0) + rightsCode m.rights * 4 + releasing + 1)))) ∧
  (∀ (s : State) (sy : Sync) (q : PQ) (ra : XReg), s.ready .c sy = true →
    let pushed (k : Fin 4) : State := s.mapCtx fun c =>
      let q := c.queues[k]
      let q' : Queue :=
        { slots := q.slots.set ((q.head + q.count) % q.slots.length) (s.x ra), head := q.head, count := q.count + 1,
          deps := q.deps ++ [.clean] }
      { c with queues := c.queues.set k q' }
    (s.ctx.roomQ 0 = true → s.gives (.fqpush sy ra) .c (s.behind .c 1) (pushed 0)) ∧
    (s.ctx.roomQ 0 = false → exec (.fqpush sy ra) s = .next s) ∧
    (s.ctx.roomQ (pqIndex q) = true → s.gives (.pqpush sy q ra) .c (s.behind .c 1) (pushed (pqIndex q))) ∧
    (s.ctx.roomQ (pqIndex q) = false → exec (.pqpush sy q ra) s = .next s))

/-- `TMAP` on an unmapped handle with a legal extent, once its pages have been walked into at most 256 runs, maps the
handle with those runs and pins; `TUNMAP` unmaps it, keeping the mapping as a pending release while commands in flight
bind it (R228 to R231). Faults of `TMAP` and `TUNMAP`: a fixed handle is FIXED, a mapped one INUSE, an extent of 0, above 2^40, with a bit
of [62:41] set or past 2^56 EXTENT, more than 256 runs RUNS; a page in a local window, a walk that faults and rights that a page lacks trap
with the address of the page or of the range, whichever is higher, and a page whose pin count is full makes it wait (R230, R231, R234). -/
def Obligations.MappingHandles : Prop :=
  (∀ (s : State) (sy : Sync) (hd : HReg) (ra rb : XReg) (rights : Rights), s.ready .c sy = true → (h : hd.val < 60) →
    let u := s.begun .c sy
    let b := (s.x rb).toNat
    let ext := b % 2 ^ 41
    let xa := (s.x ra).toNat
    (s.ctx.handles[hd.val] = none → 0 < ext → ext ≤ 2 ^ 40 → b % 2 ^ 63 / 2 ^ 41 = 0 → xa + ext ≤ 2 ^ 56 →
      ∀ runs pins w, State.mapPages s.ctx.ident.part xa (xa + ext) rights (ext / 2 ^ 16 + 2) u xa [] [] = .ok runs pins w →
        runs.length ≤ 256 →
        s.completes (.tmap sy hd ra rb rights) .c sy 1 .now (w.tick.mapCtx fun c =>
          { c with handles := c.handles.set hd.val (some { base := s.x ra, extent := ext, rights := rights
                                                           zero := (s.x rb).getLsbD 63, runs := runs.reverse, pins := pins
                                                           serial := w.serial }) })) ∧
    (s.ctx.handles[hd.val] = none → s.gives (.tunmap sy hd) .c (s.behind .c 1) s) ∧
    (∀ m, s.ctx.handles[hd.val] = some m → s.ctx.releases.length < 64 →
      ∃ t, exec (.tunmap sy hd) s = .next t ∧ t.ctx.handles[hd.val] = none ∧ t.mem = s.mem ∧ (∀ r, t.x r = s.x r) ∧
        t.ctx.releases = (s.ctx.releases ++ [({ h := hd.val, m := m } : Release)]).filter fun r => s.ctx.bound r.m.serial)) ∧
  (∀ (s : State) (sy : Sync) (hd : HReg) (ra rb : XReg) (rights : Rights), s.ready .c sy = true →
    let val (sub : Nat) : Word := BitVec.ofNat 64 (sub * 2 ^ 56 + hd.val * 2 ^ 48)
    (60 ≤ hd.val → s.traps (.tmap sy hd ra rb rights) 0x06 (val 4) ∧ s.traps (.tunmap sy hd) 0x06 (val 4)) ∧
    (∀ h : hd.val < 60, (s.ctx.handles[hd.val]).isSome = true → s.traps (.tmap sy hd ra rb rights) 0x06 (val 5)) ∧
    (∀ h : hd.val < 60, s.ctx.handles[hd.val] = none →
      let b := (s.x rb).toNat
      let ext := b % 2 ^ 41
      let xa := (s.x ra).toNat
      let illegal : Prop := ext = 0 ∨ 2 ^ 40 < ext ∨ b % 2 ^ 63 / 2 ^ 41 ≠ 0 ∨ 2 ^ 56 < xa + ext
      let u := s.begun .c sy
      let p := s.ctx.ident.part
      (illegal → s.traps (.tmap sy hd ra rb rights) 0x06 (val 6)) ∧
      (¬ illegal →
        (0xFD ≤ xa / 2 ^ 48 → s.traps (.tmap sy hd ra rb rights) 0x05 (s.x ra)) ∧
        (xa / 2 ^ 48 < 0xFD →
          (∀ c w, u.walk p xa = (.error c, w) → s.traps (.tmap sy hd ra rb rights) c (s.x ra)) ∧
          (∀ f g w, u.walk p xa = (.ok (f, g), w) → (rights ≠ .w ∧ f.r = false) ∨ (rights ≠ .r ∧ f.w = false) →
            s.traps (.tmap sy hd ra rb rights) 0x05 (BitVec.ofNat 64 (max xa f.va)))) ∧
        (let walk := State.mapPages p xa (xa + ext) rights (ext / 2 ^ 16 + 2) u xa [] []
         (∀ c v, walk = .fault c v → s.traps (.tmap sy hd ra rb rights) c (BitVec.ofNat 64 v)) ∧
         (∀ runs pins w, walk = .ok runs pins w → 256 < runs.length → s.traps (.tmap sy hd ra rb rights) 0x06 (val 7)) ∧
         (walk = .wait → exec (.tmap sy hd ra rb rights) s = .next s)))))

/-! ## Barriers and slot rings (R253 to R259) -/

/-- The barrier instructions on a descriptor in a window: `BINIT` zeroes its 32 bytes, `BEXP` and `BARR` carry out
Expect and Arrive on it, `BWAIT` goes on once the phase differs from k and waits with nothing changed before, `BTEST`
tests that difference. `BARR` counts once what its release orders has come about at the scope of the descriptor, and waits with nothing changed
while a request stands at the core's port before it; an arrival that takes ARRIVED past the count expected sets OVERFILL and gives the
context that owns the descriptor's bytes the asynchronous trap BAROVER, with the descriptor's address in its window and bit 63 set. A
descriptor outside the bytes allowed traps PROT with its address (R253 to R257, R271). -/
def Obligations.BarrierInstructions : Prop :=
  (∀ (s : State) (sy : Sync) (b : BReg) (ra : XReg) (pd : PReg) (k : Bool) (pa : Nat), s.ready .c sy = true →
    s.descPlace (s.ctx.sys.barbase + BitVec.ofNat 64 (32 * b.val)) 32 = some pa →
    let free := s.fencedOff .nobody (BitVec.allOnes 16) (s.barScope b)
    let d := s.mem.barrier pa
    let a := d.arrive (s.x ra).toNat
    let counted : State := { s with mem := s.mem.setBarrier pa a.1 }
    let phase := (s.mem.getLe (pa + 20) 4).testBit 0
    s.gives (.binit sy b) .c (s.behind .c 1) (s.withBytes pa (List.replicate 32 0)) ∧
    (∀ e, d.expect (s.x ra).toNat = some e →
      s.gives (.bexp sy b ra) .c (s.behind .c 1) { s with mem := s.mem.setBarrier pa e }) ∧
    (d.expect (s.x ra).toNat = none → s.traps (.bexp sy b ra) 0x0B (s.ctx.sys.barbase + BitVec.ofNat 64 (32 * b.val))) ∧
    (free = true → a.2 = false → s.gives (.barr sy b ra) .c (s.behind .c 1) counted) ∧
    (free = true → a.2 = true → a.1.overfill = true ∧
      (s.windowOwner pa = none → s.gives (.barr sy b ra) .c (s.behind .c 1) counted) ∧
      ∀ c, s.windowOwner pa = some c → s.gives (.barr sy b ra) .c (s.behind .c 1) (counted.mapKey c.key fun k =>
        k.asyncTrap 0x0B (BitVec.ofNat 64 (0xFF * 2 ^ 48 + (pa - spPa c.key.core.val c.win.spBase)) ||| 0x8000000000000000))) ∧
    (s.barScope b = .cluster → s.ctx.order.dropped = [] → s.portHolds (BitVec.allOnes 16) = true → exec (.barr sy b ra) s = .next s) ∧
    (phase ≠ k → s.gives (.bwait sy b k) .c (s.behind .c 1) s) ∧
    (phase = k → exec (.bwait sy b k) s = .next s) ∧
    s.givesP (.btest sy pd b k) 1 pd (if phase ≠ k then BitVec.allOnes 1024 else 0)) ∧
  (∀ (s : State) (sy : Sync) (b : BReg) (ra : XReg) (pd : PReg) (k : Bool), s.ready .c sy = true →
    let addr := s.ctx.sys.barbase + BitVec.ofNat 64 (32 * b.val)
    s.descPlace addr 32 = none →
    s.traps (.binit sy b) 0x05 addr ∧ s.traps (.bexp sy b ra) 0x05 addr ∧ s.traps (.barr sy b ra) 0x05 addr ∧
    s.traps (.bwait sy b k) 0x05 addr ∧ s.traps (.btest sy pd b k) 0x05 addr)

/-- The arithmetic of a barrier: once POSTED, the arrival that makes the counts equal flips PHASE, clears POSTED and
both counts and adds a flip; an arrival past the count expected raises BAROVER once and sets OVERFILL; before POSTED
arrivals only count. Expect adds, sets POSTED and flips at once where the counts are equal (R255). -/
def Obligations.BarrierFlips : Prop :=
  ∀ (d : Barrier) (n : Nat), d.expected < 2 ^ 63 → d.arrived < 2 ^ 63 → n < 2 ^ 63 → d.flags < 8 → d.overfill = false →
    (d.posted = true → d.arrived + n = d.expected →
      let r := d.arrive n
      r.2 = false ∧ r.1.phase = !d.phase ∧ r.1.posted = false ∧ r.1.expected = 0 ∧ r.1.arrived = 0 ∧
        r.1.flips = (d.flips + 1) % 2 ^ 32) ∧
    (d.posted = true → d.expected < d.arrived + n →
      let r := d.arrive n
      r.2 = true ∧ r.1.overfill = true ∧ r.1.phase = d.phase ∧ r.1.arrived = d.arrived + n) ∧
    (d.posted = false ∨ d.arrived + n < d.expected → d.arrive n = ({ d with arrived := d.arrived + n }, false)) ∧
    (d.arrived < d.expected + n → ∃ e, d.expect n = some e ∧ e.posted = true ∧ e.phase = d.phase ∧ e.expected = d.expected + n) ∧
    (d.arrived = d.expected + n → ∃ e, d.expect n = some e ∧ e.posted = false ∧ e.phase = !d.phase ∧ e.expected = 0) ∧
    (d.expected + n < d.arrived → d.expect n = none)

/-- The slot instructions on a ring that keeps its limits: `SLRES` takes the next free slot and `SLACQ` the next filled one
and write its address; `SLPOST` and `SLREL` publish in order; each writes one counter and no other byte. With none free
or filled, with a slot still owed to a copy command, or while a copy command holds the slot to be published, they wait.
`SLACQ` of a ring with DBEN set first binds its doorbell. SLOTOVR: reason 1 a post and 2 a release with none to publish,
3 reserving or posting on a bound ring, 4 or 5 what the binding answers, 5 a ring outside its limits; a descriptor
outside the bytes allowed traps PROT with its address (R244, R258 to R260). That a bound ring whose array lies outside the owner's window
is reason 5 (log entry 24), and that an id which a swapped-out owner keeps is taken, reason 4 (log entry 34), are the model's readings. -/
def Obligations.SlotInstructions : Prop :=
  (∀ (s : State) (sy : Sync) (rd : XReg) (sl : SlReg) (pa : Nat), s.ready .c sy = true →
    s.descPlace (s.ctx.sys.slbase + BitVec.ofNat 64 (64 * sl.val)) 64 = some pa →
    let r := s.mem.slotRing pa
    let bad (i : Instr) (reason : Nat) : Prop := s.traps i 0x18 (BitVec.ofNat 64 (reason * 2 ^ 8 + sl.val))
    let count (t : State) (off v : Nat) : State := t.withBytes (pa + off) (leBytes 4 v)
    let addr (n : Nat) : Word := BitVec.ofNat 64 (r.base + 2 ^ r.logsize * (n % 2 ^ r.logcount))
    (s.ringOk r = false → bad (.slres sy rd sl) 5 ∧ bad (.slpost sy sl) 5 ∧ bad (.slacq sy rd sl) 5 ∧ bad (.slrel sy sl) 5) ∧
    (s.ringOk r = true → s.boundBell pa = true → bad (.slres sy rd sl) 3 ∧ bad (.slpost sy sl) 3) ∧
    (s.ringOk r = true → s.boundBell pa = false →
      (r.free ≠ 0 → s.slotOwed pa = false →
        s.gives (.slres sy rd sl) .c (s.behind .c 1) ((count s 0x10 (r.res + 1)).setX rd (addr r.res))) ∧
      (r.free = 0 ∨ s.slotOwed pa = true → exec (.slres sy rd sl) s = .next s) ∧
      (r.res ≠ r.post → s.slotHeld pa r.post true = false →
        s.gives (.slpost sy sl) .c (s.behind .c 1) (count s 0x14 (r.post + 1))) ∧
      (r.res ≠ r.post → s.slotHeld pa r.post true = true → exec (.slpost sy sl) s = .next s) ∧
      (r.res = r.post → bad (.slpost sy sl) 1)) ∧
    (s.ringOk r = true →
      (∀ k, s.bindBell pa r = .error k → bad (.slacq sy rd sl) k) ∧
      (∀ w, s.bindBell pa r = .ok w →
        (r.filled ≠ 0 → s.slotOwed pa = false →
          s.gives (.slacq sy rd sl) .c (s.behind .c 1) ((count w 0x18 (r.acq + 1)).setX rd (addr r.acq))) ∧
        (r.filled = 0 ∨ s.slotOwed pa = true → exec (.slacq sy rd sl) s = .next w)) ∧
      (r.acq ≠ r.rel → s.slotHeld pa r.rel false = false →
        s.gives (.slrel sy sl) .c (s.behind .c 1) (count s 0x1C (r.rel + 1))) ∧
      (r.acq ≠ r.rel → s.slotHeld pa r.rel false = true → exec (.slrel sy sl) s = .next s) ∧
      (r.acq = r.rel → bad (.slrel sy sl) 2))) ∧
  (∀ (s : State) (sy : Sync) (rd : XReg) (sl : SlReg), s.ready .c sy = true →
    let a := s.ctx.sys.slbase + BitVec.ofNat 64 (64 * sl.val)
    s.descPlace a 64 = none →
    s.traps (.slres sy rd sl) 0x05 a ∧ s.traps (.slpost sy sl) 0x05 a ∧ s.traps (.slacq sy rd sl) 0x05 a ∧
      s.traps (.slrel sy sl) 0x05 a)

/-! ## Collectives, signals, power (R88, R294 to R314, R324) -/

/-- `CBR` of a task without a group, or of a member that has left, branches on its own contribution: ANY and MAJORITY on
some active element, ALL on every active element. A member of a group first starts the fold, its contribution offered to
its die's fold unit: without speculation it then waits, and with speculation it goes on at once to the predicted side,
the speculation epoch open. It branches on the fold's result once that has come, and the outcome is kept; while it has
not come, a member without speculation waits; and a trap of the fold is taken (R295, R296, R297, R300, R305). -/
def Obligations.CollectiveBranch : Prop :=
  ∀ (s : State) (sy : Sync) (op : CbrOp) (hint : Bool) (p : PReg) (d0 : BitVec 13) (d1 : BitVec 41), s.ready .c sy = true →
    let u := s.begun .c sy
    let bit (e : Nat) : Bool := (s.pr p).getLsbD e
    let own : Bool := match op with
      | .all => (List.range 1024).all fun e => !decide (e < s.vl) || bit e
      | _ => (List.range 1024).any fun e => decide (e < s.vl) && bit e
    let branches (i : Instr) (target fall : Word) : Prop :=
      (s.ctx.launch.group = 0 ∨ s.ctx.c.left = true → s.ctx.coll.fold = none → s.gives i .c (if own then target else fall) s) ∧
      (s.ctx.launch.group ≠ 0 → s.ctx.c.left = false → s.ctx.coll.fold = none → (s.myGroup.any (·.broken)) = false →
        let site : Site := BitVec.ofNat 18 (cbrCode op * 2 ^ 16 + (s.pcOf .c).toNat % 2 ^ 16)
        let f : Fold :=
          { seq := s.ctx.c.foldSeq + 1, site := site, pc := s.pcOf .c, target := target, fall := fall, guess := none
            since := s.nstime, coll := none, res := none }
        let w := ((u.mapC fun r => { r with foldSeq := f.seq }).mapColl fun q => { q with fold := some f }).mapGroup
          s.ctx.ident.part s.ctx.launch.group fun g =>
            g.offer f.seq { member := s.ctx.memberIx, die := s.dieNo, val := own, site := site, hash := 0 }
        (s.ctx.launch.spec = false → s.begins i .c sy w) ∧
        (s.ctx.launch.spec = true → let g := s.ctx.coll.guess site hint
          s.endsAt i .c sy (if g then target else fall) .fold (w.speculate sy f g) ∧ (w.speculate sy f g).ctx.spec.isSome = true)) ∧
      (s.ctx.launch.group ≠ 0 → s.ctx.c.left = false → ∀ f b n, s.ctx.coll.fold = some f → f.pc = s.pcOf .c →
        f.res = some (.result b n) →
        s.endsAt i .c sy (if b then target else fall) .now (u.mapColl fun q => (q.finish f b n).learn f.site b)) ∧
      (s.ctx.launch.group ≠ 0 → s.ctx.c.left = false → s.ctx.launch.spec = false → ∀ f, s.ctx.coll.fold = some f →
        f.pc = s.pcOf .c → f.res = none → s.foldTrap = none → exec i s = .next s) ∧
      (∀ f c v, s.ctx.coll.fold = some f → f.coll = none → s.foldTrap = some (c, v) →
        exec i s = .next ((s.mapColl fun q => { q with fold := none }).takeTrap c v))
    branches (.cbr sy op hint p d0) (s.target d0) (s.behind .c 1) ∧
    branches (.cbrLen1 sy op hint p d1) (s.target d1) (s.behind .c 2)

/-- The result of a fold of g members, t of them true: ANY is 1 ≤ t, ALL is t = g, MAJORITY is g < 2t (R295). On the
package of member 0 a fold completes when every member has contributed or departed, a departed member that had not
contributed counting as false; before, on another package, and where the contributions to it differ in site or in shape hash, it stays as it is
(R292, R296 to R298, R313). -/
def Obligations.FoldResults : Prop :=
  ∀ (g : Group) (f : FoldInst), f.result = none →
    (g.first = true → g.size ≤ f.covered g.departed → (∀ q, g.badSite = some q → q.1 ≠ f.seq) → g.badShape ≠ some f.seq →
      g.foldStep f = { f with result := some (match f.site.toNat / 2 ^ 16 with
        | 0 => decide (1 ≤ f.trues) | 1 => decide (f.trues = g.size) | 2 => decide (g.size < 2 * f.trues) | _ => true,
        g.departed.length) }) ∧
    (g.first = false ∨ f.covered g.departed < g.size ∨ (∃ q, g.badSite = some q ∧ q.1 = f.seq) ∨ g.badShape = some f.seq → g.foldStep f = f)

/-- `XCOLL` ends once its fold has returned, and its exchange's bytes move from then on; where a member that the exchange
needs has departed by then, its wait ends with COLLTIMEOUT, reason 3, instead, the fold's outcome kept. Before, with its checks passed, in a whole
group and with fewer than four exchanges in flight, it starts the fold and keeps the exchange; with four in flight it
waits, and a check that fails traps (R294, R305, R308, R314). -/
def Obligations.CollectiveExchange : Prop :=
  ∀ (s : State) (sy : Sync) (hd hs : HReg) (red : RedCopy) (ty : ElemTy) (b : BReg) (src dst : BitVec 22),
    s.ready .c sy = true →
    let u := s.begun .c sy
    let i : Instr := .xcoll sy hd hs red ty b src dst
    (∀ f r n, s.ctx.coll.fold = some f → f.pc = s.pcOf .c → f.res = some (.result r n) →
      let alone := u.ctx.coll.exchanges.any fun x => decide (f.coll = some x.seq) && u.partnerGone x
      (alone = false → s.completes i .c sy 3 .now (u.mapColl fun q => q.returned f r n) ∧
        ∀ x ∈ (u.ctx.coll.returned f r n).exchanges, f.coll = some x.seq → x.moving = true) ∧
      (alone = true → exec i s = .next (s.mapColl fun q =>
        { q.finish f r n with fold := some { f with res := some (collTimeout 3 f.seq f.site) } }))) ∧
    (s.ctx.coll.fold = none →
      (4 ≤ s.ctx.coll.exchanges.length → exec i s = .next s) ∧
      (s.ctx.coll.exchanges.length < 4 →
        (∀ c v, u.xcollCheck hd hs red ty b (64 * src.toNat) (64 * dst.toNat) = .error (c, v) → s.traps i c v) ∧
        (∀ x, u.xcollCheck hd hs red ty b (64 * src.toNat) (64 * dst.toNat) = .ok x → (s.myGroup.any (·.broken)) = false →
          s.begins i .c sy (u.startExchange x) ∧
          ∃ t, exec i s = .next t ∧ t.ctx.coll.exchanges = s.ctx.coll.exchanges ++ [x] ∧ t.pcOf .c = s.pcOf .c ∧
            t.mem = s.mem ∧ t.ctx.c.foldSeq = s.ctx.c.foldSeq + 1)))

/-- `CLEAVE` makes the member depart and marks it, once a fold of its own has returned, which it waits for; a task without
a group, or one that has left, goes on with no effect. `CQUERY` reads the member's collective state, 0 without a group.
`GSIG` sends one signal to the node once everything has performed (R88, R292, R294). -/
def Obligations.LeaveQuerySignal : Prop :=
  ∀ (s : State) (sy : Sync) (rd ra : XReg), s.ready .c sy = true →
    let u := s.begun .c sy
    let gone (w : State) : State :=
      (w.depart s.ctx.ident.part s.ctx.launch.group s.ctx.memberIx).mapC fun c => { c with left := true }
    (s.ctx.launch.group = 0 ∨ s.ctx.c.left = true → s.gives (.cleave sy) .c (s.behind .c 1) s) ∧
    (s.ctx.launch.group ≠ 0 → s.ctx.c.left = false →
      (s.ctx.coll.fold = none → s.completes (.cleave sy) .c sy 1 .now (gone u)) ∧
      (∀ f, s.ctx.coll.fold = some f →
        (f.res = none → exec (.cleave sy) s = .next s) ∧
        (∀ b n, f.res = some (.result b n) →
          s.completes (.cleave sy) .c sy 1 .now (gone (u.mapColl fun q => (q.finish f b n).learn f.site b))) ∧
        (∀ c v, f.res = some (.trap c v) →
          s.completes (.cleave sy) .c sy 1 .now (gone (u.mapColl fun q => { q with fold := none }))))) ∧
    ((gone u).ctx.c.left = true ∧ (gone u).mem = s.mem ∧ (∀ r, (gone u).x r = s.x r) ∧
      (s.ctx.launch.group ≠ 0 → ∀ g, s.myGroup = some g →
        ∃ h, (gone u).myGroup = some h ∧ s.ctx.memberIx ∈ h.departed ∧ ∀ m ∈ g.departed, m ∈ h.departed)) ∧
    (s.ctx.launch.group = 0 → s.givesX (.cquery sy rd) 1 rd 0) ∧
    (s.ctx.launch.group ≠ 0 → ∃ v : Word, s.givesX (.cquery sy rd) 1 rd v ∧ v.getLsbD 63 = s.myGroup.any (·.broken) ∧
      v.getLsbD 62 = s.ctx.c.left ∧ v.getLsbD 61 = s.ctx.coll.fold.isSome ∧ v.getLsbD 60 = s.ctx.coll.last ∧
      v.extractLsb' 32 28 = BitVec.ofNat 28 (min s.ctx.coll.departed (2 ^ 28 - 1)) ∧
      v.extractLsb' 16 16 = s.ctx.coll.site ∧ v.extractLsb' 0 16 = s.ctx.c.foldSeq) ∧
    (s.fencedOff .fence (BitVec.allOnes 16) .system = true →
      s.completes (.gsig sy ra) .c sy 1 .now (u.signal s.ctx.ident.part ((s.x ra).setWidth 32) 1))

/-- `GETRATIO` reads RATIOGRANT; `RLOCK` opens the cluster's lock window, or joins it, unless the cluster rests; it has
no effect for a holder. `RUNLOCK` leaves it (R323, R324). -/
def Obligations.RatioAndLocks : Prop :=
  ∀ (s : State) (sy : Sync) (rd : XReg), s.ready .c sy = true →
    let cl := s.coreNo / 8
    let i := s.island cl
    s.givesX (.getratio sy rd) 1 rd s.ctx.sys.ratiogrant ∧
    (i.holders.contains s.ctx.key = true → s.gives (.rlock sy) .c (s.behind .c 1) s) ∧
    (i.holders.contains s.ctx.key = false → i.restUntil = none → s.gives (.rlock sy) .c (s.behind .c 1)
      (s.mapIsland cl fun i => { i with lock := if i.lock.isSome then i.lock else some s.nstime
                                        holders := i.holders ++ [s.ctx.key] })) ∧
    (i.holders.contains s.ctx.key = false → i.restUntil.isSome = true → exec (.rlock sy) s = .next s) ∧
    s.gives (.runlock sy) .c (s.behind .c 1) (s.leaveLock s.ctx.key)

/-! ## Accumulator bands and verification (R164 to R169, R208, R209) -/

/-- `AMALLOC` takes free bands, at most what the task's allotment leaves: of a mask, in ascending order, those that are
free; of a count, the lowest run of that many free bands, or none. It gives them to the context zeroed in both stores,
and writes the bands taken in the low half and all bands then owned in the high half (R164 to R166). `AMFREE` of owned
bands frees them, zeroed, with their grants and out of the span; `AMFREE.discard` marks them instead; both wait while a
chain, a drain or an arbitration is on them (R167). `AMGRANT` to a task of the same node in another context of the core
grants the bands or withdraws them and reads what the grantee then has, 0 where there is no such task; a withdrawal waits
for the grantee's drain (R168). Each on a band that is not owned traps AMBANK with the lowest such band. That freed bands leave the span uncompared (log
entry 37), and that `AMFREE` waits for an arbitration on its bands (log entry 25), are the model's readings. -/
def Obligations.AccumulatorBands : Prop :=
  (∀ (s : State) (sy : Sync) (rd ra : XReg), s.ready .c sy = true →
    let c := s.here
    let got := s.amTake (s.x ra)
    let own := c.ownMask s.slotNo
    let free := c.freeMask
    let room := s.ctx.launch.amBanks - popcount own 32
    let n := (s.x ra).toNat % 64
    let run (b : Nat) : Prop := b + n ≤ 32 ∧ free &&& bandMask b n = bandMask b n
    s.gives (.amalloc sy rd ra) .c (s.behind .c 1)
      ((s.mapCore s.coreNo fun c =>
        { c.zeroBands (bandsOf got) with owner := (bandsOf got).map (fun b => (b, s.slotNo)) ++ c.owner }).setX rd ((own ||| got) ++ got)) ∧
    got &&& ~~~free = 0 ∧ popcount got 32 ≤ room ∧
    ((s.x ra).getLsbD 63 = false → ∀ b < 32, got.getLsbD b =
      ((s.x ra).getLsbD b && free.getLsbD b &&
        decide (((List.range b).filter fun k => (s.x ra).getLsbD k && free.getLsbD k).length < room))) ∧
    ((s.x ra).getLsbD 63 = true →
      (1 ≤ n → n ≤ room → ∀ b, run b → (∀ k < b, ¬ run k) → got = bandMask b n) ∧
      (n = 0 ∨ room < n ∨ (∀ b, ¬ run b) → got = 0))) ∧
  (∀ (s : State) (sy : Sync) (rd ra rb : XReg), s.ready .c sy = true →
    let m : BitVec 32 := (s.x ra).setWidth 32
    let dest := (s.x rb).toNat % 4
    let strangers := m &&& ~~~(s.here.ownMask s.slotNo)
    let freed : State := ((s.mapMx (·.leaveSpan m)).mapCtx (·.dropOwed m)).mapCore s.coreNo fun c =>
      { c.zeroBands (bandsOf m) with owner := c.owner.filter (fun o => !m.getLsbD o.1)
                                     grants := c.grants.filter fun g => !m.getLsbD g.1 }
    let mark (st : Store) : Store := (bandsOf m).foldl (fun st b => st.setBand b { st.band b with discard := true }) st
    let others (c : Core) : List (Nat × Nat × Nat) :=
      c.grants.filter fun g => !(m.getLsbD g.1 && decide (g.2.1 = s.slotNo) && decide (g.2.2 = dest))
    let reads (w : State) : State := w.setX rd ((w.here.grantedMask dest none).setWidth 64)
    (strangers = 0 → s.bandsBusy m = false → s.gives (.amfree sy ra) .c (s.behind .c 1) freed ∧
      s.gives (.amfreeDiscard sy ra) .c (s.behind .c 1) (s.mapCore s.coreNo fun c => { c with main := mark c.main, shadow := mark c.shadow })) ∧
    (strangers = 0 → s.bandsBusy m = true → exec (.amfree sy ra) s = .next s ∧ exec (.amfreeDiscard sy ra) s = .next s) ∧
    (strangers = 0 → s.grantee dest = none → s.gives (.amgrant sy rd ra rb) .c (s.behind .c 1) (s.setX rd 0)) ∧
    (s.tablesOk = true → strangers = 0 → ∀ c, s.grantee dest = some c →
      ((s.x rb).getLsbD 8 = false → s.gives (.amgrant sy rd ra rb) .c (s.behind .c 1) (reads (s.mapCore s.coreNo fun c =>
        { c with grants := (bandsOf m).map (fun b => (b, s.slotNo, dest)) ++ others c }))) ∧
      ((s.x rb).getLsbD 8 = true → (c.mx.drain.any fun d => decide (bandMask d.band d.nb &&& m ≠ 0)) = false →
        s.gives (.amgrant sy rd ra rb) .c (s.behind .c 1) (reads (s.mapCore s.coreNo fun c => { c with grants := others c }))) ∧
      ((s.x rb).getLsbD 8 = true → (c.mx.drain.any fun d => decide (bandMask d.band d.nb &&& m ≠ 0)) = true →
        exec (.amgrant sy rd ra rb) s = .next s)) ∧
    (∀ b, b < 32 → strangers.getLsbD b = true → (∀ k < b, strangers.getLsbD k = false) →
      s.traps (.amfree sy ra) 0x09 (BitVec.ofNat 64 b) ∧ s.traps (.amfreeDiscard sy ra) 0x09 (BitVec.ofNat 64 b) ∧
      s.traps (.amgrant sy rd ra rb) 0x09 (BitVec.ofNat 64 b)))

/-- `AMQUERY` reads the state that its operand selects and, for selector 4, clears MXFLAGS. `VWAIT` and `VSIG` note, when
they issue, the drains counted then; they read INTEG and the signature of the last drain once the verdicts have reached
that count, and wait before. `VSTAT` reads the verification state (R169, R208, R209). -/
def Obligations.AccumulatorAndVerificationReads : Prop :=
  ∀ (s : State) (sy : Sync) (rd ra : XReg), s.ready .c sy = true →
    let u := s.begun .c sy
    let a := s.x ra
    let sel := a.toNat % 8
    let c := s.here
    let own := c.ownMask s.slotNo
    let got := c.grantedMask s.slotNo none
    let band := a.toNat / 2 ^ 8 % 32
    let st := c.am.band band
    let read : Word := match sel with
      | 0 => got ++ own
      | 1 => BitVec.ofNat 64 (popcount own 32 * 2 ^ 40 + s.ctx.launch.amBanks * 2 ^ 32 + c.freeMask.toNat)
      | 2 => (own &&& maskOf fun b => (c.am.band b).discard).setWidth 64
      | 3 | 4 => s.ctx.mx.mxflags.setWidth 64
      | 5 => if (own ||| got).getLsbD band then
          BitVec.ofNat 64 ((BitVec.ofInt 10 st.anchor).toNat * 2 ^ 32 + (if st.discard then 8 else 0) +
            (match st.kind with | .none => 0 | .narrow => 1 | .wide => 2))
        else 0
      | _ => 0
    let count := s.ctx.c.vwait.getD s.ctx.sys.drains
    let answered (w : State) : State := w.mapC fun c => { c with vwait := none }
    let waiting : State := u.mapC fun c => { c with vwait := some count }
    s.gives (.amquery sy rd ra) .c (s.behind .c 1) ((if sel = 4 then s.mapMx fun m => { m with mxflags := 0 } else s).setX rd read) ∧
    (reached s.ctx.sys.verdicts count = true →
      s.gives (.vwait sy rd) .c (s.behind .c 1) (answered (s.setX rd (s.readSr 0x030))) ∧
      s.gives (.vsig sy rd) .c (s.behind .c 1) (answered (s.setX rd s.ctx.mx.signature))) ∧
    (reached s.ctx.sys.verdicts count = false → s.begins (.vwait sy rd) .c sy waiting ∧ s.begins (.vsig sy rd) .c sy waiting) ∧
    ∃ v : Word, s.givesX (.vstat sy rd) 1 rd v ∧ v.getLsbD 0 = false ∧ v.getLsbD 1 = s.ctx.mx.dispute.isSome ∧
      v.getLsbD 2 = decide (s.ctx.mx.spanBands ≠ 0) ∧ v.extractLsb' 3 5 = 0 ∧
      v.extractLsb' 8 8 = BitVec.ofNat 8 (min s.ctx.cb.length 255) ∧ v.extractLsb' 16 16 = BitVec.ofNat 16 s.ctx.journalUsed ∧
      v.extractLsb' 32 16 = BitVec.ofNat 16 (s.ctx.mx.spanProducts.foldl (fun a e => max a e.2) 0) ∧ v.extractLsb' 48 16 = 0

/-! ## The vector stream (R138 to R158) -/

/-- An E3M5 code is unsigned: with exponent field e of 1 or more and fraction m its value is 2^(e − 3)·(1 + m/32), with
e = 0 it is m·2^−7; codes 0x00 to 0x3F lie on the grid of 2^−7 without a gap; every code is a number (R48). -/
def Obligations.ScaleCodeValues : Prop :=
  let q (n : Nat) : Rat := n
  (∀ e m : Nat, e < 8 → m < 32 → valueOf .e3m5 (e * 32 + m) =
    if e = 0 then Val.ofRat (q m / 128) else .num (q (2 ^ e) / 8 * (1 + q m / 32))) ∧
  (∀ c : Nat, c < 0x40 → valueOf .e3m5 c = Val.ofRat (q c / 128)) ∧
  valueOf .e3m5 0x20 = .num (1 / 4) ∧ valueOf .e3m5 0x60 = .num 1 ∧ valueOf .e3m5 0xFF = .num (63 / 2)

/-- The element-wise integer forms, with sources and destination in one type of class I: every active element of vd
takes the value that R146 gives, wrapped to the type or, with the saturate bit, clamped to its range; inactive elements
below VL are zeroed where pz says so and stay otherwise; no flag is raised (R138, R141, R146). That the views are
checked on elements 0 to VL − 1 is the model's reading (log entry 26). -/
def Obligations.VectorIntegers : Prop :=
  ∀ (s : State) (sy : Sync) (vd va vb : VReg) (x : Option VExt), s.ready .vx sy = true →
    let t := (s.view va).ty
    let w := bitsOf t
    let same (q : ElemTy) : Bool := isInt q && decide (q = t)
    let a (e : Nat) : Nat := s.elem (s.view va) e
    let b (e : Nat) : Nat := if bsOf x then (s.vs vb).toNat % 2 ^ w else s.elem (s.view vb) e
    let amount (e : Nat) : Nat := (if bsOf x then (s.vs vb).toNat else s.elem (s.view vb) e) % w
    let sgn (n : Nat) : Int := (BitVec.ofNat w n).toInt
    let val (n : Nat) : Int := if isSigned t then sgn n else n
    let wrap (z : Int) : Nat := (z % 2 ^ w).toNat
    let clamp (z : Int) : Int := max (intMin t) (min z (intMax t))
    let out (sat : Bool) (z : Int) : Nat := wrap (if sat then clamp z else z)
    let sat := satOf x
    let is (i : Instr) (f : Nat → Nat) : Prop := s.givesE i sy x vd fun e => (f e, 0)
    (s.fine ((vd, same) :: (va, same) :: if bsOf x then [] else [(vb, same)]) →
      is (.iadd sy vd va vb x) (fun e => out sat (val (a e) + val (b e))) ∧
      is (.isub sy vd va vb x) (fun e => out sat (val (a e) - val (b e))) ∧
      is (.imul sy vd va vb x) (fun e => out sat (val (a e) * val (b e))) ∧
      is (.iadds sy vd va vb x) (fun e => out true (val (a e) + val (b e))) ∧
      is (.isubs sy vd va vb x) (fun e => out true (val (a e) - val (b e))) ∧
      is (.imulh sy vd va vb x) (fun e => wrap (sgn (a e) * sgn (b e) / 2 ^ w)) ∧
      is (.imulhu sy vd va vb x) (fun e => a e * b e / 2 ^ w) ∧
      is (.imin sy vd va vb x) (fun e => if sgn (a e) < sgn (b e) then a e else b e) ∧
      is (.imax sy vd va vb x) (fun e => if sgn (a e) < sgn (b e) then b e else a e) ∧
      is (.iminu sy vd va vb x) (fun e => min (a e) (b e)) ∧ is (.imaxu sy vd va vb x) (fun e => max (a e) (b e)) ∧
      is (.iand sy vd va vb x) (fun e => a e &&& b e) ∧ is (.ior sy vd va vb x) (fun e => a e ||| b e) ∧
      is (.ixor sy vd va vb x) (fun e => a e ^^^ b e)) ∧
    (s.fine ((vd, same) :: (va, same) :: if bsOf x then [] else [(vb, isInt)]) →
      is (.ishl sy vd va vb x) (fun e => out sat (val (a e) * 2 ^ amount e)) ∧
      is (.ishr sy vd va vb x) (fun e => a e / 2 ^ amount e) ∧
      is (.isra sy vd va vb x) (fun e => wrap (sgn (a e) / 2 ^ amount e))) ∧
    (s.fine [(vd, same), (va, same)] → is (.iabs sy vd va x) (fun e => out sat |val (a e)|))

/-- The bit forms on 32-bit elements and the bit counts: `BFX`, `BFXU` and `BFI` take and place a field, whose width 0
means 32; `FSHL` and `FSHR` shift the old vd and va through each other; `POPCV`, `CLZV` and `BREVV` count and reverse
the bits of an element (R148). That the views are checked on elements 0 to VL − 1 is the model's reading (log entry 26).
-/
def Obligations.VectorBitForms : Prop :=
  ∀ (s : State) (sy : Sync) (vd va vb : VReg) (x : Option VExt) (y : VExt), s.ready .vx sy = true →
    let t := (s.view va).ty
    let w := bitsOf t
    let a (e : Nat) : BitVec 32 := BitVec.ofNat 32 (s.elem (s.view va) e)
    let d (e : Nat) : BitVec 32 := BitVec.ofNat 32 (s.elem (s.view vd) e)
    let n (e : Nat) : Nat := (if bsOf x then (s.vs vb).toNat else s.elem (s.view vb) e) % 32
    let off := (y.imm.extractLsb' 5 5).toNat
    let wd := if y.imm.extractLsb' 0 5 = 0 then 32 else (y.imm.extractLsb' 0 5).toNat
    (s.fine [(vd, is32), (va, is32)] →
      s.givesE (.bfx sy vd va y) sy (some y) vd (fun e => (((a e >>> off).setWidth wd).signExtend 32 |>.toNat, 0)) ∧
      s.givesE (.bfxu sy vd va y) sy (some y) vd (fun e => ((a e >>> off).toNat % 2 ^ wd, 0)) ∧
      (off + wd ≤ 32 → s.givesE (.bfi sy vd va y) sy (some y) vd (fun e =>
        let m : BitVec 32 := (BitVec.allOnes wd).setWidth 32 <<< off
        (((d e &&& ~~~m) ||| ((a e <<< off) &&& m)).toNat, 0)))) ∧
    (s.fine ((vd, is32) :: (va, is32) :: if bsOf x then [] else [(vb, isInt)]) →
      s.givesE (.fshl sy vd va vb x) sy x vd (fun e => ((((d e ++ a e) <<< n e).extractLsb' 32 32).toNat, 0)) ∧
      s.givesE (.fshr sy vd va vb x) sy x vd (fun e => ((((a e ++ d e) >>> n e).extractLsb' 0 32).toNat, 0))) ∧
    (s.fine [(vd, fun q => isInt q && decide (q = t)), (va, fun q => isInt q && decide (q = t))] →
      let el (e : Nat) : Nat := s.elem (s.view va) e
      s.givesE (.popcv sy vd va x) sy x vd (fun e => (((List.range w).filter fun i => (el e).testBit i).length, 0)) ∧
      s.givesE (.clzv sy vd va x) sy x vd (fun e => (w - (if el e = 0 then 0 else Nat.log2 (el e) + 1), 0)) ∧
      s.givesE (.brevv sy vd va x) sy x vd
        (fun e => ((List.range w).foldl (fun r i => r + if (el e).testBit i then 2 ^ (w - 1 - i) else 0) 0, 0)))

/-- The element-wise floating-point forms and `CVT`: each active element is the exact result of its operands' values,
rounded once into vd's type with the flags of that rounding; a NaN operand gives the type's NaN; the functions round as
R144 says; `CVT` between equal types copies the bits of all but a NaN (R139, R143, R144, R149). That the views are checked on elements 0 to VL − 1 is the model's reading (log entry
26), and how the functions of R144 are enclosed its choice (log entry 17). -/
def Obligations.VectorFloats : Prop :=
  ∀ (s : State) (sy : Sync) (vd va vb : VReg) (x : Option VExt) (y : VExt), s.ready .vx sy = true →
    let d := s.view vd
    let ta := (s.view va).ty
    let a (e : Nat) : Val := valueOf ta (s.elem (s.view va) e)
    let b (x : Option VExt) (e : Nat) : Val :=
      if bsOf x then valueOf ta ((s.vs vb).toNat % 2 ^ bitsOf ta) else valueOf (s.view vb).ty (s.elem (s.view vb) e)
    let c (e : Nat) : Val := valueOf (s.view y.vc).ty (s.elem (s.view y.vc) e)
    let rm (x : Option VExt) : Rm := rmOf x d
    let into (x : Option VExt) (v : Val) : Nat × BitVec 5 := roundToFormat v d.ty (rm x) (satOf x)
    let arith (x : Option VExt) (l : List Val) (r : Val × BitVec 5) : Nat × BitVec 5 :=
      if anyNaN l then into x .nan else ((into x r.1).1, (into x r.1).2 ||| r.2)
    let fused (np nc : Bool) (e : Nat) : Nat × BitVec 5 :=
      let p := (a e).mul (b (some y) e)
      arith (some y) [a e, b (some y) e, c e]
        (if p.1 = .nan then p else (if np then p.1.negate else p.1).add (if nc then (c e).negate else c e) (rm (some y)))
    (s.fine ((vd, isFloat) :: (va, isFloat) :: if bsOf x then [] else [(vb, isFloat)]) →
      s.givesE (.fadd sy vd va vb x) sy x vd (fun e => arith x [a e, b x e] ((a e).add (b x e) (rm x))) ∧
      s.givesE (.fsub sy vd va vb x) sy x vd (fun e => arith x [a e, b x e] ((a e).add (b x e).negate (rm x))) ∧
      s.givesE (.fmul sy vd va vb x) sy x vd (fun e => arith x [a e, b x e] ((a e).mul (b x e))) ∧
      s.givesE (.fmin sy vd va vb x) sy x vd (fun e => into x ((a e).minmax false (b x e))) ∧
      s.givesE (.fmax sy vd va vb x) sy x vd (fun e => into x ((a e).minmax true (b x e)))) ∧
    (s.fine ((vd, isFloat) :: (va, isFloat) :: (if bsOf (some y) then [] else [(vb, isFloat)]) ++ [(y.vc, isFloat)]) →
      s.givesE (.fma sy vd va vb y) sy (some y) vd (fused false false) ∧
      s.givesE (.fms sy vd va vb y) sy (some y) vd (fused false true) ∧
      s.givesE (.fnma sy vd va vb y) sy (some y) vd (fused true false)) ∧
    (s.fine [(vd, isFloat), (va, isFloat)] →
      let fn (f : UFn) (e : Nat) : Nat × BitVec 5 := f.round (a e) d.ty (satOf x)
      s.givesE (.fabs sy vd va x) sy x vd (fun e => into x (a e).abs) ∧
      s.givesE (.fneg sy vd va x) sy x vd (fun e => into x (a e).negate) ∧
      s.givesE (.frnd sy vd va x) sy x vd (fun e => into x ((a e).toIntegral (rm x))) ∧
      s.givesE (.frcp sy vd va x) sy x vd (fn .rcp) ∧ s.givesE (.frsq sy vd va x) sy x vd (fn .rsq) ∧
      s.givesE (.fsqrt sy vd va x) sy x vd (fn .sqrt) ∧ s.givesE (.fexp2 sy vd va x) sy x vd (fn .exp2) ∧
      s.givesE (.flog2 sy vd va x) sy x vd (fn .log2) ∧ s.givesE (.fsin sy vd va x) sy x vd (fn .sin) ∧
      s.givesE (.fcos sy vd va x) sy x vd (fn .cos)) ∧
    (s.fine [(vd, anyType), (va, anyType)] → s.givesE (.cvt sy vd va x) sy x vd
      (fun e => if ta = d.ty ∧ a e ≠ .nan then (s.elem (s.view va) e, 0) else into x (a e)))

/-- The compares write the comparison to pd's bits of active elements, clear those of inactive elements below VL where
pz says so, and keep every other bit; registers, views and memory stay (R138, R145, R147). That the views are checked on
elements 0 to VL − 1 is the model's reading (log entry 26). -/
def Obligations.VectorCompares : Prop :=
  ∀ (s : State) (sy : Sync) (pd : PReg) (va vb : VReg) (x : Option VExt), s.ready .vx sy = true →
    let t := (s.view va).ty
    let w := bitsOf t
    let ra (e : Nat) : Nat := s.elem (s.view va) e
    let rb (e : Nat) : Nat := if bsOf x then (s.vs vb).toNat % 2 ^ w else s.elem (s.view vb) e
    let va' (e : Nat) : Val := valueOf t (ra e)
    let vb' (e : Nat) : Val := valueOf (if bsOf x then t else (s.view vb).ty) (rb e)
    let sgn (n : Nat) : Int := (BitVec.ofNat w n).toInt
    let is (i : Instr) (f : Nat → Bool) : Prop :=
      ∃ p : BitVec 1024, s.gives i .vx (s.behind .vx (1 + extLen x)) (s.setP .vx pd p) ∧
        ∀ e, e < 1024 → p.getLsbD e =
          (if e < s.vl ∧ s.selected x e = true then f e
           else if e < s.vl ∧ x.any (·.pz) = true then false else (s.pr pd).getLsbD e)
    (s.fine ((va, isFloat) :: if bsOf x then [] else [(vb, isFloat)]) →
      is (.feq sy pd va vb x) (fun e => (va' e).eqN (vb' e)) ∧ is (.fne sy pd va vb x) (fun e => !(va' e).eqN (vb' e)) ∧
      is (.flt sy pd va vb x) (fun e => (va' e).ltN (vb' e)) ∧
      is (.fle sy pd va vb x) (fun e => (va' e).ltN (vb' e) || (va' e).eqN (vb' e)) ∧
      is (.fun sy pd va vb x) (fun e => anyNaN [va' e, vb' e])) ∧
    (s.fine ((va, fun q => isInt q && decide (q = t)) :: if bsOf x then [] else [(vb, fun q => isInt q && decide (q = t))]) →
      is (.ieq sy pd va vb x) (fun e => decide (ra e = rb e)) ∧ is (.ine sy pd va vb x) (fun e => decide (ra e ≠ rb e)) ∧
      is (.ilt sy pd va vb x) (fun e => decide (sgn (ra e) < sgn (rb e))) ∧
      is (.ige sy pd va vb x) (fun e => decide (sgn (rb e) ≤ sgn (ra e))) ∧
      is (.iltu sy pd va vb x) (fun e => decide (ra e < rb e)) ∧ is (.igeu sy pd va vb x) (fun e => decide (rb e ≤ ra e)))

/-- The moves, with operands of one element size: `VMOV`, `VSEL`, `VBCST`, `VIDX`, `VPERM`, `VCMPRS`, `VEXPND`, `VSLDN`
and `VSLUP` write the elements that R153 names, computed from what their sources held before, and raise no flag. That
the views are checked on elements 0 to VL − 1 is the model's reading (log entry 26). -/
def Obligations.VectorMoves : Prop :=
  ∀ (s : State) (sy : Sync) (vd va vb : VReg) (x : Option VExt), s.ready .vx sy = true →
    let a (e : Nat) : Nat := s.elem (s.view va) e
    let act := s.actives x
    let zero : List (Nat × Nat) := (s.cleared x).map fun e => (e, 0)
    let size (q : ElemTy) : Bool := sameSize (s.view vd).size q
    let n := match x with | none => 1 | some y => if y.bs then (s.vs vb).toNat else y.imm.toNat
    let is (i : Instr) (l : List (Nat × Nat)) : Prop :=
      s.givesV i sy x (l.map fun e => (s.view vd).put e.1 e.2) []
    s.fine [(vd, anyType)] →
      (s.fine [(va, size)] → is (.vmov sy vd va x) (act.map (fun e => (e, a e)) ++ zero)) ∧
      (s.fine ((va, size) :: if bsOf x then [] else [(vb, size)]) → is (.vsel sy vd va vb x) (s.named.map fun e =>
        (e, if s.selected x e then a e else if bsOf x then (s.vs vb).toNat % 2 ^ (s.view va).size else s.elem (s.view vb) e))) ∧
      ((bsOf x = false → s.viewFault va size (immOf x + 1) [immOf x] = none) → is (.vbcst sy vd va vb x)
        (act.map (fun e => (e, if bsOf x then (s.vs vb).toNat else a (immOf x))) ++ zero)) ∧
      (s.fine [(vd, isInt)] → is (.vidx sy vd x) (act.map (fun e => (e, immOf x + e)) ++ zero)) ∧
      (s.viewFault va size 0 (s.permIndices x va vb) = none → s.fine [(vb, isInt)] → is (.vperm sy vd va vb x)
        (act.map (fun e => (e, if s.elem (s.view vb) e < (s.view va).len then a (s.elem (s.view vb) e) else 0)) ++ zero)) ∧
      (s.fine [(va, size)] → is (.vcmprs sy vd va x)
        ((act.zipIdx.map fun q => (q.2, a q.1)) ++
          if x.any (·.pz) then (s.named.drop act.length).map fun e => (e, 0) else [])) ∧
      (s.viewFault va size act.length (List.range act.length) = none → is (.vexpnd sy vd va x)
        ((act.zipIdx.map fun q => (q.1, a q.2)) ++ zero)) ∧
      (s.fine [(va, size)] → is (.vsldn sy vd va vb x)
        (act.map (fun e => (e, if e + n < s.vl then a (e + n) else 0)) ++ zero)) ∧
      (s.viewFault va size (s.vl - n) (List.range (s.vl - n)) = none → is (.vslup sy vd va vb x)
        ((act.filter fun e => decide (n ≤ e)).map (fun e => (e, a (e - n))) ++ zero))

/-- The reductions write element 0 of vd from the active elements of va: the sum, exact until its one conversion, or the
least or greatest, of which an empty one is the type's greatest or least integer, or the infinity. The scans write to
each active element the sum of the active elements up to it. `QSCALE` folds the magnitudes into a scale (R150, R154).
That the views are checked on elements 0 to VL − 1 is the model's reading (log entry 26). -/
def Obligations.VectorReductions : Prop :=
  ∀ (s : State) (sy : Sync) (vd va : VReg) (x : Option VExt), s.ready .vx sy = true →
    let d := s.view vd
    let t := (s.view va).ty
    let act := s.actives x
    let bits (l : List Nat) : List Nat := l.map fun e => s.elem (s.view va) e
    let vals (l : List Nat) : List Val := (bits l).map (valueOf t)
    let ints (l : List Nat) : List Int := (bits l).map fun n => if isSigned t then (BitVec.ofNat (bitsOf t) n).toInt else n
    let one (i : Instr) (r : Nat × BitVec 5) : Prop := s.givesV i sy x [d.put 0 r.1] [(0, r.2)]
    let int (z : Int) : Nat × BitVec 5 := ((z % 2 ^ bitsOf d.ty).toNat, 0)
    let sumF (l : List Nat) : Nat × BitVec 5 := exactSum (vals l) d.ty (rmOf x d) (satOf x)
    let upto (e : Nat) : List Nat := act.filter fun k => decide (k ≤ e)
    let fine (dok aok : ElemTy → Bool) : Prop := s.viewFault vd dok 1 [0] = none ∧ s.fine [(va, aok)]
    let same (q : ElemTy) : Bool := isInt q && decide (q = t)
    (fine isInt isInt → one (.vradd sy vd va x) (int (ints act).sum)) ∧
    (fine isFloat isSumTy → one (.vrfadd sy vd va x) (sumF act)) ∧
    (fine same same →
      (act = [] → one (.vrmin sy vd va x) (int (intMax t)) ∧ one (.vrmax sy vd va x) (int (intMin t))) ∧
      (act ≠ [] → ∃ lo ∈ ints act, ∃ hi ∈ ints act, (∀ z ∈ ints act, lo ≤ z ∧ z ≤ hi) ∧
        one (.vrmin sy vd va x) (int lo) ∧ one (.vrmax sy vd va x) (int hi))) ∧
    (fine isFloat isFloat →
      let pick (max : Bool) : Val := match vals act with | [] => .inf max | a :: l => l.foldl (Val.minmax max) a
      let into (v : Val) : Nat × BitVec 5 := roundToFormat v d.ty (rmOf x d) (satOf x)
      one (.vrfmin sy vd va x) (into (pick false)) ∧ one (.vrfmax sy vd va x) (into (pick true))) ∧
    (s.fine [(vd, isInt), (va, isInt)] → s.givesE (.vscan sy vd va x) sy x vd (fun e => int (ints (upto e)).sum)) ∧
    (s.fine [(vd, isFloat), (va, isSumTy)] → s.givesE (.vfscan sy vd va x) sy x vd (fun e => sumF (upto e))) ∧
    (fine (fun q => decide (q = .bf16)) isSumTy →
      one (.qscale sy vd va x) (qscaleOf (s.elem d 0) (vals act)))

/-- `QNT` writes one sector of 128 bytes for each 192 elements below VL, with the scales and nibbles of their blocks;
`DQNT` reads sectors whose CRC holds and converts each active element's value times its scales; a sector whose CRC fails
is POISON, at the lowest such sector (R56 to R59, R151, R152). The scale code of a block with a NaN is the model's free
value (log entry 35). -/
def Obligations.Quantisation : Prop :=
  ∀ (s : State) (sy : Sync) (vd va vb : VReg) (x : Option VExt), s.ready .vx sy = true →
    let d := s.view vd
    let a := s.view va
    let n := (s.vl + 191) / 192
    let qs4 (q : ElemTy) : Bool := decide (q = .qs4)
    (s.viewFault vd qs4 s.vl [] = none → (n ≠ 0 → d.base + 128 * n ≤ s.ctx.win.rsSize) → s.fine [(va, isSumTy)] →
      (bsOf x = false → s.viewFault vb (fun q => decide (q = .bf16)) 1 [0] = none) →
      let scale := if bsOf x then (s.vs vb).toNat % 2 ^ 16 else s.elem (s.view vb) 0
      let row := quantRow scale s.fresh (s.named.map fun e => valueOf a.ty (s.elem a e))
      (s.ctx.mx.opRows = [] → ((s.begun .vx sy).rsWriteAll .vx (sectorWrites d.base row.1 (immOf x) row.2 n)).isSome = true) ∧
      ∀ w, (s.begun .vx sy).rsWriteAll .vx (sectorWrites d.base row.1 (immOf x) row.2 n) = some w →
        s.completes (.qnt sy vd va vb x) .vx sy (1 + extLen x) .now
          (({ w with fresh := w.fresh + row.2.length } : State).raiseLanes (nfOf x) (row.2.zipIdx.map fun q => (8 * q.2, q.1.flags)))) ∧
    (s.fine [(vd, fun q => anyType q && decide (q ≠ .e3m5))] → s.viewFault va qs4 s.vl [] = none →
      (n ≠ 0 → a.base + 128 * n ≤ s.ctx.win.rsSize) →
      let sector (e : Nat) : List Byte := s.rsGet (a.base + 128 * (e / 192)) 128
      ((∀ e ∈ s.actives x, sectorOk (sector e) = true) → s.givesE (.dqnt sy vd va x) sy x vd (fun e =>
        let v := dequant (sector e) (e % 192)
        let q := roundToFormat v.1 d.ty (rmOf x d) (satOf x)
        (q.1, q.2 ||| v.2))) ∧
      (∀ e ∈ s.actives x, sectorOk (sector e) = false → (∀ k ∈ s.actives x, k / 192 < e / 192 → sectorOk (sector k) = true) →
        s.faults (.dqnt sy vd va x) .vx sy 0x0C (BitVec.ofNat 64 (a.base + 128 * (e / 192)))))

/-- The memory forms: `VLD` and `VGTH` write the active elements from the scratchpad at A plus the element's bits, or
its index's; `VST` and `VSCT` write them there; `VLDL` and `VSTL` move active elements between vd and the lanes' slices.
A window place that no window holds faults PROT with its address (R155 to R158). -/
def Obligations.VectorMemory : Prop :=
  ∀ (s : State) (sy : Sync) (vd vb : VReg) (vsa : VsReg) (x : Option VExt), s.ready .vx sy = true →
    let d := s.view vd
    let base := s.spBaseAddr vsa x
    let act := s.actives x
    let idx (e : Nat) : Nat := s.elem (s.view vb) e
    let zero : List BitWrite := (s.cleared x).map fun e => d.put e 0
    let here (ix : Nat → Nat) (l : List SpElem) : Prop := base.toNat % d.bytes = 0 ∧ s.spElems base d ix act = .ok l
    let loads (i : Instr) (ix : Nat → Nat) : Prop := ∀ l, here ix l → (l.any fun q => s.badAt q.pa d.bytes) = false →
      s.givesV i sy x (l.map (fun q => d.put q.e (s.spRead d q)) ++ zero) []
    let stores (i : Instr) (ix : Nat → Nat) (pick : List SpElem → List SpElem × Nat) : Prop := ∀ l, here ix l →
      ∃ w, State.spWriteAll d { s.begun .vx sy with fresh := (pick l).2 } ((pick l).1.map fun q => (q, s.elem d q.e)) = some w ∧
        s.completes i .vx sy (1 + extLen x) .now w
    let place (e : Nat) : Nat := idx e / 4 * 512 + e % 128 * 4 + idx e % 4
    (s.fine [(vd, spType false)] →
      loads (.vld sy vd vsa x) id ∧ stores (.vst sy vd vsa x) id (fun l => (l, s.fresh)) ∧
      (base.toNat % d.bytes = 0 → ∀ w, s.spElems base d id act = .error w →
        s.faults (.vld sy vd vsa x) .vx sy 0x05 w ∧ s.faults (.vst sy vd vsa x) .vx sy 0x05 w) ∧
      (base.toNat % d.bytes ≠ 0 → s.faults (.vld sy vd vsa x) .vx sy 0x03 base ∧ s.faults (.vst sy vd vsa x) .vx sy 0x03 base)) ∧
    (s.fine [(vd, spType true), (vb, isInt)] →
      loads (.vgth sy vd vsa vb x) idx ∧ stores (.vsct sy vd vsa vb x) idx (fun l => pickWinners l.length l s.fresh)) ∧
    (s.fine [(vd, sliceType), (vb, isInt)] →
      (∀ e ∈ act, idx e % d.bytes = 0 ∧ idx e < 4 * (s.ctx.win.rsSize / 512)) →
      s.givesV (.vldl sy vd vb x) sy x (act.map (fun e => d.put e (leValue (s.rsGet (place e) d.bytes))) ++ zero) [] ∧
      s.givesV (.vstl sy vd vb x) sy x (act.map fun e => ({ bit := 8 * place e, size := d.size, val := s.elem d e } : BitWrite)) [])

/-- Writing elements of a vector view lands: with no epoch and no operand rows to keep, each element written last to a
place reads as its value, every other element of the view and every byte of memory outside the view's elements stay
(R49, R131). -/
def Obligations.ElementWritesLand : Prop :=
  ∀ (s w : State) (d : View) (l : List (Nat × Nat)), s.ctx.ver = none → s.ctx.spec = none → s.ctx.mx.opRows = [] →
    s.tablesOk = true → d.tile = false → d.ty ≠ .qs4 → d.ty ≠ .invalid → (l.map (·.1)).Nodup →
    State.writeBits .vx s (l.map fun e => d.put e.1 e.2) = some w →
    (∀ e ∈ l, w.elem d e.1 = e.2 % 2 ^ d.size) ∧
    (∀ k, (∀ e ∈ l, e.1 ≠ k) → w.elem d k = s.elem d k) ∧
    (∀ a, (∀ e ∈ l, a < s.rsAddr (d.bit e.1 / 8) ∨ s.rsAddr (d.top e.1 - 1) < a) → w.mem.get a = s.mem.get a) ∧
    w = { s with mem := w.mem }

/-! ## System forms of the engine streams (R142, R175, R184, R239, R241) -/

/-- The system forms of the vector and matrix streams: the `NOP`s go on; `VEND` and `MEND` stop their stream, `MEND`
closing the chain and waiting while a drain that completes at its verdict is out; `VPQ` takes the queue's head and waits
while there is none; `VSETVL` clamps VL to 1024; `VVIEW` accepts a legal descriptor and faults VIEW on another; `VGETV`,
`VFLGR` and `VFLGC` read views and flags and clear flags; `MCHB` opens a chain on owned bands and faults AMBANK on
others; `MCHE` closes it, and where such a drain is out its pushes wait for the verdict. The control forms of a copy
stream, whose pops are noted with the commands in flight: `XNOP` goes on; `XEND` stops the stream once nothing is in
flight and `XWAIT` goes on once every command is done, and both wait before; `XPQ` and `XSHP` take one and two queue
entries into an offset and a shape register and wait while they are not there; `XADO` adds a sign-extended immediate to
an offset (R142, R175, R184, R239 to R241). What the noted pops are for is the model's reading (log entry 45). -/
def Obligations.EngineControlForms : Prop :=
  (∀ (s : State) (sy : Sync),
    (s.ready .vx sy = true →
      let next := s.behind .vx 1
      s.gives (.vnop sy) .vx next s ∧ s.gives (.vend sy) .vx next (s.stopStream .vx) ∧
      (∀ vsd w, (s.ctx.queues[2]).peek = some w → s.queueDep 2 = .clean →
        s.gives (.vpq sy vsd) .vx next ((s.popQ .vx 2).setVs vsd w)) ∧
      (∀ vsd, s.ctx.queues[2].count = 0 → s.queueDep 2 = .clean → exec (.vpq sy vsd) s = .next s) ∧
      (∀ vsd vsa, let n := min (s.ctx.vx.vs[vsa]).toNat 1024
        s.gives (.vsetvl sy vsd vsa) .vx next ((s.mapVx fun v => { v with vl := n }).setVs vsd (BitVec.ofNat 64 n))) ∧
      s.gives (.vflgc sy) .vx next (s.mapVx fun v => { v with flags := Vector.replicate 128 0 }) ∧
      (∀ vd vsa, let w := s.ctx.vx.vs[vsa]
        ((View.ofWord w).valid = true → s.gives (.vview sy vd vsa) .vx next (s.mapVx fun v => { v with v := v.v.set vd w })) ∧
        ((View.ofWord w).valid = false →
          s.faults (.vview sy vd vsa) .vx sy 0x0A (BitVec.ofNat 64 (1 * 2 ^ 8 + vd.val)))) ∧
      (∀ vsd va, s.gives (.vgetv sy vsd va) .vx next (s.setVs vsd s.ctx.vx.v[va])) ∧
      (∀ vd, s.viewFault vd isInt 128 (List.range 128) = none →
        s.givesV (.vflgr sy vd) sy none
          ((List.range 128).map fun l => (s.view vd).put l (s.ctx.vx.flags.toList.getD l 0).toNat) [])) ∧
    (s.ready .mx sy = true →
      let next := s.behind .mx 1
      let close (w : State) : State := w.mapMx fun m => { m with chain := none }
      let held := s.ctx.mx.drain.any fun d => !d.forward || !d.rest.isEmpty
      s.gives (.mnop sy) .mx next s ∧
      s.completes (.mche sy) .mx sy 1 (if s.ctx.mx.chain.isSome && held then .verdict else .now) (close (s.begun .mx sy)) ∧
      (held = false → s.gives (.mend sy) .mx next ((close s).stopStream .mx)) ∧
      (held = true → exec (.mend sy) s = .next (close s)) ∧
      (∀ band nb cols, s.mxReady = true → s.bandFault band.val nb.val false = none →
        s.gives (.mchb sy band nb cols) .mx next
          (s.mapMx fun m =>
            { m with chain := some { band := band.val, nb := nb.val, cols := cols.val + 1 }, chainAt := s.serial })) ∧
      (∀ band nb cols k, s.mxReady = true → s.bandFault band.val nb.val false = some k →
        s.faults (.mchb sy band nb cols) .mx sy 0x09 (BitVec.ofNat 64 k)))) ∧
  (∀ (s : State) (sy : Sync), let c := s.copySide
    let t := c.stream
    let q := s.ctx.queues[c.queue]
    let v := s.lend c (s.popList t sy) []
    s.ready t sy = true →
    (let next := s.behind t 1
     s.gives (.xnop sy) t next v ∧
     ((s.cp c).flight = [] → s.gives (.xend sy) t next (s.stopStream t)) ∧
     ((s.cp c).flight ≠ [] → exec (.xend sy) s = .next s) ∧
     ((s.cp c).doneseq = (s.cp c).issued → s.gives (.xwait sy) t next v) ∧
     ((s.cp c).doneseq ≠ (s.cp c).issued → exec (.xwait sy) s = .next s) ∧
     (s.queueDep c.queue = .clean →
       (∀ od w, q.peek = some w → s.gives (.xpq sy od) t next ((v.popWord c w).mapCp c fun r => { r with o := r.o.set od w })) ∧
       (∀ od, q.peek = none → exec (.xpq sy od) s = .next s)) ∧
     (s.queueDep2 c.queue = .clean →
       (∀ sh a b, q.peek = some a → q.peek2 = some b → a.toNat < 2 ^ 50 →
         s.gives (.xshp sy sh) t next (((v.popWord c a).popWord c b).mapCp c fun r => { r with sh := r.sh.set sh (a, b) })) ∧
       (∀ sh, q.peek = none ∨ q.peek2 = none → exec (.xshp sy sh) s = .next s)) ∧
     (∀ od imm, s.gives (.xado sy od imm) t next
       (v.mapCp c fun r => { r with o := r.o.set od (r.o[od] + imm.signExtend 64) }))) ∧
    (∀ od imm, s.gives (.xadoLen1 sy od imm) t (s.behind t 2)
      (v.mapCp c fun r => { r with o := r.o.set od (r.o[od] + imm.signExtend 64) })))

/-- A copy command whose operands pass the checks of R242 issues with the next sequence number of its stream: `XCPY`, with
its reference where it compares one, `XFIL`, `XGTH`, and the slot forms, which take a slot of their ring; the stream goes
on at once and the command is in flight. With a check that fails nothing is issued: the stream faults with the cause and
value, once no command of it is in flight, whose own fault would come first (R241, R242, R247, R250 to R252, R328). An
`XCPY` without its reference, a slot form without a slot, and an `XGTH` whose index bytes are still to come, wait. A command that was
done before a fault took the stream back before it takes its number again and writes nothing. That such a fault waits for the commands in
flight, and that a command which is done does not run again, are the model's readings (log entry 45). -/
def Obligations.CopyCommandsIssue : Prop :=
  ∀ (s : State) (sy : Sync) (hd hs hi : HReg) (od os : OReg) (b : BReg) (sh : ShReg) (sl : SlReg) (red : RedCopy)
      (cls : Fin 16) (hint : Hint) (zero cmp : Bool) (fill : BitVec 8), let c := s.copySide
    let t := c.stream
    s.ready t sy = true →
    let u := (s.begun t sy).lend c (s.popList t sy) []
    let issues (i : Instr) (p : State → Prop) : Prop := ∃ w l q, exec i s = .next w ∧
      (w.cp c).issued = (s.cp c).issued + 1 ∧ (w.cp c).flight = l ++ [q] ∧ l.map (·.seq) = (s.cp c).flight.map (·.seq) ∧
      q.seq = (s.cp c).issued + 1 ∧ q.done = false ∧ w.pcOf t = s.behind t 2 ∧ p w ∧ (∀ r, w.x r = s.x r) ∧ w.ctx.vx = s.ctx.vx
    let fails (i : Instr) (f : BitVec 8) (v : Word) : Prop :=
      ((s.cp c).busy = false → s.faults i t sy f v) ∧ ((s.cp c).busy = true → exec i s = .next s)
    let still (w : State) : Prop := w.mem = s.mem ∧ w.cores = s.cores
    let cpy (cmp : Bool) : Instr := .xcpy sy hd od hs os b sh red cls hint cmp zero
    let filled := u.blankCmd c sy (.fill fill) (u.bound hd) .rs (s.cp c).o[od] 0 (s.cp c).sh[sh] cls hint hd.val
    let gth : Instr := .xgth sy hd od hs os b hi sh cls hint
    let l := u.indexBytes c hd od hs os hi sh
    let paid (w : State) : State := w.indexPaid c (u.bound hi) l cls
    let again (i : Instr) : Prop := ∃ w, exec i s = .next w ∧ (w.cp c).issued = (s.cp c).issued + 1 ∧ w.pcOf t = s.behind t 2 ∧
      w.mem = s.mem ∧ w.cores = s.cores ∧ ∀ r, w.x r = s.x r
    (s.ranEarly c = true → again (cpy false) ∧ again gth ∧ again (.xfil sy hd od b sh fill cls hint) ∧
      again (.xsltIn sy hs os sl b cls hint) ∧ again (.xsltOut sy hd od sl b cls hint)) ∧
    (s.ranEarly c = false →
    (∀ q, u.cpyChecked c sy hd od hs os b sh red cls hint zero = .ok q → s.queueDep c.queue = .clean →
      issues (cpy false) still ∧
      ((s.str t).ref.isSome = true ∨ (s.ctx.queues[c.queue]).peek.isSome = true → issues (cpy true) still) ∧
      ((s.str t).ref = none → (s.ctx.queues[c.queue]).peek = none → exec (cpy true) s = .next s)) ∧
    (∀ f v, u.cpyChecked c sy hd od hs os b sh red cls hint zero = .error (f, v) → fails (cpy cmp) f v) ∧
    (u.nameFault [{ h := hd, off := (s.cp c).o[od], write := true }] = none →
      (∀ q, u.checkCopy filled hd.val 0 b = .ok q → issues (.xfil sy hd od b sh fill cls hint) still) ∧
      (∀ f v, u.checkCopy filled hd.val 0 b = .error (f, v) → fails (.xfil sy hd od b sh fill cls hint) f v)) ∧
    (∀ f v, u.nameFault [{ h := hd, off := (s.cp c).o[od], write := true }] = some (f, v) →
      fails (.xfil sy hd od b sh fill cls hint) f v) ∧
    ((l.any fun p => u.mustPark p 1) = false →
      (u.indexReady c (u.bound hi) l cls = .error .wait → exec gth s = .next s) ∧
      (∀ v, u.indexReady c (u.bound hi) l cls = .ok v →
        (∀ q, v.gthChecked c sy hd od hs os b hi sh cls hint = .ok q →
          issues gth (fun w => w.mem = (v.openPlaces q.2.places).mem) ∧
          (s.ms.red = [] → s.ms.sealed = [] → (q.2.places.all fun p => decide (p.key = 0)) = true → (v.openPlaces q.2.places).mem = s.mem)) ∧
        (∀ f x, v.gthChecked c sy hd od hs os b hi sh cls hint = .error (f, x) →
          ((s.cp c).busy = false → exec gth s = .next (((paid (s.begun t sy)).keepPops t sy .clean).recordFault t f x)) ∧
          ((s.cp c).busy = true → exec gth s = .next s)))) ∧
    (∀ pa, s.descPlace (u.slotAddr sl) 64 = some pa → let r := s.mem.slotRing pa
      let src := u.slotCmd c sy .slotIn hs (s.cp c).o[os] r pa r.res cls hint
      let dst := u.slotCmd c sy .slotOut hd (s.cp c).o[od] r pa r.acq cls hint
      let into : Instr := .xsltIn sy hs os sl b cls hint
      let out : Instr := .xsltOut sy hd od sl b cls hint
      s.ringOk r = true →
      (s.boundBell pa = false →
        (r.free = 0 ∨ s.slotOwed pa = true → exec into s = .next s) ∧
        (r.free ≠ 0 → s.slotOwed pa = false →
          (∀ f v, u.nameFault [{ h := hs, off := (s.cp c).o[os], write := false }] = some (f, v) → fails into f v) ∧
          (u.nameFault [{ h := hs, off := (s.cp c).o[os], write := false }] = none →
            (∀ q, u.checkCopy src 0 hs.val b = .ok q → issues into fun w => w.mem = s.mem.setLe (pa + 0x10) 4 (r.res + 1)) ∧
            (∀ f v, u.checkCopy src 0 hs.val b = .error (f, v) → fails into f v)))) ∧
      (r.filled = 0 ∨ s.slotOwed pa = true → exec out s = .next s) ∧
      (r.filled ≠ 0 → s.slotOwed pa = false →
        (∀ f v, u.nameFault [{ h := hd, off := (s.cp c).o[od], write := true }] = some (f, v) → fails out f v) ∧
        (u.nameFault [{ h := hd, off := (s.cp c).o[od], write := true }] = none →
          (∀ q, u.checkCopy dst hd.val 0 b = .ok q → issues out fun w => w.mem = s.mem.setLe (pa + 0x18) 4 (r.acq + 1)) ∧
          (∀ f v, u.checkCopy dst hd.val 0 b = .error (f, v) → fails out f v)))))

/-! ## The matrix stream (R162 to R183, R190, R193) -/

/-- The adding commands, with their checks passed and room in the span: each slot of the chain's band range that the
command covers takes its products, in both stores, and no other slot changes; the bands take the operands' kind. `MMA`
multiplies tiles, either transposed and A negated; `MMAG` gathers rows of its third operand by an index view; `MTRN`,
`MPERM`, `MRSUM` and `MCSUM` add their tile transposed, by rows of an index view, summed by rows, and by columns. Of a
gathered tile only the rows that the index view names are read and checked (R177 to R180). -/
def Obligations.MatrixAdds : Prop :=
  ∀ (s : State) (sy : Sync) (va vb vc : VReg) (ta tb neg : Bool) (ch : Chain) (w : Word) (k : BandKind),
    s.ready .mx sy = true → s.tablesOk = true → s.here.main.wf = true → s.here.shadow.wf = true →
    let a := s.view va
    let b := s.view vb
    let c := s.view vc
    let f := Fmt.ofWord w
    let fp := decide (f.a = .fp32)
    let rd := s.rd
    let usable (o : Operand) : Prop := s.inWindow o.at' = true ∧ s.badOperand o = none
    let part (v : View) (t : ElemTy) (l : List (Nat × Nat)) : Prop := v.tile = true ∧ v.ty = t ∧ usable ⟨v, l⟩
    let legal (v : View) (t : ElemTy) : Prop := part v t v.ranges
    let index (v : View) (top : Nat) : Prop :=
      v.tile = false ∧ isInt v.ty = true ∧ v.len ≤ 16 * ch.nb ∧ usable ⟨v, v.ranges⟩ ∧ ∀ e < v.len, v.index rd e < top
    let rows (v i : View) : List (Nat × Nat) := v.rowRanges ((List.range i.len).map (i.index rd)).eraseDups
    let m := if ta then a.width else a.rows
    let ka := if ta then a.rows else a.width
    let kb := if tb then b.width else b.rows
    let n := if tb then b.rows else b.width
    let ea (i e : Nat) : Val := if ta then a.at rd e i else a.at rd i e
    let eb (e j : Nat) : Val := if tb then b.at rd j e else b.at rd e j
    (s.mayAdd 0 ch w k → legal a f.a → legal b f.b → (a.ty = .qs4 → ta = false) → (b.ty = .qs4 → tb = true) →
      ka = kb → m ≤ 16 * ch.nb → n ≤ ch.cols →
      s.addsTo (.mma sy va vb ta tb neg) 1 ch k f.anchor m n fun i j => (List.range ka).flatMap fun e =>
        productsOf fp f.nine (if neg then (ea i e).negate else ea i e) (eb e j)) ∧
    (s.mayAdd 1 ch w k → part c f.a (rows c a) → legal b f.b → b.ty ≠ .qs4 → index a c.rows → b.rows = c.width →
      b.width ≤ ch.cols →
      s.addsTo (.mmag sy va vb vc) 2 ch k f.anchor a.len b.width fun i j => (List.range c.width).flatMap fun e =>
        productsOf fp f.nine (c.at rd (a.index rd i) e) (b.at rd e j)) ∧
    (s.mayAdd 2 ch w k → f.a = f.b → part a f.a (rows a b) → a.ty ≠ .qs4 → a.width ≤ ch.cols → index b a.rows →
      s.addsTo (.mperm sy va vb) 1 ch k f.anchor b.len a.width fun i j => onesOf fp (a.at rd (b.index rd i) j)) ∧
    (s.mayAdd 2 ch w k → legal a f.a → f.a = f.b →
      (a.ty ≠ .qs4 → a.width ≤ 16 * ch.nb → a.rows ≤ ch.cols →
        s.addsTo (.mtrn sy va) 1 ch k f.anchor a.width a.rows fun i j => onesOf fp (a.at rd j i)) ∧
      (a.rows ≤ 16 * ch.nb → s.addsTo (.mrsum sy va) 1 ch k f.anchor a.rows ch.cols fun i _ =>
        (List.range a.width).flatMap fun e => onesOf fp (a.at rd i e)) ∧
      (a.ty ≠ .qs4 → a.width ≤ ch.cols → s.addsTo (.mcsum sy va) 1 ch k f.anchor (16 * ch.nb) a.width fun _ j =>
        (List.range a.rows).flatMap fun e => onesOf fp (a.at rd e j)))

/-- `MZRO` zeroes every slot and the state of the bands of its range, in both stores, and leaves the others; `MLDA`
replaces the slots under its tile by their element's value and leaves the others (R181, R182). Each is a verification
point for the bands of the span: where the stores agree, on the bands that `MZRO` does not zero and on all of them as
`MLDA` leaves them, it completes and the span ends; where they do not, it waits for the point that it asks for (R190).
That the comparison comes before the effect is the model's choice (log entry 37). -/
def Obligations.MatrixZeroAndLoad : Prop :=
  ∀ (s : State) (sy : Sync) (va : VReg) (band : Band) (nb : Fin 8), s.ready .mx sy = true → s.mxReady = true →
    s.tablesOk = true → s.here.main.wf = true → s.here.shadow.wf = true → s.bandFault band.val nb.val false = none →
    let lo := band.val
    let hi := band.val + nb.val
    let beside := (bandsOf s.ctx.mx.spanBands).filter fun b => decide (b < lo ∨ hi ≤ b)
    let ended (i : Instr) : Prop := ∀ t, exec i s = .next t → t.ctx.mx.spanBands = 0 ∧ t.ctx.mx.spanLog = []
    (s.here.agreeAll beside = true → ended (.mzro sy band nb) ∧ s.completesMx (.mzro sy band nb) fun st st' =>
      (∀ key, st'.slot key = if lo ≤ key / 1024 ∧ key / 1024 < hi then Slot.zero else st.slot key) ∧
      ∀ b, st'.band b = if lo ≤ b ∧ b < hi then BandSt.zero else st.band b) ∧
    (s.here.agreeAll beside = false → exec (.mzro sy band nb) s = .next (s.pointOn beside)) ∧
    (∀ w k, (s.ctx.queues[0]).peek = some w → s.queueDep 0 = .clean → let f := Fmt.ofWord w
      let v := s.view va
      f.loading = some k → v.ty = f.a → v.tile = true → v.ty ≠ .qs4 → s.inWindow v.ranges = true →
      s.badOperand ⟨v, v.ranges⟩ = none → v.rows ≤ 16 * nb.val → v.width ≤ 64 →
      s.here.am.clash (rangeBands lo nb.val) k f.anchor = false →
      let load (st : Store) : Store := st.loadTile v s.rd lo nb.val k f.anchor
      let after : Core := { s.here with main := load s.here.main, shadow := load s.here.shadow }
      let all := bandsOf s.ctx.mx.spanBands ++ rangeBands lo nb.val
      (after.agreeAll all = true → ended (.mlda sy va band nb) ∧ s.completesMx (.mlda sy va band nb) fun st st' =>
        (∀ i < v.rows, ∀ j < v.width, st'.slot (slotKey (lo + i / 16) (i % 16) j) = loadSlot k f.anchor (v.at s.rd i j)) ∧
        (∀ key, (∀ i < v.rows, ∀ j < v.width, key ≠ slotKey (lo + i / 16) (i % 16) j) → st'.slot key = st.slot key)) ∧
      (after.agreeAll all = false → exec (.mlda sy va band nb) s = .next (s.pointOn all)))

/-- `MDRN` with its checks passed: on a core with one good array it writes the converted slots of that array to vd,
raises EVT.INTEG and is done at once with verdict 5; in hold mode it keeps both results and writes nothing; in forward
mode it opens a verification epoch and writes the main array's as far as the journal has room, keeping the rest; the
drain count rises by one (R183, R193, R196, R204). A slot
of the bands compared that neither store can read faults POISON; one that one store cannot read is rewritten from the
other, which in either mode counts a mismatch and raises EVT.INTEG (R206). That the repair is made when the drain starts is the
model's choice (log entry 8), and so is the row that POISON names for a slot in a band of the span outside the range (log entry 43). -/
def Obligations.MatrixDrain : Prop :=
  ∀ (s : State) (sy : Sync) (vd : VReg) (band : Band) (nb : Fin 8) (clear : Bool) (w : Word),
    s.ready .mx sy = true → s.mxReady = true → (s.ctx.queues[0]).peek = some w → s.queueDep 0 = .clean →
    s.bandFault band.val nb.val true = none → let f := Fmt.ofWord w
    let v := s.view vd
    f.draining = true → v.ty = f.d → v.tile = true → v.ty ≠ .qs4 → s.inWindow v.ranges = true → v.rows ≤ 16 * nb.val → v.cols ≤ 64 →
    s.ctx.mx.opRows = [] →
    let bands := s.drainBands band.val nb.val
    let i : Instr := .mdrn sy vd band nb clear
    let tile (st : Store) : Tile := st.drainTile v band.val f
    let out (t : State) : Prop := exec i s = .next t ∧ t.pcOf .mx = s.behind .mx 1 ∧ t.ctx.sys.drains = s.ctx.sys.drains + 1 ∧
      (∀ r, t.x r = s.x r) ∧ t.ctx.vx = s.ctx.vx
    (∀ k, s.here.lost bands = some k → s.faults i .mx sy 0x0C (spanVal band.val nb.val k)) ∧
    (s.here.lost bands = none → s.here.mends bands = true →
      let c := s.here.mend bands
      let r := (((s.begun .mx sy).popQ .mx 0).openVer).tileForward (tile c.main).writes
      ∃ t d, out t ∧ t.here.main = c.main ∧ t.here.shadow = c.shadow ∧ t.ctx.mx.drain = some d ∧
        d.main = (tile c.main).writes ∧ d.shadow = (tile c.shadow).writes ∧ d.forward = s.ctx.launch.forward ∧
        (s.ctx.launch.forward = false → t.mem = s.mem ∧ t.ctx.ver = none) ∧
        (s.ctx.launch.forward = true → t.mem = r.1.mem ∧ d.rest = r.2 ∧ t.ctx.ver.isSome = true) ∧
        t.ctx.sys.integCount = (if s.ctx.sys.integCount = BitVec.allOnes 24 then s.ctx.sys.integCount else s.ctx.sys.integCount + 1) ∧
        t.ctx.sys.evt = s.ctx.sys.evt ||| (evInteg &&& s.ctx.sys.evtmask)) ∧
    (s.here.oneArray = true → s.here.lost bands = none →
      let good := if s.here.mainFailed then s.here.shadow else s.here.main
      ∃ t u, out t ∧ s.tileWrite .clean (tile good).writes = some u ∧ t.mem = u.mem ∧ t.ctx.sys.lastVerdict = 5 ∧
        t.ctx.sys.evt = s.ctx.sys.evt ||| (evInteg &&& s.ctx.sys.evtmask) ∧ t.ctx.sys.verdicts = s.ctx.sys.verdicts + 1 ∧ t.ctx.mx.mxflags = s.ctx.mx.mxflags ||| (tile good).flags ∧
        t.ctx.mx.drain = none) ∧
    (s.here.oneArray = false → s.here.lost bands = none → s.here.mends bands = false → s.ctx.launch.forward = false →
      ∃ t d, out t ∧ t.mem = s.mem ∧ t.ctx.mx.drain = some d ∧ d.main = (tile s.here.main).writes ∧
        d.shadow = (tile s.here.shadow).writes ∧ t.ctx.mx.mxflags = s.ctx.mx.mxflags ∧ t.ctx.ver = none) ∧
    (s.here.oneArray = false → s.here.lost bands = none → s.here.mends bands = false → s.ctx.launch.forward = true →
      let r := (((s.begun .mx sy).popQ .mx 0).mapSys fun r => { r with drains := r.drains + 1 }).openVer.tileForward
        (tile s.here.main).writes
      ∃ t d, out t ∧ t.mem = r.1.mem ∧ t.ctx.mx.drain = some d ∧ d.rest = r.2 ∧ t.ctx.ver.isSome = true ∧
        t.ctx.mx.mxflags = s.ctx.mx.mxflags ||| (tile s.here.main).flags)

/-- Faults of the engine streams: the first operand that fails, in the order vd, va, vb, vc, faults VIEW; an adding
command with an empty format queue FQUNDER; one with no open chain AMBANK with value 32, and one on a range with a band
that is not owned AMBANK with the lowest; a format word that does not fit FMTKIND with the word (R133, R170, R174,
R186). A register or a word of register space that disagrees with its residue stops the instruction that reads it, marks
the core degraded, and is trap RESIDUE in the C stream with bit 63 and the register's number, and a fault of the VX stream
with the word's window offset (R210; shown for `ADD` and `FADD`). That the views are checked on elements 0 to VL − 1 is
the model's reading (log entry 26). -/
def Obligations.EngineFaults : Prop :=
  ∀ (s : State) (sy : Sync) (rd ra rb : XReg) (vd va vb : VReg) (x : Option VExt) (y : VExt) (band : Band) (nb : Fin 8)
    (clear : Bool) (v : Word),
    (s.ready .vx sy = true →
      let check (l : List (VReg × (ElemTy → Bool))) : Option Word := firstFault (l.map fun q => s.viewFault q.1 q.2 s.vl s.named)
      let same (q : ElemTy) : Bool := isInt q && decide (q = (s.view va).ty)
      (check ((vd, isFloat) :: (va, isFloat) :: if bsOf x then [] else [(vb, isFloat)]) = some v →
        s.faults (.fadd sy vd va vb x) .vx sy 0x0A v) ∧
      (check ((vd, isFloat) :: (va, isFloat) :: (if y.bs then [] else [(vb, isFloat)]) ++ [(y.vc, isFloat)]) = some v →
        s.faults (.fma sy vd va vb y) .vx sy 0x0A v) ∧
      (check ((vd, same) :: (va, same) :: if bsOf x then [] else [(vb, same)]) = some v →
        s.faults (.iadd sy vd va vb x) .vx sy 0x0A v)) ∧
    (∀ t : Stream, s.mayIssue t sy = true → s.ctx.ver = none → s.ctx.spec = none → (s.popped t sy).2 = .clean →
      let badX (r : XReg) : Bool := decide (r ≠ 0) && s.ctx.c.badX.getLsbD r.val
      let read := s.elemsAt va (s.actives x) ++ if bsOf x then [] else s.elemsAt vb (s.actives x)
      (s.foundUpset t).here.degraded = true ∧
      (t = .c → ∀ r, (if badX ra then some ra else if badX rb then some rb else none) = some r →
        exec (.add sy rd ra rb) s = .next ((s.foundUpset .c).takeTrap 0x0D (BitVec.ofNat 64 (2 ^ 63 + r.val)))) ∧
      (t = .vx → ∀ o, (read.findSome? fun q => s.badWord q.1 q.2) = some o → exec (.fadd sy vd va vb x) s =
        .next ((((s.begun .vx sy).foundUpset .vx).keepPops .vx sy .clean).recordFault .vx 0x0D (BitVec.ofNat 64 o)))) ∧
    (s.ready .mx sy = true → s.mxReady = true →
      (s.ctx.queues[0].count = 0 → s.queueDep 0 = .clean →
        s.faults (.mrsum sy va) .mx sy 0x07 0 ∧ s.faults (.mdrn sy vd band nb clear) .mx sy 0x07 0 ∧
        s.faults (.mlda sy va band nb) .mx sy 0x07 0) ∧
      (∀ w, (s.ctx.queues[0]).peek = some w → s.queueDep 0 = .clean →
        (s.ctx.mx.chain = none → s.faults (.mrsum sy va) .mx sy 0x09 32) ∧
        (∀ b, s.bandFault band.val nb.val false = some b →
          s.faults (.mlda sy va band nb) .mx sy 0x09 (BitVec.ofNat 64 b) ∧ s.faults (.mzro sy band nb) .mx sy 0x09 (BitVec.ofNat 64 b)) ∧
        (s.bandFault band.val nb.val true = none → (Fmt.ofWord w).draining = false →
          s.faults (.mdrn sy vd band nb clear) .mx sy 0x08 w)))

/-! ## Steps of the part: rings, packets and the PCIe functions (R77 to R88, R355 to R361) -/

/-- The packets of a ring whose fetcher offers them; each consumes its slot. An accepted `LAUNCH` creates its node with its
teams and the pending count that its id's credits leave, takes the credits, and queues the teams where nothing is
pending. `SIGNAL` signals its node, which lowers a pending count, admits the node, or adds credits, and then does its
completion action; `NOP` does its completion action alone; an action without an address does nothing. Each
PARTITION-CONFIG operation of the management ring takes effect once it can complete, and waits before: SET, MASK,
DESTROY, RESET, SHOOTDOWN and CAP change what R359 to R361 say. A packet that breaks a limit, names a live node, does not
fit, or is not for its ring is refused with its code and offset, in RINGERR where no refusal stands there, with the error
interrupt (R77 to R81, R84 to R87, R359). Of CAP only the new cap is stated. The offsets that
a refusal names and the waiting of an operation are the model's readings (log entry 20), and so are a count of credits that stays at its
highest value and the limits that hold for the header of a `NOP` (log entry 49). -/
def Obligations.PacketSteps : Prop :=
  ∀ (s : State) (r : RingId) (k : Packet), s.offers r k = true →
    let u := ((s.slotBytes r).2).mapRing r Ring.consume
    let idx := (s.ring r).head
    let tail := cplForm (BitVec.ofNat 64 (fld k 0x70 8)) ≠ none ∧ fld k 0x78 4 / 2 ^ 16 ≠ 0xFFFF ∧ fld k 0x7C 4 = 0
    let refuses (i : Instr) (code off : Nat) : Prop := exec i s = .next (u.refuse r idx k code off) ∧
      (cplForm (BitVec.ofNat 64 (fld k 0x70 8)) ≠ some .write → (u.ring r).err = 0 →
        ((u.refuse r idx k code off).ring r).err = BitVec.ofNat 32 (idx.toNat % 2 ^ 16 * 2 ^ 16 + off * 2 ^ 8 + code) ∧
        (u.refuse r idx k code off).mg.msix = u.mg.msix ++ [(r.fn.val, 0)])
    let id := BitVec.ofNat 32 (fld k 0x0C 4)
    ((u.ring r).head = idx + 1 ∧ (u.ring r).index = ((s.ring r).index + 1) % 2 ^ (s.ring r).logsize ∧
      (u.ring r).phase = (if (u.ring r).index = 0 then !(s.ring r).phase else (s.ring r).phase)) ∧
    (∀ q, typeOf k = 1 → u.fnPart r.fn = some q → let l := Launch.ofPacket k
      (∀ o, firstBad (u.launchBad q.p k) = some o → refuses (.evLaunch r k) 1 o) ∧
      (firstBad (u.launchBad q.p k) = none →
        ((u.node q.p l.node).isSome = true → refuses (.evLaunch r k) 2 0x0C) ∧
        (u.node q.p l.node = none →
          (∀ o, u.teamFit q l = some o → refuses (.evLaunch r k) 3 o) ∧
          (u.teamFit q l = none → let credits := Table.get 0 q.credits l.node.toNat
            ∃ t n q', exec (.evLaunch r k) s = .next t ∧ t.node q.p l.node = some n ∧ n.launch = l ∧ n.ring = r ∧ n.index = idx ∧
              n.seq = q.nextSeq ∧ n.pending = l.dependence - credits ∧ n.extra = credits - l.dependence ∧
              n.admitted = decide (n.pending = 0) ∧ n.teams.length = l.count / l.team ∧
              (∀ m ∈ n.teams, m.members = List.replicate l.team .waiting ∧ m.queued = n.admitted) ∧
              t.part q.p = some q' ∧ q'.nextSeq = q.nextSeq + 1 ∧ q'.credits = Table.set 0 q.credits l.node.toNat 0 ∧
              (l.group ≠ 0 → (t.group q.p l.group).isSome = true) ∧
              ((∀ a ∈ u.net.absent, a.id ≠ l.group) → t.mem = u.mem ∧ t.ctx = u.ctx))))) ∧
    (∀ q, typeOf k = 2 → u.fnPart r.fn = some q → fld k 0 1 / 2 = 0 → fld k 2 2 = 0 → fld k 4 4 ≠ 0 → fld k 8 4 = 0 →
      fld k 0x10 0x60 = 0 → tail →
      exec (.evSignal r k) s = .next ((u.signal q.p id (fld k 4 4)).packetDone r idx k) ∧
      (∀ n, u.node q.p id = some n → n.admitted = false →
        (fld k 4 4 < n.pending → u.signal q.p id (fld k 4 4) = u.mapNode q.p id fun n => { n with pending := n.pending - fld k 4 4 }) ∧
        (n.pending ≤ fld k 4 4 → ∃ n', (u.signal q.p id (fld k 4 4)).node q.p id = some n' ∧ n'.admitted = true ∧ n'.pending = 0 ∧
          n'.extra = n.extra + (fld k 4 4 - n.pending) ∧ ∀ m ∈ n'.teams, m.queued = true)) ∧
      (u.node q.p id = none → let credits := Table.get 0 q.credits id.toNat
        (credits ≠ 0 ∨ q.credits.length < 1024) → ∃ q', (u.signal q.p id (fld k 4 4)).part q.p = some q' ∧
          q'.credits = Table.set 0 q.credits id.toNat (min (credits + fld k 4 4) (2 ^ 32 - 1)))) ∧
    (fld k 0x70 8 = 0 → ∀ w : State, w.packetDone r idx k = w) ∧
    (typeOf k = 4 → fld k 0 1 / 2 = 0 → fld k 2 1 ≤ 23 → fld k 3 1 < 16 → fld k 4 0x6C = 0 → tail →
      exec (.nopPacket r k) s = .next (u.packetDone r idx k)) ∧
    (typeOf k = 4 → fld k 0 1 / 2 ≠ 0 → refuses (.nopPacket r k) 1 0) ∧
    (let configures (j : Instr) : Prop :=
      (r.fn.val ≠ 0 → refuses j 4 0) ∧
      (r.fn.val = 0 → (∀ o, lowestBad (u.configBad k) = some o → refuses j 1 o) ∧
        (lowestBad (u.configBad k) = none → let w := u.beginConfig k
          (w.configReady k = true → exec j s = .next (((w.mapMg fun m => { m with waiting := none }).configEffect k).packetDone r idx k)) ∧
          (w.configReady k = false → exec j s = .next (w.mapMg fun m => { m with waiting := some (r, idx, k) }))))
     typeOf k = 3 → fld k 0 1 / 2 = 0 →
      (opOf k = 1 → configures (.cfgSet r k)) ∧ (opOf k = 2 → configures (.cfgMask r k)) ∧ (opOf k = 3 → configures (.cfgDestroy r k)) ∧
      (opOf k = 4 → configures (.cfgReset r k)) ∧ (opOf k = 5 → configures (.cfgShootdown r k)) ∧ (opOf k = 6 → configures (.cfgCap r k))) ∧
    (∀ p q (w : State), partOf k = some p → w.part p = some q → let t := w.configEffect k
      (opOf k = 1 → t.part p = some (setOf k p (some q)) ∧ t.pw.due.contains p = true) ∧
      (opOf k = 2 → ∃ q', t.part p = some q' ∧ q'.masks = Table.set 0 q.masks (fld k 8 1) (fld k 0x0C 12) ∧ q'.clusters = q.clusters) ∧
      (opOf k = 3 → t.part p = none) ∧
      (opOf k = 4 → (∀ m ∈ t.nodes, m.part ≠ p) ∧ (∀ e ∈ t.rings, e.1.fn.val ≠ p.val + 1) ∧ ∀ c ∈ t.resident, c.ident.part ≠ p) ∧
      (opOf k = 5 → ∀ c, ∀ e ∈ (t.core c).tlb, e.1 = p → meets e.2.1 e.2.2.1 (fld k 8 8) (fld k 0x10 8) = false) ∧
      (opOf k = 6 → t.pw.cap = fld k 8 2))

/-- The registers and apertures of the PCIe functions. `EN` starts a ring of a legal size at its base and stops it. A
`RINGBELL` write to an enabled ring has the fetcher read the slot: it goes on where the slot has the ring's phase, sleeps
where it has not, and a failed read is RINGFAULT. `RINGERR` clears the bits written as 1; `NODESIG` sends one signal;
`HOSTBELL` raises its event in the resident contexts of a live node. A `REGISTER_WRITE` to the offsets of these registers
and of a doorbell is the same as they; one to RINGBASE of a disabled ring sets its base. `POSTN` on a bound doorbell
posts as many slots as are free, and an excess is counted. A peer's write of at most 512 bytes through BAR4 lands in the carve, and
a host read returns the bytes there, through either port. A configuration request is answered once boot is over, with what
R355 states of a feature; a function-level reset removes the partition's nodes, rings and tasks (R77, R78, R260, R276, R355 to R357,
R361, R367). Model's choices: a step whose names name nothing changes nothing (log entry 7); an excess is counted after the slots that
have room are posted (log entry 24); BAR4 reaches memory under key index 0 (log entry 46); a longer write is dropped (log entry 62). -/
def Obligations.FunctionSteps : Prop :=
  ∀ (s : State) (r : RingId) (v n : BitVec 32) (off len : Nat) (port : Port) (reg : CfgReg) (p : Part) (db : Fin 4096)
      (relaxed : Bool) (b : List Byte),
    let g := s.ring r
    let at' (o : Nat) : BitVec 22 := BitVec.ofNat 22 (0x1000 * r.q.val + o)
    (s.ringThere r = true → g.en = false → 4 ≤ g.logsize → g.logsize ≤ 16 → ∃ t, exec (.ringEn r true) s = .next t ∧
      (t.ring r).en = true ∧ (t.ring r).index = 0 ∧ (t.ring r).phase = true ∧ (t.ring r).head = 0 ∧ (t.ring r).base = g.base) ∧
    (s.ringThere r = true → g.en = false → (g.logsize < 4 ∨ 16 < g.logsize) → ∃ t, exec (.ringEn r true) s = .next t ∧ (t.ring r).en = false) ∧
    (s.ringThere r = true → g.en = true → ∃ t, exec (.ringEn r false) s = .next t ∧ (t.ring r).en = false ∧ t.mem = s.mem) ∧
    (let w := s.mapRing r fun g => { g with awake := true }
     let idle (x : State) : State := x.mapRing r fun g => { g with awake := false }
     g.en = true → w.fetching r = true →
      (∀ l x, w.slotBytes r = (.ok l, x) → ((x.ring r).phase = decide (leValue l % 2 = 1) → exec (.ringbell r) s = .next x) ∧
        ((x.ring r).phase ≠ decide (leValue l % 2 = 1) → exec (.ringbell r) s = .next (idle x))) ∧
      (∀ e x, w.slotBytes r = (.error e, x) → exec (.ringbell r) s = .next ((idle x).ringError r 7 0xFF (x.ring r).head))) ∧
    (g.en = false → exec (.ringbell r) s = .next s) ∧
    (s.ringThere r = true → ∃ t, exec (.ringerr r v) s = .next t ∧ (t.ring r).err = g.err &&& ~~~v ∧ t.mem = s.mem) ∧
    (∀ q, s.ringThere r = true → s.fnPart r.fn = some q → exec (.nodesig r n) s = .next (s.signal q.p n 1) ∧
      (∀ d, s.node q.p n = some d →
        (d.admitted = false → 1 < d.pending → exec (.nodesig r n) s = .next (s.mapNode q.p n fun d => { d with pending := d.pending - 1 })) ∧
        exec (.hostbell r n) s = .next (s.mapAll fun c => if c.live ∧ c.ident.part = d.part ∧ c.launch.node = d.id then c.event evHostbell else c)) ∧
      (s.node q.p n = none → exec (.hostbell r n) s = .next s)) ∧
    (exec (.registerWrite r.fn (at' 0x10) v) s = exec (.ringbell r) s ∧ exec (.registerWrite r.fn (at' 0x14) v) s = exec (.ringerr r v) s ∧
      exec (.registerWrite r.fn (at' 0x18) v) s = exec (.nodesig r v) s ∧ exec (.registerWrite r.fn (at' 0x1C) v) s = exec (.hostbell r v) s ∧
      exec (.registerWrite r.fn (BitVec.ofNat 22 (0x100000 + 16 * db.val)) v) s = exec (.postn r.fn db v relaxed) s) ∧
    (s.ringThere r = true → g.en = false →
      exec (.registerWrite r.fn (at' 0x00) v) s = .next (s.mapRing r fun g => { g with base := halves (g.base.toNat / 2 ^ 32) (v.toNat / 128 * 128) }) ∧
      exec (.registerWrite r.fn (at' 0x04) v) s = .next (s.mapRing r fun g => { g with base := halves v.toNat (g.base.toNat % 2 ^ 32) })) ∧
    (∀ q d, s.fnPart r.fn = some q → (s.ms.doorbells.find? fun d => decide (d.1 = q.p) && decide (d.2.1 = db.val)) = some d →
      let a := d.2.2.1
      let k := s.mem.slotRing a
      let room := k.count - diff32 k.post k.rel
      let posted := (s.setCount a 0x14 (k.post + n.toNat)).setCount a 0x10 (k.post + n.toNat)
      (0 < n.toNat → n.toNat ≤ room → ∀ c, posted.bellOwner a = some c → exec (.postn r.fn db n relaxed) s = .next (posted.mapKey c.key (·.event evSlot))) ∧
      (0 < n.toNat → room = 0 → ∃ t, exec (.postn r.fn db n relaxed) s = .next t ∧ t.mem = (s.setCount a 0x20 (min (k.overrun + n.toNat) (2 ^ 32 - 1))).mem) ∧
      (0 < room → room < n.toNat →
        let part := (s.setCount a 0x14 (k.post + room)).setCount a 0x10 (k.post + room)
        ∃ t, exec (.postn r.fn db n relaxed) s = .next t ∧
          t.mem = (part.setCount a 0x20 (min ((part.mem.slotRing a).overrun + (n.toNat - room)) (2 ^ 32 - 1))).mem)) ∧
    (∀ q, s.fnPart r.fn = some q → off + b.length ≤ q.hbmSize * 2 ^ 30 → let a := q.hbmBase * 2 ^ 30 + off
      (b.length ≤ 512 → exec (.peerWrite ⟨port, r.fn⟩ .bar4 off b relaxed) s = .next (s.writeHome a b)) ∧
      (512 < b.length → exec (.peerWrite ⟨port, r.fn⟩ .bar4 off b relaxed) s = .next s) ∧ (s.ms.red = [] → (s.writeHome a b).mem = (s.rekey a b.length 0).mem.setBytes a b)) ∧
    (∀ q, s.fnPart r.fn = some q → s.ms.red = [] → ∀ h : len < 65, off + len ≤ q.hbmSize * 2 ^ 30 →
      let u := s.rekey (q.hbmBase * 2 ^ 30 + off) len 0
      ∃ t, exec (.hostRead ⟨port, r.fn⟩ .bar4 off ⟨len, h⟩) s = .next t ∧ t.mem = u.mem ∧
        t.mg.hostData = some (u.mem.getBytes (q.hbmBase * 2 ^ 30 + off) len)) ∧
    (∃ t, exec (.configurationRequest ⟨port, r.fn⟩ reg) s = .next t ∧ t.ctx = s.ctx ∧ t.mem = s.mem ∧
      (s.mg.booted = false → t.mg.cfgAnswer = some .retry) ∧
      (s.mg.booted = true → s.mg.trained = true → (reg = .maxPayload → t.mg.cfgAnswer = some (.value 512)) ∧
        ((reg = .ats ∨ reg = .pasid ∨ reg = .ido ∨ reg = .ptm) → t.mg.cfgAnswer = some (.value 0)) ∧
        ((reg = .relaxedOrdering ∨ reg = .tags10 ∨ reg = .tags14) → t.mg.cfgAnswer = some (.value 1)))) ∧
    (∀ q, s.part p = some q → ∃ t, exec (.functionLevelReset p) s = .next t ∧ (∀ m ∈ t.nodes, m.part ≠ p) ∧
      (∀ e ∈ t.rings, e.1.fn.val ≠ p.val + 1) ∧ (∀ c ∈ t.resident, c.ident.part ≠ p) ∧
      ((∀ g ∈ s.groups, ∀ f ∈ g.folds, f.atDie = []) → t.mem = s.mem))

/-- Scheduling and power. A node whose tasks have all ended and performed does its completion action and is no longer
live. A waiting team's priority rises by one once it has waited 10 ms more, below level 19 and at most four times. A
placement takes the decisions to pre-empt, and then starts the next team on the contexts given (shown for a team of one
member that has not run). At the end of a slice, or when every member yields, a team that another of its level would
replace is pre-empted, and one whose slice is over gets a new one. A save of a team that is quiet (shown for one member)
writes its blocks, frees its context and queues the team; before its time it does nothing. The leader renews its lease,
and the lowest live die takes a lapsed one. An evaluation that is due gives a team the grant of R319: of the grants from
its floors that fit, none is nearer to its request (shown for one resident team). A lock window closes after 1 ms and
rests 1 ms. A die's buckets refill when the period is over: a partition that starved takes its share and what the others
left. A pending trap is taken at a boundary of the C stream (R75, R89 to R92, R95, R319, R324, R326, R333, R340, R344).
When these steps may come is the model's choice (log entries 1, 7, 21 and 28), and so is that a save writes its blocks whole in one step, in
the layout that the spec leaves open (log entry 22). -/
def Obligations.SchedulingSteps : Prop :=
  ∀ (s : State) (p : Part) (id : BitVec 32) (team : Nat) (cl : Cluster) (die : Die) (choice : List CtxKey) (k : CtxKey),
    (∀ n, s.node p id = some n → n.done = true → s.partPerformed p = true →
      let w := (s.completion n.ring n.index n.launch.cplAddr n.launch.cplValue).tell
      ∃ t, exec (.nodeCompletion p id) s = .next t ∧ t.node p id = none ∧
        ((∀ g ∈ s.groups, ∀ f ∈ g.folds, f.atDie = []) → t.mem = w.mem) ∧
        t = ({ w with nodes := w.nodes.filter fun m => !(decide (m.part = n.part) && decide (m.id = n.id)) } : State).freeGroups) ∧
    (∀ n t, s.node p id = some n → n.teams[team]? = some t → t.queued = true →
      (n.launch.priority + t.aged < 19 → t.aged < 4 → t.since + 10000000 * (t.aged + 1) ≤ s.nstime →
        exec (.aging p id team) s = .next (s.mapTeam p id team fun t => { t with aged := t.aged + 1 })) ∧
      ((19 ≤ n.launch.priority + t.aged ∨ 4 ≤ t.aged ∨ s.nstime < t.since + 10000000 * (t.aged + 1)) → exec (.aging p id team) s = .next s)) ∧
    (let u := s.ageAll.decidePreempt
     (choice = [] → exec (.teamPlacement choice) s = .next u) ∧
     (∀ c l q w allowed j key, choice = c :: l → u.partOfCore c.core.val = some q → (u.scanPart q choice).1 = some (w, allowed) →
       u.plan w.node w.ix w.team allowed (some choice) = some [(j, key)] → j.keep = none →
       ∃ t x, exec (.teamPlacement choice) s = .next t ∧ t.find key = some x ∧ x.ident.part = w.node.part ∧ x.ident.seq = w.node.seq ∧
         x.ident.inst = BitVec.ofNat 32 j.inst ∧ x.launch = w.node.launch ∧ (x.streams[Stream.c.ix]).pc = w.node.launch.entry ∧
         (x.streams[Stream.c.ix]).busy = true ∧ x.c.x[1] = w.node.launch.args ∧ x.c.x[2] = BitVec.ofNat 64 (j.inst % 2 ^ 32) ∧
         x.c.x[3] = BitVec.ofNat 64 w.node.launch.count)) ∧
    (let u := s.ageAll
     ∀ n t r, u.node p id = some n → u.team p id team = some t → u.residentTeam p id team = some r → n.launch.slice = true → t.preempt = none →
      (t.sliceAt + u.quantum p ≤ s.nstime ∨ u.allIdle t = true → u.outbid r = true → exec (.timeSliceExpiry p id team) s =
        .next ((u.mapTeam p id team fun t => { t with preempt := some u.nstime }).mapAll fun c =>
          if c.live ∧ c.ident.part = p ∧ c.launch.node = id ∧ c.teamNo = team then c.event evPreempt else c)) ∧
      (t.sliceAt + u.quantum p ≤ s.nstime → u.outbid r = false →
        exec (.timeSliceExpiry p id team) s = .next (u.mapTeam p id team fun t => { t with sliceAt := u.nstime })) ∧
      (s.nstime < t.sliceAt + u.quantum p → u.allIdle t = false → exec (.timeSliceExpiry p id team) s = .next u)) ∧
    (∀ t, s.team p id team = some t →
      (t.preempt = none → exec (.evSave p id team) s = .next s) ∧
      (∀ d, t.preempt = some d → s.nstime < d + 20000 → exec (.evSave p id team) s = .next s) ∧
      (s.ctx.key = k → s.ctx.live = true → (∀ c ∈ s.others, c.key ≠ k) → s.saveDue t = true → t.keys = [k] →
        let w := (s.mapTeam p id team fun t => { t with stopping := true }).on k State.quiesce
        ∀ v l, w.readyToSave k = true → w.focus k = some v → v.writables v.ctx.ident.part v.saveImage = .ok l →
        ∃ u y, exec (.evSave p id team) s = .next u ∧ u.find k = none ∧ u.team p id team = some y ∧ y.queued = true ∧
          y.preempt = none ∧ y.stopping = false ∧ u.mem = (l.foldl (fun s e => s.scatter e.1 e.2) v).mem)) ∧
    (s.nstime < s.mg.leaseUntil → s.mg.leaseUntil ≤ s.nstime + 4000000 → s.mg.deadDies.contains s.mg.lease = false →
      exec .leaseRenewal s = .next (s.mapMg fun m => { m with leaseUntil := s.nstime + 5000000 })) ∧
    (s.mg.leaseUntil ≤ s.nstime → exec .leaseRenewal s = .next s ∧ ∀ d < 6, s.mg.deadDies.contains d = false →
      (∀ e < d, s.mg.deadDies.contains e = true) →
      exec .leaseLapse s = .next (s.mapMg fun m => { m with lease := d, leaseUntil := s.nstime + 5000000 })) ∧
    (∀ r, s.evalReady p = true → s.mg.pendingVersions[2] = none → s.residents = [r] → r.part = p → s.pw.shed = false →
      let g := s.choose (s.bounds p) r []
      (∃ t, exec (.pralineEvaluation p) s = .next t ∧ t.pw.due = s.pw.due.filter (· ≠ p) ∧ t.mem = s.mem ∧
        ∀ x, t.team p r.node r.team = some x → x.grant = g.pack) ∧
      ∀ h ∈ grantsFrom r.floor, s.fits ((s.bounds p).raise r h) = true →
        s.fits ((s.bounds p).raise r g) = true ∧ r.distance g ≤ r.distance h) ∧
    (s.evalReady p = false → exec (.pralineEvaluation p) s = .next s) ∧
    (∀ t, (s.island cl.val).lock = some t → Table.wf Island.init s.pw.islands = true →
      (t + 1000000 ≤ s.nstime → ∃ u, exec (.lockWindowExpiry cl) s = .next u ∧ (u.island cl.val).lock = none ∧
        (u.island cl.val).holders = [] ∧ (u.island cl.val).restUntil = some (s.nstime + 1000000) ∧
        (u.island cl.val).mx = (s.island cl.val).mx ∧ (u.island cl.val).vx = (s.island cl.val).vx ∧ u.ctx = s.ctx ∧ u.mem = s.mem) ∧
      (s.nstime < t + 1000000 → exec (.lockWindowExpiry cl) s = .next s)) ∧
    (∀ t, (s.island cl.val).restUntil = some t → t ≤ s.nstime →
      exec (.lockRestEnd cl) s = .next (s.mapIsland cl.val fun i => { i with restUntil := none })) ∧
    (s.refillDue die.val = true → (s.parts.map (·.p)).Nodup → Table.wf Bucket.zero s.pw.buckets = true →
      let d := die.val
      let own (q : Partition) : Nat := s.tokens d * q.share d / 256
      let starved (q : Partition) : Bool := (s.bucket q.p d).starved
      let left := ((s.parts.filter fun q => !starved q).map fun q => (s.bucket q.p d).balance).sum + (s.tokens d - (s.parts.map own).sum)
      ∃ t, exec (.bucketRefill die) s = .next t ∧ t.mem = s.mem ∧
        (∀ q ∈ s.parts, starved q = false → (t.bucket q.p d).balance = own q ∧ (t.bucket q.p d).allot = own q) ∧
        (∀ q, s.parts.filter starved = [q] → (t.bucket q.p d).balance = own q + left ∧ (t.bucket q.p d).starved = false)) ∧
    (s.refillDue die.val = false → exec (.bucketRefill die) s = .next s) ∧
    (s.ctx.key = k → s.ctx.live = true → s.trapDue = true → s.handler ≠ 0 → ∀ q rest, s.ctx.pend = q :: rest →
      ∃ t, exec (.asyncTrapTaken k) s = .next t ∧ t.ctx.pend = rest ∧ t.ctx.c.trapcause = q.cause ∧ t.ctx.c.trapval = q.val ∧
        t.ctx.c.trapstream = q.stream ∧ t.ctx.c.trappc = s.pcOf .c ∧ t.pcOf .c = s.handler ∧ t.mem = s.mem)

/-! ## Steps of the part: copies, verdicts, homes, folds (R189, R200, R237, R241, R267, R272, R287, R292 to R314) -/

/-- Steps about copies, verdicts and memory. A copy command that has paid and that nothing holds back moves its bytes and is
done, and DONESEQ steps to it where it is next; it faults POISON under STRICT and SIGCOPY where nothing is before it. A
drain whose arrays agree gets verdict 1 with its tile in RS, or closes its epoch in forward mode, and one that does not
waits for Nougat. Nougat's ruling on the drain whose turn it is repairs it and marks the array FAILED, settles it, or ends
in VERIFY; a failed self-test marks its cluster. A pending write completes at its home and its replicas go; a marker whose
writes have come about goes; a fault queue carries out what nothing parks any more and drops what has been parked for more
than 1 ms, with a report for a posted request. A live slice retires in favour of another. A packet of a reducing copy that
has come is a duplicate, dropped and counted, as is one without its command; one of an exchange leaves its bytes with the
member, with an entry. Keys come and go (R189, R199 to R203, R213, R223, R225, R237, R241, R242, R245, R248, R267, R272,
R286, R287). When these steps may come, and how far a copy goes in one, are the model's choices (log entries 7, 10 and 24); so are
that a command faults only where nothing is before it (log entry 45), the value of VERIFY for a slot beside the drained range (log entry
43), and the key that a replayed access applies to its sector (log entry 46). -/
def Obligations.MemorySteps : Prop :=
  ∀ (s : State) (k : CtxKey) (cs : CopyStream) (n : BitVec 32) (cl : Cluster) (line serial : Nat) (die : Die)
      (slice target : Fin 16) (pkt : RedPacket) (key : BitVec 8) (val : BitVec 512),
    (s.ctx.key = k → s.ctx.live = true →
      (∀ q, s.command cs n = some q → q.dep = .clean →
        (q.owes = false → q.heldBytes = false → q.due.any (0 < ·) = false → s.copyGoes q = true → s.copyParked q = false →
          ∀ data u, s.moved cs q = some (data, u) → q.mismatch data = false →
          ∃ t, exec (.copyDone k cs n) s = .next t ∧ t = u.finishCopy cs { q with zeroed := q.zeroed + s.zeroSectors q } ∧
            t.command cs n = none ∧ ((u.cp cs).flight = [q] → (u.cp cs).doneseq + 1 = n → (t.cp cs).doneseq = n ∧ (t.cp cs).flight = [])) ∧
        (q.owes = false → q.heldBytes = false → q.due.any (0 < ·) = false → s.copyGoes q = false → exec (.copyDone k cs n) s = .next s) ∧
        (let b := s.freeBytes (s.dstPlaces q).length
         s.mayFault cs q = true → (b.2.putPlaces q (s.dstPlaces q) b.1).isSome = true →
          (∀ a, s.strictPoison q = some a → ∃ t, exec (.copyFault k cs n .poison) s = .next t ∧ t.command cs n = none ∧
            (t.str cs.stream).busy = false ∧ (t.str cs.stream).fault = some (0x0C, a, q.pc)) ∧
          (q.hasSource = true → ∃ t, exec (.copyFault k cs n .sigcopy) s = .next t ∧ t.command cs n = none ∧
            (t.str cs.stream).busy = false ∧ (t.str cs.stream).fault = some (0x06, handleVal hSIGCOPY q.hd q.dstOff, q.pc))) ∧
        (s.mayFault cs q = false → exec (.copyFault k cs n .poison) s = .next s ∧ exec (.copyFault k cs n .sigcopy) s = .next s) ∧
        (s.ms.parked = [] → exec (.copyFault k cs n .watchdog) s = .next s)) ∧
      (s.command cs n = none → exec (.copyDone k cs n) s = .next s ∧ ∀ why, exec (.copyFault k cs n why) s = .next s) ∧
      (∀ d, s.ctx.mx.drain = some d → s.ctx.mx.dispute = none → d.dep = .clean →
        (s.agrees d = false → ∃ t, exec (.drainVerdict k) s = .next t ∧ t.ctx.mx.dispute = some .drain ∧
          t.mg.nougat = s.mg.nougat ++ [k] ∧ t.mem = s.mem) ∧
        (s.agrees d = true → d.forward = true → d.rest = [] → ∃ t, exec (.drainVerdict k) s = .next t ∧ t.ctx.mx.drain = none ∧
          t.ctx.ver = none ∧ t.ctx.sys.lastVerdict = 1 ∧ t.ctx.sys.verdicts = s.ctx.sys.verdicts + 1) ∧
        (s.agrees d = true → d.forward = false → s.ctx.mx.opRows = [] → s.ctx.ver = none → s.ctx.spec = none →
          ∃ t u, exec (.drainVerdict k) s = .next t ∧ (s.mapMx fun m => { m with drain := none }).tileWrite d.dep d.main = some u ∧
            t.mem = u.mem ∧ t.ctx.mx.drain = none ∧ t.ctx.sys.lastVerdict = 1 ∧ t.ctx.sys.verdicts = s.ctx.sys.verdicts + 1 ∧
            t.ctx.mx.mxflags = s.ctx.mx.mxflags ||| d.mainFlags ∧
            t.ctx.mx.signature = tileSig (View.ofWord d.vd) d.main)) ∧
      (∀ d, s.ctx.mx.drain = some d → s.ctx.mx.dispute = some .drain → s.nougatTurn = true → d.forward = false → d.dep = .clean →
        s.ctx.mx.opRows = [] → s.tablesOk = true → s.ctx.ver = none → s.ctx.spec = none →
        (s.ruling = .agree → ∃ t, exec (.nougatArbitration k) s = .next t ∧ t.ctx.mx.drain = none ∧ t.ctx.sys.lastVerdict = 1 ∧
          t.ctx.mx.signature = tileSig (View.ofWord d.vd) d.main ∧ t.mg.nougat.contains k = false) ∧
        (∀ f, s.ruling = .faulty f → ∃ t, exec (.nougatArbitration k) s = .next t ∧ t.ctx.mx.drain = none ∧
          t.ctx.sys.lastVerdict = (if f then 3 else 2) ∧ (if f then t.here.shadowFailed else t.here.mainFailed) = true ∧
          t.ctx.mx.mxflags = s.ctx.mx.mxflags ||| (if f then d.mainFlags else d.shadowFlags) ∧
          t.ctx.mx.signature = tileSig (View.ofWord d.vd) (if f then d.main else d.shadow) ∧ t.mg.nougat.contains k = false) ∧
        (s.ruling = .failed → ∃ t, exec (.nougatArbitration k) s = .next t ∧ t.ctx.mx.drain = none ∧ t.ctx.sys.lastVerdict = 4 ∧
          (t.str .mx).fault = 
            some (0x0E, (s.disputed.head?.map (spanVal d.band d.nb)).getD (BitVec.ofNat 64 d.band), d.pc) ∧ t.mem = s.mem ∧
          t.mg.nougat.contains k = false)) ∧
      (s.nougatTurn = false → exec (.nougatArbitration k) s = .next s)) ∧
    (∃ t, exec (.nougatSelfTest cl false) s = .next t ∧ t.mg.nougatBad.contains cl.val = true) ∧
    (∃ t, exec (.nougatSelfTest cl true) s = .next t ∧ t.mg.nougatBad = s.mg.nougatBad) ∧
    (s.pendingAt line = true → ∃ t, exec (.writeCompleteAtHome line) s = .next t ∧ t.pendingAt line = false ∧
      (∀ r ∈ t.ms.replicas, r.sector ≠ line) ∧ t.mem = s.mem) ∧
    (s.pendingAt line = false → exec (.writeCompleteAtHome line) s = .next s) ∧
    (∀ m ∈ s.ms.markers, m.serial = serial → s.markerDue m = true → ∃ t, exec (.flushMarkerAnswer serial) s = .next t ∧
      t.ms.markers = s.ms.markers.filter fun q => decide (q.serial ≠ serial)) ∧
    (s.queueAt die.val slice.val = [] → exec (.faultQueueReplay die slice) s = .next s) ∧
    (∀ q, s.queueAt die.val slice.val = [q] →
      (s.stillBad q = true → exec (.faultQueueReplay die slice) s = .next s) ∧
      (s.stillBad q = false → s.noRoom q = false →
        let u := s.mapMs fun m => { m with parked := m.parked.filter fun r => decide (r.serial ≠ q.serial) }
        exec (.faultQueueReplay die slice) s = .next (u.replayOne q) ∧
        (∀ cells, q.kind = .store cells → (u.replayOne q).mem =
          ((u.reach q).writeCells (dieOfCore q.key.core.val) cells q.pageKey).mem) ∧
        (∀ m ro, q.kind = .load m ro → q.gone = false → q.key = s.ctx.key → s.ctx.live = true → (u.replayOne q).ctx.order.result =
          some (leValue ((u.reach q).readCore q.key.core.val q.addr m q.device ro).1)))) ∧
    (s.lapsedAt die.val slice.val = [] → exec (.faultQueueWatchdog die slice) s = .next s) ∧
    (∀ q, s.lapsedAt die.val slice.val = [q] → q.kind.posted = true → q.gone = false → q.key = s.ctx.key → s.ctx.live = true → ∃ t, exec (.faultQueueWatchdog die slice) s = .next t ∧
        t.ms.parked = s.ms.parked.filter (fun r => decide (r.serial ≠ q.serial)) ∧
        t.ctx.order.dropped = s.ctx.order.dropped ++ [⟨if q.poison then 0x0C else 0x17, q.va, q.cls, q.die⟩] ∧
        t.ctx.sys.evt = s.ctx.sys.evt ||| (evInteg &&& s.ctx.sys.evtmask) ∧ t.mem = s.mem) ∧
    (s.canRetire die.val slice.val target.val = true → exec (.sliceRetire die slice target) s = .next (s.mapSlice die.val fun m =>
      { m with moving := (m.moving.map fun e => if e.2 = slice.val then (e.1, target.val) else e) ++ ((List.range 64).filter fun k => decide (m.map.toList.getD k 0 = slice.val)).map (·, target.val)
               retired := slice.val :: m.retired })) ∧
    (s.canRetire die.val slice.val target.val = false → exec (.sliceRetire die slice target) s = .next s) ∧
    (pkt.cells = [] → exec (.reductionPacketArrival pkt) s = .next s) ∧
    (pkt.cells ≠ [] → pkt.collective = 0 →
      (s.packetCommand pkt = none → exec (.reductionPacketArrival pkt) s = .next (s.dropDup pkt.addr)) ∧
      (∀ q, s.packetCommand pkt = some (k, cs, q) → s.ctx.key = k → s.ctx.live = true →
        (s.units q).any (fun u => decide (u.dst.map (·.pa) = pkt.cells.map (·.1))) = true →
        (∀ u ∈ s.units q, u.dst.map (·.pa) = pkt.cells.map (·.1) → s.came (s.copyEntry q cs pkt.addr u.packet) = true) →
        exec (.reductionPacketArrival pkt) s = .next (s.dropDup pkt.addr))) ∧
    (pkt.cells ≠ [] → pkt.collective ≠ 0 →
      let e := s.dupEntry pkt.collective pkt.step pkt.source pkt.addr
      (s.came e = true → exec (.reductionPacketArrival pkt) s = .next (s.dropDup pkt.addr)) ∧
      (∀ x l, s.came e = false → s.packetMember pkt = some (k, x, l) → tableFull s.ms.dups e = false → s.ctx.key = k → s.ctx.live = true →
        ∃ t, exec (.reductionPacketArrival pkt) s = .next t ∧ t.came e = true ∧ t.mem = s.mem ∧
          t.ctx.coll.exchanges = s.ctx.coll.exchanges.map fun y =>
            if y.seq = x.seq then { y with far := y.far ++ (l.zip pkt.cells).map fun b => (pkt.source.toNat, b.1, b.2.2) } else y)) ∧
    (let d := (s.unitOf pkt.addr).2
     d < 6 → (s.dropDup pkt.addr).ms.dupCount.toList.getD d 0 = s.ms.dupCount.toList.getD d 0 + 1 ∧ (s.dropDup pkt.addr).mem = s.mem) ∧
    (key ≠ 0 → ∃ t, exec (.keyInstall key val) s = .next t ∧ t.keyOk key = true ∧ t.mem = s.mem) ∧
    (key ≠ 0 → ∃ t, exec (.keyRevoke key) s = .next t ∧ t.keyOk key = false ∧ t.mem = s.mem)

/-- Steps about groups, shown on a package that stands alone. A contribution that waits at a die is counted, and completes
the fold where every member has contributed or departed; one from another site breaks the group. A departure is kept and
completes a fold in the same way. An exchange ends for a member whose partner has departed or whose group is broken, and a
poisoned source ends it; the exchange of a member with itself alone writes its block and is over. A member learns its
fold's result; where it speculated, a right guess closes the epoch and a wrong one takes the other way. A fold that has
lapsed breaks the group, and its member takes COLLTIMEOUT with reason 1. A packet with another shape hash than the member's
breaks the group, and the member takes COLLSHAPE (R292, R295 to R298, R304, R305, R312 to R314). When these steps may come is the model's choice (log
entries 7, 18 and 19). -/
def Obligations.GroupSteps : Prop :=
  ∀ (s : State) (k : CtxKey) (die : Die) (grp seq : BitVec 16) (member : Nat) (hash : BitVec 32), s.mg.pkgid = 0xFFFF →
    let p := s.ctx.ident.part
    let id := s.ctx.launch.group
    let ends (c : BitVec 8) (v : Word) : Pend := { cause := causeWord c 0 true, val := v, stream := streamWord 0 5 }
    let done (g : Group) (f : FoldInst) : FoldInst := { f with result := some (foldResultOf f.site.kind f.trues g.size, g.departed.length) }
    (s.votesAt die.val = [] → exec (.foldContribution die) s = .next s) ∧
    (∀ g f v, s.groups = [g] → g.folds = [f] → g.first = true → f.result = none → g.badSite = none → g.badShape = none →
      s.votesAt die.val = [(g.part, g.id, f.seq, v)] →
      let f' := { f with atDie := f.atDie.filter (fun q => decide (q.member ≠ v.member)), votes := f.votes ++ [(v.member, v.val)] }
      (f.site = v.site → f.hash = v.hash → ∃ t h, exec (.foldContribution die) s = .next t ∧ t.groups = [h] ∧ h.broken = g.broken ∧
        h.folds = [if f'.covered g.departed < g.size then f' else done g f']) ∧
      (f.site ≠ v.site → f.votes ≠ [] → ∃ t h, exec (.foldContribution die) s = .next t ∧ t.groups = [h] ∧
        h.broken = true ∧ h.badSite = some (f.seq, f.site)) ∧
      (f.site = v.site → f.hash ≠ v.hash → f.votes ≠ [] → ∃ t h, exec (.foldContribution die) s = .next t ∧ t.groups = [h] ∧
        h.broken = true ∧ h.badShape = some f.seq ∧ h.folds = [f'])) ∧
    ((∀ g ∈ s.groups, g.id ≠ grp) → exec (.departure grp member) s = .next s) ∧
    (∀ g, s.groups = [g] → g.id = grp → grp ≠ 0 → member < g.size → g.departed.contains member = false → g.first = true →
      let h := { g with departed := member :: g.departed, told := member :: g.told }
      (g.folds = [] → ∃ t, exec (.departure grp member) s = .next t ∧ t.groups = [h]) ∧
      (∀ f, g.folds = [f] → f.result = none → g.badSite = none → g.badShape = none → g.size ≤ f.covered h.departed →
        ∃ t, exec (.departure grp member) s = .next t ∧ (t.groups.map (·.folds)) = [[done h f]])) ∧
    (s.moverList grp seq = [] → exec (.xcollExchangeDone grp seq) s = .next s) ∧
    (∀ m, s.moverList grp seq = [m] → (∀ g ∈ s.groups, g.ended = []) →
      (∀ v, s.exchangeFailure m = some v →
        exec (.xcollExchangeDone grp seq) s = .next (s.on m.key fun t => t.failExchange m.x cCOLLTIMEOUT v)) ∧
      (s.exchangeFailure m = none → m.x.mates m.ix = [m.ix] → s.memberHere m.part grp m.ix = true →
        (∀ a, m.x.block = none → s.strictSource m = some a → exec (.xcollExchangeDone grp seq) s = .next (s.poisonExchange grp m a)) ∧
        (m.x.block = none → s.strictSource m = none → m.x.due.any (0 < ·) = false → s.moverParked m = false →
          (s.contexts.map (·.key)).Nodup →
          let u := s.on m.key fun t => t.sendBlock m
          ∀ m', u.moverNow grp seq m = some m' →
            exec (.xcollExchangeDone grp seq) s = .next (u.on m.key fun t => (t.doExchange m').getD t) ∧
            ∀ w, u.focus m.key = some w → (w.doExchange m').isSome = true →
              (u.on m.key fun t => (t.doExchange m').getD t).moverList grp seq = []))) ∧
    (s.ctx.key = k → s.ctx.live = true →
      (s.foldReady = none → exec (.foldResult k) s = .next s) ∧
      (∀ f b d, s.foldReady = some (f, b, d) →
        (s.ctx.spec = none → ∃ t, exec (.foldResult k) s = .next t ∧
          t.ctx.coll.fold = some { f with res := some (.result b d) } ∧ t.mem = s.mem ∧ (∀ r, t.x r = s.x r)) ∧
        (s.ctx.spec.isSome = true → f.guess = some b → ∃ t, exec (.foldResult k) s = .next t ∧ t.ctx.spec = none ∧
          t.ctx.coll.fold = none ∧ t.ctx.coll.last = b ∧ t.pcOf .c = s.pcOf .c) ∧
        (s.ctx.spec.isSome = true → f.guess = some (!b) → ∃ t, exec (.foldResult k) s = .next t ∧ t.ctx.spec = none ∧
          t.ctx.coll.fold = none ∧ t.ctx.coll.last = b ∧ t.pcOf .c = if b then f.target else f.fall)) ∧
      (s.foldLapsed = none → s.exchangeLapsed = none → exec (.groupTimeout k) s = .next s) ∧
      (∀ f, s.foldLapsed = some f → s.ctx.spec = none → ∃ t, exec (.groupTimeout k) s = .next t ∧
        t.ctx.coll.fold = some { f with res := some (collTimeout 1 f.seq f.site) } ∧
        ∀ g ∈ t.groups, g.part = p → g.id = id → g.broken = true) ∧
      (∀ x, s.ctx.coll.exchanges.find? (·.moving) = some x →
        (x.hash = hash → exec (.collectivePacketArrival k hash) s = .next s) ∧
        (x.hash ≠ hash → ∃ t, exec (.collectivePacketArrival k hash) s = .next t ∧
          (∀ g ∈ t.groups, g.part = p → g.id = id → g.broken = true) ∧
          (∀ g, s.groups = [g] → g.part = p → g.id = id → g.ended = [] → s.ctx.memberIx < g.size → g.departed.contains s.ctx.memberIx = false →
            s.others = [] → s.ctx.coll.fold = none → s.ctx.coll.exchanges = [x] → s.ctx.pend.length < 8 →
            t.ctx.pend = s.ctx.pend ++ [ends 0x10 (collVal 0 x.seq x.hash.toNat)]))))

/-! ## Steps of the part: links, scale-out, management (R348 to R350, R354, R362 to R368) -/

/-- Links, scale-out and management. The 8 flits of a whole frame are delivered in order, once; a flit whose CRC fails is wanted
again; a wanted flit that the replay buffer holds is to be resent; a link that trains takes spares for its bad lanes, and one that
does not is down in both directions, its undelivered flits in wait at the first link of a path to their die. The next packet of a
peer is carried out and acknowledged (shown for a result, a departure, and a partial of a group without an entry, which is kept), an earlier
one is dropped, counted and acknowledged again, an acknowledgement ends the resending, and a package without an id receives nothing; a packet
not acknowledged for 20 µs is sent again by its route. A sample is kept, 115 °C switches the part off, and below that the die's
hottest sensor sets its limit; a sensor read gives the last reading; the module cap is set; the log is mirrored, read and cleared; an update
goes through its stages, the die controllers' as a restart of the followers and then the leader; heartbeats are counted and ten missed make
the standby active; a module reset keeps what flash holds and resets the rest; a freeze stops the clocks and takes the links down; a test
access to a frozen part reads and changes nothing else; the mode, the package id and the routes are set (R15, R298, R320, R348 to R350,
R354, R362 to R368). That memory reads 0 after a module reset, its register values, what it keeps and what a test access reads are the model's
choices (log entries 2, 4 and 15); so are the flit's CRC coverage, the choice of a path (log entry 61), the rails (log entry 30), the stages
of an update, the keeping of messages (log entry 60) and when these steps may come (log entries 7, 18 and 29). -/
def Obligations.ManagementSteps : Prop :=
  ∀ (s : State) (l : LinkDir) (ordered : Bool) (q : BitVec 12) (bad : Nat) (peer id : BitVec 16) (seq : BitVec 32) (msg : ScaleMsg)
      (die : Die) (sensor : Fin 8) (temp : Int) (rail watts version : Nat) (what : TapTarget) (c : Component) (mode : Mode) (tbl : List Route),
    let f := s.link l
    let mg (i : Instr) (g : MgmtSt → MgmtSt) : Prop := exec i s = .next (s.mapMg g)
    (∀ ps : List (List Byte), ps.length = 8 → (∀ p ∈ ps, p.length = 64) → f.up = true → s.linkFlows l = true → f.nextSend = q → f.nextRecv = q →
      f.wanted = [] → f.early = [] → f.heldFlits = [] → f.replay = [] →
      ∃ t, exec (.flitReceive l ordered (ps.map .fresh) none) s = .next t ∧ (t.link l).nextRecv = q + 8 ∧ (t.link l).nextSend = q + 8 ∧
        (t.link l).replay = [] ∧ (t.link l).delivered = f.delivered ++ ps.map fun p => ⟨ordered, p, none⟩) ∧
    (∀ e g, f.got q = false → flitGood g = false → (∀ w ∈ f.wanted, w.1 ≠ q) →
      let k := f.receive q e g
      k.wanted = (q, 1) :: f.wanted ∧ k.delivered = f.delivered ∧ k.nextRecv = f.nextRecv ∧ k.replay = f.replay) ∧
    (f.up = true → (f.wanted.any fun w => decide (w.1 = q)) = true → (f.replay.any fun e => decide (e.1 = q)) = true →
      ∃ t, exec (.repeatRequest l q) s = .next t ∧ (t.link l).resent.contains q = true) ∧
    (f.up = true → bad ≤ f.spares → ∃ t, exec (.linkRetrain l bad true) s = .next t ∧ (t.link l).spares = f.spares - bad ∧
      (t.link l).up = true) ∧
    (f.up = true → ∃ t, exec (.linkRetrain l bad false) s = .next t ∧ (∀ up, (t.link { link := l.link, up := up }).up = false) ∧
      let u := (s.mapLink ⟨l.link, true⟩ LinkSt.down).mapLink ⟨l.link, false⟩ LinkSt.down
      ∀ e ∈ f.unsent (dieTo l), ∀ dst d, e.dest = some dst → u.firstHop (dieFrom l) dst = some d → e ∈ (t.link d).queue) ∧
    (s.mg.pkgid = 0xFFFF → exec (.scaleoutPacketReceive peer seq msg) s = .next s) ∧
    (s.mg.pkgid ≠ 0xFFFF →
      (seq ≠ (s.peer peer).nextRecv → reached (s.peer peer).nextRecv (seq + 1) = true → (∀ n, msg ≠ .ack n) →
        exec (.scaleoutPacketReceive peer seq msg) s = .next ((s.dropScale peer seq msg).transmit peer 0 (.ack seq)) ∧
        let d := (s.routeTo peer).elim 0 (·.val / 2)
        ((∀ pkt, msg ≠ .data pkt) →
          ((s.dropScale peer seq msg).transmit peer 0 (.ack seq)).ms.dupCount.toList.getD d 0 = s.ms.dupCount.toList.getD d 0 + 1)) ∧
      (∀ g k r d still, seq = (s.peer peer).nextRecv → s.groups = [g] → msg = .result g.id k r d still →
        ∃ t, exec (.scaleoutPacketReceive peer seq msg) s = .next t ∧ (t.peer peer).nextRecv = seq + 1 ∧
          t.groups = [(g.hearStill peer still).farResult k r d]) ∧
      (∀ g m still, seq = (s.peer peer).nextRecv → s.groups = [g] → g.id ≠ 0 → m < g.size → msg = .departed g.id m still →
        ∃ t h, exec (.scaleoutPacketReceive peer seq msg) s = .next t ∧ (t.peer peer).nextRecv = seq + 1 ∧ t.groups = [h] ∧
          h.departed.contains m = true) ∧
      (∀ k site hash votes still, seq = (s.peer peer).nextRecv → msg = .fold id k site hash votes still → (∀ g ∈ s.groups, g.id ≠ id) →
        s.net.absent = [] → ∃ t, exec (.scaleoutPacketReceive peer seq msg) s = .next t ∧ (t.peer peer).nextRecv = seq + 1 ∧
          t.groups = s.groups ∧ t.net.absent = [⟨id, none, [(peer, msg)]⟩]) ∧
      (∀ n, msg = .ack n → ∃ t, exec (.scaleoutPacketReceive peer seq msg) s = .next t ∧
        (t.peer peer).unacked = (s.peer peer).unacked.filter fun e => decide (e.1 ≠ n))) ∧
    (s.resendDue peer seq = true → ∃ t, exec (.scaleoutResend peer seq) s = .next t ∧
      (∀ e ∈ (t.peer peer).unacked, e.1 = seq → e.2.1 = s.nstime) ∧
      ∀ p e, s.routeTo peer = some p → s.mg.deadDies.contains (p.val / 2) = false → e ∈ (s.peer peer).unacked → e.1 = seq →
        ⟨p, s.net.etherType, peer, seq, e.2.2⟩ ∈ t.net.frames) ∧
    (∀ rails, Table.wf 0 s.mg.temps = true → Table.wf 0 s.mg.volts = true → ∃ t, exec (.thermalSample die sensor ⟨temp, rails⟩) s = .next t ∧
      Table.get 0 t.mg.temps (8 * die.val + sensor.val) = temp ∧ (∀ v, rails = [(rail, v)] → Table.get 0 t.mg.volts rail = v) ∧
      (115 ≤ temp → t.mg.poweredOff = true) ∧
      let hot := (s.mapMg fun m => { m with temps := Table.set 0 m.temps (8 * die.val + sensor.val) temp }).hottest die.val
      let now := s.pw.limit.toList.getD die.val none
      (hot < 115 → t.pw.limit.toList.getD die.val none = limitAt hot now)) ∧
    mg (.numericSensorRead die (.temp sensor)) (fun m => { m with lastRead := some (Table.get 0 s.mg.temps (8 * die.val + sensor.val)) }) ∧
    mg (.numericSensorRead die (.volt rail)) (fun m => { m with lastRead := some (Table.get 0 s.mg.volts rail) }) ∧
    (1800 ≤ watts → watts ≤ 5000 → ∃ t, exec (.numericEffecterSet watts) s = .next t ∧ t.pw.cap = watts) ∧
    ((watts < 1800 ∨ 5000 < watts) → exec (.numericEffecterSet watts) s = .next s) ∧
    mg .logMirror (fun m => { m with flash := m.log }) ∧ mg .logReadClear (fun m => { m with logRead := m.log, log := [], flash := [] }) ∧
    (s.mg.update = .idle → mg .requestUpdate fun m => { m with update := .requested }) ∧
    (s.mg.update = .requested → mg .passComponentTable fun m => { m with update := .tablePassed }) ∧
    (s.mg.update = .tablePassed → mg (.updateComponent c) fun m => { m with update := .updating c }) ∧
    (s.mg.update = .updating c → mg (.firmwareTransfer c version true) (fun m => { m with update := .verified c version }) ∧
      mg (.firmwareTransfer c version false) fun m => { m with update := .tablePassed }) ∧
    (s.mg.update = .verified c version → ∃ t, exec (.activateFirmware c) s = .next t ∧ t.mg.update = .idle ∧
      (c = .vemund → t.mg.versions = s.mg.versions.set! 0 version ∧ t.mg.activeDie = 3 - s.mg.activeDie) ∧
      (c = .dieController → t.mg.restart = some ⟨version, s.followers, none, [], false⟩ ∧ t.mg.versions = s.mg.versions) ∧
      (c = .powerTable ∨ c = .nougat → t.mg.pendingVersions = s.mg.pendingVersions.set! (componentIx c) (some version) ∧
        t.mg.versions = s.mg.versions)) ∧
    mg (.heartbeat true) (fun m => { m with missed := 0 }) ∧ mg (.heartbeat false) (fun m => { m with missed := m.missed + 1 }) ∧
    (10 ≤ s.mg.missed → ∃ t, exec .vemundFailover s = .next t ∧ t.mg.activeDie = 3 - s.mg.activeDie ∧ t.mg.missed = 0) ∧
    (s.mg.missed < 10 → exec .vemundFailover s = .next s) ∧
    (∃ t, exec .moduleReset s = .next t ∧ t.mem = [] ∧ t.ctx = State.reset.ctx ∧ t.others = [] ∧ t.parts = [] ∧ t.nodes = [] ∧
      t.groups = [] ∧ t.rings = State.reset.rings ∧ t.cores = State.reset.cores ∧ t.pw = State.reset.pw ∧ t.nstime = 0 ∧
      t.mg.flash = s.mg.flash ∧ t.mg.log = s.mg.flash ∧ t.mg.versions = s.mg.versions ∧ t.mg.mode = s.mg.mode ∧ t.mg.frozen = false) ∧
    (∃ t, exec .freeze s = .next t ∧ t.mg = { s.mg with frozen := true, trained := false } ∧ (∀ d, (t.link d).up = false) ∧ t.mem = s.mem ∧
      t.ctx = s.ctx) ∧
    (s.mg.frozen = true → mg (.tapAccess what) fun m => { m with tapRead := some (s.tapValue what) }) ∧
    (s.mg.frozen = false → exec (.tapAccess what) s = .next s) ∧
    (s.parts = [] → mg (.presentationModeSet mode) fun m => { m with mode := mode }) ∧
    (s.parts ≠ [] → exec (.presentationModeSet mode) s = .next s) ∧
    mg (.packageIdSet id) (fun m => { m with pkgid := id }) ∧ mg (.routeTableLoad tbl) fun m => { m with routes := tbl }

/-! ## Encoding, decoding, steps (R21 to R25, R94) -/

/-- Decoding the encoding of a well-formed instruction gives it back, every operand included, in the stream whose map
holds it, and in both copy streams for theirs (R21, R24, R25). -/
def Obligations.DecodeOfEncode : Prop :=
  ∀ (i : Instr) (t : Stream), i.wellFormed = true → (i.home = some t ∨ (i.home = some .ld ∧ t = .st)) →
    ∃ f, decodeList t (encode i) = .ok f ∧ f.instr = i

/-- Words written out from the encoding tables of the spec decode to the instructions they stand for, and reserved ones
are refused by name. -/
def Obligations.DecodeSamples : Prop :=
  let n : Sync := { wp := false, wn := false, sp := false, sn := false }
  decodeList .c [0x0050861D] = .ok (.ins (.divu n 2 6 7)) ∧
  decodeList .c [0x00E24403] = .ok (.ins (.srai n 9 4 3)) ∧
  decodeList .c [0x0113428B] = .ok (.ins (.cmp n 3 .ltu 10 11)) ∧
  decodeList .c [0x01341203] = .ok (.ins (.pandn n 4 1 2)) ∧
  decodeList .c [0x01421400] = .ok (.ins (.pcnt n 8 5)) ∧
  decodeList .c [0x01A00600] = .ok (.ins (.bri n 6)) ∧
  decodeList .c [0x00020000] = .ok (.ins (.ret n)) ∧
  decodeList .c [0x02A0C000] = .ok (.ins (.binit n 3)) ∧
  decodeList .c [0x03000000] = .ok (.ins (.cleave n)) ∧
  decodeList .c [0x06E18A1C, 0x00822000] = .ok (.ins (.cas n false 0 .system true false 6 10 7)) ∧
  decodeList .c [0x0C000000] = .error { sub := .lenbad, k := 0 }

/-- A step whose move gives an issue slot to a stream, which is the first of its unit in order, runs the instruction that the
words at its program counter decode to, and time passes with it: the stream of a resident context that may run, with no
pending trap to take first. Around it stands only which contexts of the core are ready for the unit, which is noted where there is a choice.
A word that no instruction cache holds is read from its place in memory, little end first (R2, R21, R23, R94, R220, R333). Which unit has
the next slot is the model's choice (log entry 1). -/
def Obligations.StepRunsTheDecodedInstruction : Prop :=
  ∀ (s v : State) (k : CtxKey) (t : Stream) (rest : List Move), s.agenda = .run k t :: rest → s.mg.frozen = false →
    s.mg.poweredOff = false →
    let n := ({ s with agenda := rest } : State).noteUnit exec k.core.val t
    (n.order k.core.val t).head? = some k → n.focus k = some v →
    let u := ({ v with stream := t } : State).prune t (v.pcOf t)
    let runs (i : Instr) (x : State) : Prop := step s = passes (match exec i (x.takeFetched t) with
      | .next w => .next (if n.wentOn w k t then w.usedSlot k t else w)
      | o => o)
    ({ v with stream := t } : State).mayRun t = true → (t = .c → ({ v with stream := t } : State).trapDue = false) →
    let pc := v.pcOf t
    (∀ w0 x, u.fetchWord t pc = .got w0 x →
      (∀ f, Sys2Proof.fld w0 26 2 = 0 → decode t w0 0 0 = .ok f → runs f.instr x) ∧
      (∀ e1 y, x.fetchWord t (pc + 4) = .got e1 y →
        (∀ f, Sys2Proof.fld w0 26 2 = 1 → decode t w0 e1 0 = .ok f → runs f.instr y) ∧
        (∀ e2 z f, y.fetchWord t (pc + 8) = .got e2 z → Sys2Proof.fld w0 26 2 = 2 → e1 < 2 ^ 28 → decode t w0 e1 e2 = .ok f →
          runs f.instr z))) ∧
    (∀ w : State, (w.users k.core.val).length < 2 → w.noteUnit exec k.core.val t = w ∧ w.usedSlot k t = w) ∧
    (∀ p x, u.fetchPlace pc = (.ok p, x) → ((x.core x.coreNo).icache.find? fun e => e.1 = p.pa) = none → x.fetchedAt t pc = none →
      x.fetchSent t pc = false → x.hasTokens p.pa 4 = true → x.mustPark p 4 = false → x.poisonedAt p.pa 4 = false → x.ms.red = [] →
      x.ms.replicas = [] → x.ms.sealed = [] → p.key = 0 →
      ∃ y, u.fetchWord t pc = .got (leValue (x.mem.getBytes p.pa 4)) y ∧ y.mem = x.mem ∧ y.ctx = x.ctx)

/-- No instruction is refused and none stops the machine: every instruction of the table, in every state, answers a next
state. A step stops only where every clock has stopped or power is gone and nothing is on the agenda (R363, R368). That
a step of the part with no condition met changes nothing, and how a stopped part stands still, are the model's choices
(log entries 7 and 15). -/
def Obligations.EveryInstructionGoesOn : Prop :=
  (∀ (i : Instr) (s : State), ∃ t, exec i s = .next t) ∧
  ∀ s : State, (∃ t, step s = .next t) ∨
    (step s = .fault .stopped ∧ s.agenda = [] ∧ (s.mg.frozen = true ∨ s.mg.poweredOff = true))

/-- Every step keeps memory and the table of cores in their canonical form: addresses strictly rise, and nothing is
listed that equals what an unlisted one holds; so every read after a write in any run finds what was written. -/
def Obligations.TablesStayCanonical : Prop :=
  ∀ s t : State, s.tablesOk = true → step s = .next t → t.tablesOk = true

/-- The state after reset: memory and cores are canonical; no partition, node, group or key exists; every ring is
disabled with base, head and error 0; NSTIME is 0; the module cap is 4,000 W; the package id is 0xFFFF; no context holds
a task (R15, R77, R117, R225, R320, R358, R362). The values that no rule gives are the model's choices (log entries 4,
14 and 15). -/
def Obligations.ResetState : Prop :=
  State.reset.tablesOk = true ∧ State.reset.parts = [] ∧ State.reset.nodes = [] ∧ State.reset.groups = [] ∧
  State.reset.mg.keys = [] ∧ State.reset.mg.pkgid = 0xFFFF ∧ State.reset.pw.cap = 4000 ∧ State.reset.nstime = 0 ∧
  State.reset.ctx.live = false ∧ State.reset.others = [] ∧
  ∀ r, (State.reset.ring r).en = false ∧ (State.reset.ring r).base = 0 ∧ (State.reset.ring r).head = 0 ∧ (State.reset.ring r).err = 0
end

