-- ==== Sys2Proof/Laws/Exec.lean ====
section
/-!
SUPPORT. `exec` of each constructor is its meaning, true by definition.
-/

namespace Sys2Proof.Machine

@[simp] theorem exec_nop (s : State) : ∀ sy, exec (.nop sy) s = execNop sy s := by intros; rfl
@[simp] theorem exec_done (s : State) : ∀ sy, exec (.done sy) s = execDone sy s := by intros; rfl
@[simp] theorem exec_yield (s : State) : ∀ sy, exec (.yield sy) s = execYield sy s := by intros; rfl
@[simp] theorem exec_trap (s : State) : ∀ sy imm, exec (.trap sy imm) s = execTrap sy imm s := by intros; rfl
@[simp] theorem exec_eret (s : State) : ∀ sy, exec (.eret sy) s = execEret sy s := by intros; rfl
@[simp] theorem exec_brk (s : State) : ∀ sy, exec (.brk sy) s = execBrk sy s := by intros; rfl
@[simp] theorem exec_wfe (s : State) : ∀ sy m, exec (.wfe sy m) s = execWfe sy m s := by intros; rfl
@[simp] theorem exec_evclr (s : State) : ∀ sy m, exec (.evclr sy m) s = execEvclr sy m s := by intros; rfl
@[simp] theorem exec_ret (s : State) : ∀ sy, exec (.ret sy) s = execRet sy s := by intros; rfl
@[simp] theorem exec_fence (s : State) : ∀ sy classes scope ro, exec (.fence sy classes scope ro) s = execFence sy classes scope ro s := by intros; rfl
@[simp] theorem exec_add (s : State) : ∀ sy rd ra rb, exec (.add sy rd ra rb) s = execAdd sy rd ra rb s := by intros; rfl
@[simp] theorem exec_sub (s : State) : ∀ sy rd ra rb, exec (.sub sy rd ra rb) s = execSub sy rd ra rb s := by intros; rfl
@[simp] theorem exec_and (s : State) : ∀ sy rd ra rb, exec (.and sy rd ra rb) s = execAnd sy rd ra rb s := by intros; rfl
@[simp] theorem exec_or (s : State) : ∀ sy rd ra rb, exec (.or sy rd ra rb) s = execOr sy rd ra rb s := by intros; rfl
@[simp] theorem exec_xor (s : State) : ∀ sy rd ra rb, exec (.xor sy rd ra rb) s = execXor sy rd ra rb s := by intros; rfl
@[simp] theorem exec_shl (s : State) : ∀ sy rd ra rb, exec (.shl sy rd ra rb) s = execShl sy rd ra rb s := by intros; rfl
@[simp] theorem exec_shr (s : State) : ∀ sy rd ra rb, exec (.shr sy rd ra rb) s = execShr sy rd ra rb s := by intros; rfl
@[simp] theorem exec_sra (s : State) : ∀ sy rd ra rb, exec (.sra sy rd ra rb) s = execSra sy rd ra rb s := by intros; rfl
@[simp] theorem exec_mul (s : State) : ∀ sy rd ra rb, exec (.mul sy rd ra rb) s = execMul sy rd ra rb s := by intros; rfl
@[simp] theorem exec_mulh (s : State) : ∀ sy rd ra rb, exec (.mulh sy rd ra rb) s = execMulh sy rd ra rb s := by intros; rfl
@[simp] theorem exec_mulhu (s : State) : ∀ sy rd ra rb, exec (.mulhu sy rd ra rb) s = execMulhu sy rd ra rb s := by intros; rfl
@[simp] theorem exec_div (s : State) : ∀ sy rd ra rb, exec (.div sy rd ra rb) s = execDiv sy rd ra rb s := by intros; rfl
@[simp] theorem exec_divu (s : State) : ∀ sy rd ra rb, exec (.divu sy rd ra rb) s = execDivu sy rd ra rb s := by intros; rfl
@[simp] theorem exec_rem (s : State) : ∀ sy rd ra rb, exec (.rem sy rd ra rb) s = execRem sy rd ra rb s := by intros; rfl
@[simp] theorem exec_remu (s : State) : ∀ sy rd ra rb, exec (.remu sy rd ra rb) s = execRemu sy rd ra rb s := by intros; rfl
@[simp] theorem exec_min (s : State) : ∀ sy rd ra rb, exec (.min sy rd ra rb) s = execMin sy rd ra rb s := by intros; rfl
@[simp] theorem exec_max (s : State) : ∀ sy rd ra rb, exec (.max sy rd ra rb) s = execMax sy rd ra rb s := by intros; rfl
@[simp] theorem exec_minu (s : State) : ∀ sy rd ra rb, exec (.minu sy rd ra rb) s = execMinu sy rd ra rb s := by intros; rfl
@[simp] theorem exec_maxu (s : State) : ∀ sy rd ra rb, exec (.maxu sy rd ra rb) s = execMaxu sy rd ra rb s := by intros; rfl
@[simp] theorem exec_mov (s : State) : ∀ sy rd ra, exec (.mov sy rd ra) s = execMov sy rd ra s := by intros; rfl
@[simp] theorem exec_popc (s : State) : ∀ sy rd ra, exec (.popc sy rd ra) s = execPopc sy rd ra s := by intros; rfl
@[simp] theorem exec_clz (s : State) : ∀ sy rd ra, exec (.clz sy rd ra) s = execClz sy rd ra s := by intros; rfl
@[simp] theorem exec_ctz (s : State) : ∀ sy rd ra, exec (.ctz sy rd ra) s = execCtz sy rd ra s := by intros; rfl
@[simp] theorem exec_addi (s : State) : ∀ sy rd ra imm, exec (.addi sy rd ra imm) s = execAddi sy rd ra imm s := by intros; rfl
@[simp] theorem exec_addiLen1 (s : State) : ∀ sy rd ra imm, exec (.addiLen1 sy rd ra imm) s = execAddiLen1 sy rd ra imm s := by intros; rfl
@[simp] theorem exec_addiLen2 (s : State) : ∀ sy rd ra imm, exec (.addiLen2 sy rd ra imm) s = execAddiLen2 sy rd ra imm s := by intros; rfl
@[simp] theorem exec_andi (s : State) : ∀ sy rd ra imm, exec (.andi sy rd ra imm) s = execAndi sy rd ra imm s := by intros; rfl
@[simp] theorem exec_andiLen1 (s : State) : ∀ sy rd ra imm, exec (.andiLen1 sy rd ra imm) s = execAndiLen1 sy rd ra imm s := by intros; rfl
@[simp] theorem exec_andiLen2 (s : State) : ∀ sy rd ra imm, exec (.andiLen2 sy rd ra imm) s = execAndiLen2 sy rd ra imm s := by intros; rfl
@[simp] theorem exec_ori (s : State) : ∀ sy rd ra imm, exec (.ori sy rd ra imm) s = execOri sy rd ra imm s := by intros; rfl
@[simp] theorem exec_oriLen1 (s : State) : ∀ sy rd ra imm, exec (.oriLen1 sy rd ra imm) s = execOriLen1 sy rd ra imm s := by intros; rfl
@[simp] theorem exec_oriLen2 (s : State) : ∀ sy rd ra imm, exec (.oriLen2 sy rd ra imm) s = execOriLen2 sy rd ra imm s := by intros; rfl
@[simp] theorem exec_xori (s : State) : ∀ sy rd ra imm, exec (.xori sy rd ra imm) s = execXori sy rd ra imm s := by intros; rfl
@[simp] theorem exec_xoriLen1 (s : State) : ∀ sy rd ra imm, exec (.xoriLen1 sy rd ra imm) s = execXoriLen1 sy rd ra imm s := by intros; rfl
@[simp] theorem exec_xoriLen2 (s : State) : ∀ sy rd ra imm, exec (.xoriLen2 sy rd ra imm) s = execXoriLen2 sy rd ra imm s := by intros; rfl
@[simp] theorem exec_shli (s : State) : ∀ sy rd ra imm, exec (.shli sy rd ra imm) s = execShli sy rd ra imm s := by intros; rfl
@[simp] theorem exec_shliLen1 (s : State) : ∀ sy rd ra imm, exec (.shliLen1 sy rd ra imm) s = execShliLen1 sy rd ra imm s := by intros; rfl
@[simp] theorem exec_shliLen2 (s : State) : ∀ sy rd ra imm, exec (.shliLen2 sy rd ra imm) s = execShliLen2 sy rd ra imm s := by intros; rfl
@[simp] theorem exec_shri (s : State) : ∀ sy rd ra imm, exec (.shri sy rd ra imm) s = execShri sy rd ra imm s := by intros; rfl
@[simp] theorem exec_shriLen1 (s : State) : ∀ sy rd ra imm, exec (.shriLen1 sy rd ra imm) s = execShriLen1 sy rd ra imm s := by intros; rfl
@[simp] theorem exec_shriLen2 (s : State) : ∀ sy rd ra imm, exec (.shriLen2 sy rd ra imm) s = execShriLen2 sy rd ra imm s := by intros; rfl
@[simp] theorem exec_srai (s : State) : ∀ sy rd ra imm, exec (.srai sy rd ra imm) s = execSrai sy rd ra imm s := by intros; rfl
@[simp] theorem exec_sraiLen1 (s : State) : ∀ sy rd ra imm, exec (.sraiLen1 sy rd ra imm) s = execSraiLen1 sy rd ra imm s := by intros; rfl
@[simp] theorem exec_sraiLen2 (s : State) : ∀ sy rd ra imm, exec (.sraiLen2 sy rd ra imm) s = execSraiLen2 sy rd ra imm s := by intros; rfl
@[simp] theorem exec_li (s : State) : ∀ sy rd imm, exec (.li sy rd imm) s = execLi sy rd imm s := by intros; rfl
@[simp] theorem exec_liLen1 (s : State) : ∀ sy rd imm, exec (.liLen1 sy rd imm) s = execLiLen1 sy rd imm s := by intros; rfl
@[simp] theorem exec_liLen2 (s : State) : ∀ sy rd imm, exec (.liLen2 sy rd imm) s = execLiLen2 sy rd imm s := by intros; rfl
@[simp] theorem exec_muli (s : State) : ∀ sy rd ra imm, exec (.muli sy rd ra imm) s = execMuli sy rd ra imm s := by intros; rfl
@[simp] theorem exec_muliLen1 (s : State) : ∀ sy rd ra imm, exec (.muliLen1 sy rd ra imm) s = execMuliLen1 sy rd ra imm s := by intros; rfl
@[simp] theorem exec_muliLen2 (s : State) : ∀ sy rd ra imm, exec (.muliLen2 sy rd ra imm) s = execMuliLen2 sy rd ra imm s := by intros; rfl
@[simp] theorem exec_cmp (s : State) : ∀ sy pd cc ra rb, exec (.cmp sy pd cc ra rb) s = execCmp sy pd cc ra rb s := by intros; rfl
@[simp] theorem exec_cmpi (s : State) : ∀ sy pd cc ra imm, exec (.cmpi sy pd cc ra imm) s = execCmpi sy pd cc ra imm s := by intros; rfl
@[simp] theorem exec_cmpiLen1 (s : State) : ∀ sy pd cc ra imm, exec (.cmpiLen1 sy pd cc ra imm) s = execCmpiLen1 sy pd cc ra imm s := by intros; rfl
@[simp] theorem exec_pand (s : State) : ∀ sy pd pa pb, exec (.pand sy pd pa pb) s = execPand sy pd pa pb s := by intros; rfl
@[simp] theorem exec_por (s : State) : ∀ sy pd pa pb, exec (.por sy pd pa pb) s = execPor sy pd pa pb s := by intros; rfl
@[simp] theorem exec_pxor (s : State) : ∀ sy pd pa pb, exec (.pxor sy pd pa pb) s = execPxor sy pd pa pb s := by intros; rfl
@[simp] theorem exec_pandn (s : State) : ∀ sy pd pa pb, exec (.pandn sy pd pa pb) s = execPandn sy pd pa pb s := by intros; rfl
@[simp] theorem exec_pnot (s : State) : ∀ sy pd pa, exec (.pnot sy pd pa) s = execPnot sy pd pa s := by intros; rfl
@[simp] theorem exec_pset (s : State) : ∀ sy pd, exec (.pset sy pd) s = execPset sy pd s := by intros; rfl
@[simp] theorem exec_pclr (s : State) : ∀ sy pd, exec (.pclr sy pd) s = execPclr sy pd s := by intros; rfl
@[simp] theorem exec_pmov (s : State) : ∀ sy pd pa, exec (.pmov sy pd pa) s = execPmov sy pd pa s := by intros; rfl
@[simp] theorem exec_pcnt (s : State) : ∀ sy rd pa, exec (.pcnt sy rd pa) s = execPcnt sy rd pa s := by intros; rfl
@[simp] theorem exec_br (s : State) : ∀ sy disp, exec (.br sy disp) s = execBr sy disp s := by intros; rfl
@[simp] theorem exec_brLen1 (s : State) : ∀ sy disp, exec (.brLen1 sy disp) s = execBrLen1 sy disp s := by intros; rfl
@[simp] theorem exec_bp (s : State) : ∀ sy p sense disp, exec (.bp sy p sense disp) s = execBp sy p sense disp s := by intros; rfl
@[simp] theorem exec_bpLen1 (s : State) : ∀ sy p sense disp, exec (.bpLen1 sy p sense disp) s = execBpLen1 sy p sense disp s := by intros; rfl
@[simp] theorem exec_bany (s : State) : ∀ sy p sense disp, exec (.bany sy p sense disp) s = execBany sy p sense disp s := by intros; rfl
@[simp] theorem exec_banyLen1 (s : State) : ∀ sy p sense disp, exec (.banyLen1 sy p sense disp) s = execBanyLen1 sy p sense disp s := by intros; rfl
@[simp] theorem exec_ball (s : State) : ∀ sy p sense disp, exec (.ball sy p sense disp) s = execBall sy p sense disp s := by intros; rfl
@[simp] theorem exec_ballLen1 (s : State) : ∀ sy p sense disp, exec (.ballLen1 sy p sense disp) s = execBallLen1 sy p sense disp s := by intros; rfl
@[simp] theorem exec_call (s : State) : ∀ sy disp, exec (.call sy disp) s = execCall sy disp s := by intros; rfl
@[simp] theorem exec_callLen1 (s : State) : ∀ sy disp, exec (.callLen1 sy disp) s = execCallLen1 sy disp s := by intros; rfl
@[simp] theorem exec_bri (s : State) : ∀ sy ra, exec (.bri sy ra) s = execBri sy ra s := by intros; rfl
@[simp] theorem exec_calli (s : State) : ∀ sy ra, exec (.calli sy ra) s = execCalli sy ra s := by intros; rfl
@[simp] theorem exec_ld (s : State) : ∀ sy rd ra cls hint sz, exec (.ld sy rd ra cls hint sz) s = execLd sy rd ra cls hint sz s := by intros; rfl
@[simp] theorem exec_ldLen1 (s : State) : ∀ sy rd ra cls hint sz off, exec (.ldLen1 sy rd ra cls hint sz off) s = execLdLen1 sy rd ra cls hint sz off s := by intros; rfl
@[simp] theorem exec_lds (s : State) : ∀ sy rd ra cls hint sz, exec (.lds sy rd ra cls hint sz) s = execLds sy rd ra cls hint sz s := by intros; rfl
@[simp] theorem exec_ldsLen1 (s : State) : ∀ sy rd ra cls hint sz off, exec (.ldsLen1 sy rd ra cls hint sz off) s = execLdsLen1 sy rd ra cls hint sz off s := by intros; rfl
@[simp] theorem exec_ldro (s : State) : ∀ sy rd ra cls hint sz, exec (.ldro sy rd ra cls hint sz) s = execLdro sy rd ra cls hint sz s := by intros; rfl
@[simp] theorem exec_ldroLen1 (s : State) : ∀ sy rd ra cls hint sz off, exec (.ldroLen1 sy rd ra cls hint sz off) s = execLdroLen1 sy rd ra cls hint sz off s := by intros; rfl
@[simp] theorem exec_st (s : State) : ∀ sy rs ra cls hint sz, exec (.st sy rs ra cls hint sz) s = execSt sy rs ra cls hint sz s := by intros; rfl
@[simp] theorem exec_stLen1 (s : State) : ∀ sy rs ra cls hint sz off, exec (.stLen1 sy rs ra cls hint sz off) s = execStLen1 sy rs ra cls hint sz off s := by intros; rfl
@[simp] theorem exec_mfsr (s : State) : ∀ sy rd sr, exec (.mfsr sy rd sr) s = execMfsr sy rd sr s := by intros; rfl
@[simp] theorem exec_mtsr (s : State) : ∀ sy sr rs, exec (.mtsr sy sr rs) s = execMtsr sy sr rs s := by intros; rfl
@[simp] theorem exec_ego (s : State) : ∀ sy e ra, exec (.ego sy e ra) s = execEgo sy e ra s := by intros; rfl
@[simp] theorem exec_ewait (s : State) : ∀ sy e, exec (.ewait sy e) s = execEwait sy e s := by intros; rfl
@[simp] theorem exec_estat (s : State) : ∀ sy rd e, exec (.estat sy rd e) s = execEstat sy rd e s := by intros; rfl
@[simp] theorem exec_fqpush (s : State) : ∀ sy ra, exec (.fqpush sy ra) s = execFqpush sy ra s := by intros; rfl
@[simp] theorem exec_pqpush (s : State) : ∀ sy q ra, exec (.pqpush sy q ra) s = execPqpush sy q ra s := by intros; rfl
@[simp] theorem exec_tmap (s : State) : ∀ sy hd ra rb rights, exec (.tmap sy hd ra rb rights) s = execTmap sy hd ra rb rights s := by intros; rfl
@[simp] theorem exec_tunmap (s : State) : ∀ sy hd, exec (.tunmap sy hd) s = execTunmap sy hd s := by intros; rfl
@[simp] theorem exec_tquery (s : State) : ∀ sy rd hd, exec (.tquery sy rd hd) s = execTquery sy rd hd s := by intros; rfl
@[simp] theorem exec_binit (s : State) : ∀ sy b, exec (.binit sy b) s = execBinit sy b s := by intros; rfl
@[simp] theorem exec_bexp (s : State) : ∀ sy b ra, exec (.bexp sy b ra) s = execBexp sy b ra s := by intros; rfl
@[simp] theorem exec_barr (s : State) : ∀ sy b ra, exec (.barr sy b ra) s = execBarr sy b ra s := by intros; rfl
@[simp] theorem exec_bwait (s : State) : ∀ sy b k, exec (.bwait sy b k) s = execBwait sy b k s := by intros; rfl
@[simp] theorem exec_btest (s : State) : ∀ sy pd b k, exec (.btest sy pd b k) s = execBtest sy pd b k s := by intros; rfl
@[simp] theorem exec_amo (s : State) : ∀ sy op dbl cls scope ret acq rel rd ra rb, exec (.amo sy op dbl cls scope ret acq rel rd ra rb) s = execAmo sy op dbl cls scope ret acq rel rd ra rb s := by intros; rfl
@[simp] theorem exec_cas (s : State) : ∀ sy dbl cls scope acq rel rd ra rb, exec (.cas sy dbl cls scope acq rel rd ra rb) s = execCas sy dbl cls scope acq rel rd ra rb s := by intros; rfl
@[simp] theorem exec_red (s : State) : ∀ sy op dbl cls ra rb, exec (.red sy op dbl cls ra rb) s = execRed sy op dbl cls ra rb s := by intros; rfl
@[simp] theorem exec_cbr (s : State) : ∀ sy op hint p disp, exec (.cbr sy op hint p disp) s = execCbr sy op hint p disp s := by intros; rfl
@[simp] theorem exec_cbrLen1 (s : State) : ∀ sy op hint p disp, exec (.cbrLen1 sy op hint p disp) s = execCbrLen1 sy op hint p disp s := by intros; rfl
@[simp] theorem exec_cleave (s : State) : ∀ sy, exec (.cleave sy) s = execCleave sy s := by intros; rfl
@[simp] theorem exec_cquery (s : State) : ∀ sy rd, exec (.cquery sy rd) s = execCquery sy rd s := by intros; rfl
@[simp] theorem exec_xcoll (s : State) : ∀ sy hd hs red ty b src dst, exec (.xcoll sy hd hs red ty b src dst) s = execXcoll sy hd hs red ty b src dst s := by intros; rfl
@[simp] theorem exec_gsig (s : State) : ∀ sy ra, exec (.gsig sy ra) s = execGsig sy ra s := by intros; rfl
@[simp] theorem exec_getratio (s : State) : ∀ sy rd, exec (.getratio sy rd) s = execGetratio sy rd s := by intros; rfl
@[simp] theorem exec_rlock (s : State) : ∀ sy, exec (.rlock sy) s = execRlock sy s := by intros; rfl
@[simp] theorem exec_runlock (s : State) : ∀ sy, exec (.runlock sy) s = execRunlock sy s := by intros; rfl
@[simp] theorem exec_amalloc (s : State) : ∀ sy rd ra, exec (.amalloc sy rd ra) s = execAmalloc sy rd ra s := by intros; rfl
@[simp] theorem exec_amfree (s : State) : ∀ sy ra, exec (.amfree sy ra) s = execAmfree sy ra s := by intros; rfl
@[simp] theorem exec_amfreeDiscard (s : State) : ∀ sy ra, exec (.amfreeDiscard sy ra) s = execAmfreeDiscard sy ra s := by intros; rfl
@[simp] theorem exec_amgrant (s : State) : ∀ sy rd ra rb, exec (.amgrant sy rd ra rb) s = execAmgrant sy rd ra rb s := by intros; rfl
@[simp] theorem exec_amquery (s : State) : ∀ sy rd ra, exec (.amquery sy rd ra) s = execAmquery sy rd ra s := by intros; rfl
@[simp] theorem exec_vwait (s : State) : ∀ sy rd, exec (.vwait sy rd) s = execVwait sy rd s := by intros; rfl
@[simp] theorem exec_vsig (s : State) : ∀ sy rd, exec (.vsig sy rd) s = execVsig sy rd s := by intros; rfl
@[simp] theorem exec_vstat (s : State) : ∀ sy rd, exec (.vstat sy rd) s = execVstat sy rd s := by intros; rfl
@[simp] theorem exec_pref (s : State) : ∀ sy ra rb hint, exec (.pref sy ra rb hint) s = execPref sy ra rb hint s := by intros; rfl
@[simp] theorem exec_wbr (s : State) : ∀ sy ra rb, exec (.wbr sy ra rb) s = execWbr sy ra rb s := by intros; rfl
@[simp] theorem exec_invr (s : State) : ∀ sy ra rb, exec (.invr sy ra rb) s = execInvr sy ra rb s := by intros; rfl
@[simp] theorem exec_rinv (s : State) : ∀ sy ra rb, exec (.rinv sy ra rb) s = execRinv sy ra rb s := by intros; rfl
@[simp] theorem exec_icinv (s : State) : ∀ sy ra rb, exec (.icinv sy ra rb) s = execIcinv sy ra rb s := by intros; rfl
@[simp] theorem exec_slres (s : State) : ∀ sy rd sl, exec (.slres sy rd sl) s = execSlres sy rd sl s := by intros; rfl
@[simp] theorem exec_slpost (s : State) : ∀ sy sl, exec (.slpost sy sl) s = execSlpost sy sl s := by intros; rfl
@[simp] theorem exec_slacq (s : State) : ∀ sy rd sl, exec (.slacq sy rd sl) s = execSlacq sy rd sl s := by intros; rfl
@[simp] theorem exec_slrel (s : State) : ∀ sy sl, exec (.slrel sy sl) s = execSlrel sy sl s := by intros; rfl
@[simp] theorem exec_vend (s : State) : ∀ sy, exec (.vend sy) s = execVend sy s := by intros; rfl
@[simp] theorem exec_vpq (s : State) : ∀ sy vsd, exec (.vpq sy vsd) s = execVpq sy vsd s := by intros; rfl
@[simp] theorem exec_vsetvl (s : State) : ∀ sy vsd vsa, exec (.vsetvl sy vsd vsa) s = execVsetvl sy vsd vsa s := by intros; rfl
@[simp] theorem exec_vflgr (s : State) : ∀ sy vd, exec (.vflgr sy vd) s = execVflgr sy vd s := by intros; rfl
@[simp] theorem exec_vflgc (s : State) : ∀ sy, exec (.vflgc sy) s = execVflgc sy s := by intros; rfl
@[simp] theorem exec_vview (s : State) : ∀ sy vd vsa, exec (.vview sy vd vsa) s = execVview sy vd vsa s := by intros; rfl
@[simp] theorem exec_vgetv (s : State) : ∀ sy vsd va, exec (.vgetv sy vsd va) s = execVgetv sy vsd va s := by intros; rfl
@[simp] theorem exec_fadd (s : State) : ∀ sy vd va vb e1, exec (.fadd sy vd va vb e1) s = execFadd sy vd va vb e1 s := by intros; rfl
@[simp] theorem exec_fsub (s : State) : ∀ sy vd va vb e1, exec (.fsub sy vd va vb e1) s = execFsub sy vd va vb e1 s := by intros; rfl
@[simp] theorem exec_fmul (s : State) : ∀ sy vd va vb e1, exec (.fmul sy vd va vb e1) s = execFmul sy vd va vb e1 s := by intros; rfl
@[simp] theorem exec_fmin (s : State) : ∀ sy vd va vb e1, exec (.fmin sy vd va vb e1) s = execFmin sy vd va vb e1 s := by intros; rfl
@[simp] theorem exec_fmax (s : State) : ∀ sy vd va vb e1, exec (.fmax sy vd va vb e1) s = execFmax sy vd va vb e1 s := by intros; rfl
@[simp] theorem exec_fma (s : State) : ∀ sy vd va vb e1, exec (.fma sy vd va vb e1) s = execFma sy vd va vb e1 s := by intros; rfl
@[simp] theorem exec_fms (s : State) : ∀ sy vd va vb e1, exec (.fms sy vd va vb e1) s = execFms sy vd va vb e1 s := by intros; rfl
@[simp] theorem exec_fnma (s : State) : ∀ sy vd va vb e1, exec (.fnma sy vd va vb e1) s = execFnma sy vd va vb e1 s := by intros; rfl
@[simp] theorem exec_fabs (s : State) : ∀ sy vd va e1, exec (.fabs sy vd va e1) s = execFabs sy vd va e1 s := by intros; rfl
@[simp] theorem exec_fneg (s : State) : ∀ sy vd va e1, exec (.fneg sy vd va e1) s = execFneg sy vd va e1 s := by intros; rfl
@[simp] theorem exec_frcp (s : State) : ∀ sy vd va e1, exec (.frcp sy vd va e1) s = execFrcp sy vd va e1 s := by intros; rfl
@[simp] theorem exec_frsq (s : State) : ∀ sy vd va e1, exec (.frsq sy vd va e1) s = execFrsq sy vd va e1 s := by intros; rfl
@[simp] theorem exec_fsqrt (s : State) : ∀ sy vd va e1, exec (.fsqrt sy vd va e1) s = execFsqrt sy vd va e1 s := by intros; rfl
@[simp] theorem exec_fexp2 (s : State) : ∀ sy vd va e1, exec (.fexp2 sy vd va e1) s = execFexp2 sy vd va e1 s := by intros; rfl
@[simp] theorem exec_flog2 (s : State) : ∀ sy vd va e1, exec (.flog2 sy vd va e1) s = execFlog2 sy vd va e1 s := by intros; rfl
@[simp] theorem exec_fsin (s : State) : ∀ sy vd va e1, exec (.fsin sy vd va e1) s = execFsin sy vd va e1 s := by intros; rfl
@[simp] theorem exec_fcos (s : State) : ∀ sy vd va e1, exec (.fcos sy vd va e1) s = execFcos sy vd va e1 s := by intros; rfl
@[simp] theorem exec_frnd (s : State) : ∀ sy vd va e1, exec (.frnd sy vd va e1) s = execFrnd sy vd va e1 s := by intros; rfl
@[simp] theorem exec_feq (s : State) : ∀ sy pd va vb e1, exec (.feq sy pd va vb e1) s = execFeq sy pd va vb e1 s := by intros; rfl
@[simp] theorem exec_fne (s : State) : ∀ sy pd va vb e1, exec (.fne sy pd va vb e1) s = execFne sy pd va vb e1 s := by intros; rfl
@[simp] theorem exec_flt (s : State) : ∀ sy pd va vb e1, exec (.flt sy pd va vb e1) s = execFlt sy pd va vb e1 s := by intros; rfl
@[simp] theorem exec_fle (s : State) : ∀ sy pd va vb e1, exec (.fle sy pd va vb e1) s = execFle sy pd va vb e1 s := by intros; rfl
@[simp] theorem exec_fun (s : State) : ∀ sy pd va vb e1, exec (.fun sy pd va vb e1) s = execFun sy pd va vb e1 s := by intros; rfl
@[simp] theorem exec_iadd (s : State) : ∀ sy vd va vb e1, exec (.iadd sy vd va vb e1) s = execIadd sy vd va vb e1 s := by intros; rfl
@[simp] theorem exec_isub (s : State) : ∀ sy vd va vb e1, exec (.isub sy vd va vb e1) s = execIsub sy vd va vb e1 s := by intros; rfl
@[simp] theorem exec_imul (s : State) : ∀ sy vd va vb e1, exec (.imul sy vd va vb e1) s = execImul sy vd va vb e1 s := by intros; rfl
@[simp] theorem exec_imulh (s : State) : ∀ sy vd va vb e1, exec (.imulh sy vd va vb e1) s = execImulh sy vd va vb e1 s := by intros; rfl
@[simp] theorem exec_imulhu (s : State) : ∀ sy vd va vb e1, exec (.imulhu sy vd va vb e1) s = execImulhu sy vd va vb e1 s := by intros; rfl
@[simp] theorem exec_imin (s : State) : ∀ sy vd va vb e1, exec (.imin sy vd va vb e1) s = execImin sy vd va vb e1 s := by intros; rfl
@[simp] theorem exec_imax (s : State) : ∀ sy vd va vb e1, exec (.imax sy vd va vb e1) s = execImax sy vd va vb e1 s := by intros; rfl
@[simp] theorem exec_iminu (s : State) : ∀ sy vd va vb e1, exec (.iminu sy vd va vb e1) s = execIminu sy vd va vb e1 s := by intros; rfl
@[simp] theorem exec_imaxu (s : State) : ∀ sy vd va vb e1, exec (.imaxu sy vd va vb e1) s = execImaxu sy vd va vb e1 s := by intros; rfl
@[simp] theorem exec_iand (s : State) : ∀ sy vd va vb e1, exec (.iand sy vd va vb e1) s = execIand sy vd va vb e1 s := by intros; rfl
@[simp] theorem exec_ior (s : State) : ∀ sy vd va vb e1, exec (.ior sy vd va vb e1) s = execIor sy vd va vb e1 s := by intros; rfl
@[simp] theorem exec_ixor (s : State) : ∀ sy vd va vb e1, exec (.ixor sy vd va vb e1) s = execIxor sy vd va vb e1 s := by intros; rfl
@[simp] theorem exec_ishl (s : State) : ∀ sy vd va vb e1, exec (.ishl sy vd va vb e1) s = execIshl sy vd va vb e1 s := by intros; rfl
@[simp] theorem exec_ishr (s : State) : ∀ sy vd va vb e1, exec (.ishr sy vd va vb e1) s = execIshr sy vd va vb e1 s := by intros; rfl
@[simp] theorem exec_isra (s : State) : ∀ sy vd va vb e1, exec (.isra sy vd va vb e1) s = execIsra sy vd va vb e1 s := by intros; rfl
@[simp] theorem exec_iadds (s : State) : ∀ sy vd va vb e1, exec (.iadds sy vd va vb e1) s = execIadds sy vd va vb e1 s := by intros; rfl
@[simp] theorem exec_isubs (s : State) : ∀ sy vd va vb e1, exec (.isubs sy vd va vb e1) s = execIsubs sy vd va vb e1 s := by intros; rfl
@[simp] theorem exec_iabs (s : State) : ∀ sy vd va e1, exec (.iabs sy vd va e1) s = execIabs sy vd va e1 s := by intros; rfl
@[simp] theorem exec_ieq (s : State) : ∀ sy pd va vb e1, exec (.ieq sy pd va vb e1) s = execIeq sy pd va vb e1 s := by intros; rfl
@[simp] theorem exec_ine (s : State) : ∀ sy pd va vb e1, exec (.ine sy pd va vb e1) s = execIne sy pd va vb e1 s := by intros; rfl
@[simp] theorem exec_ilt (s : State) : ∀ sy pd va vb e1, exec (.ilt sy pd va vb e1) s = execIlt sy pd va vb e1 s := by intros; rfl
@[simp] theorem exec_ige (s : State) : ∀ sy pd va vb e1, exec (.ige sy pd va vb e1) s = execIge sy pd va vb e1 s := by intros; rfl
@[simp] theorem exec_iltu (s : State) : ∀ sy pd va vb e1, exec (.iltu sy pd va vb e1) s = execIltu sy pd va vb e1 s := by intros; rfl
@[simp] theorem exec_igeu (s : State) : ∀ sy pd va vb e1, exec (.igeu sy pd va vb e1) s = execIgeu sy pd va vb e1 s := by intros; rfl
@[simp] theorem exec_bfx (s : State) : ∀ sy vd va e1, exec (.bfx sy vd va e1) s = execBfx sy vd va e1 s := by intros; rfl
@[simp] theorem exec_bfxu (s : State) : ∀ sy vd va e1, exec (.bfxu sy vd va e1) s = execBfxu sy vd va e1 s := by intros; rfl
@[simp] theorem exec_bfi (s : State) : ∀ sy vd va e1, exec (.bfi sy vd va e1) s = execBfi sy vd va e1 s := by intros; rfl
@[simp] theorem exec_fshl (s : State) : ∀ sy vd va vb e1, exec (.fshl sy vd va vb e1) s = execFshl sy vd va vb e1 s := by intros; rfl
@[simp] theorem exec_fshr (s : State) : ∀ sy vd va vb e1, exec (.fshr sy vd va vb e1) s = execFshr sy vd va vb e1 s := by intros; rfl
@[simp] theorem exec_popcv (s : State) : ∀ sy vd va e1, exec (.popcv sy vd va e1) s = execPopcv sy vd va e1 s := by intros; rfl
@[simp] theorem exec_clzv (s : State) : ∀ sy vd va e1, exec (.clzv sy vd va e1) s = execClzv sy vd va e1 s := by intros; rfl
@[simp] theorem exec_brevv (s : State) : ∀ sy vd va e1, exec (.brevv sy vd va e1) s = execBrevv sy vd va e1 s := by intros; rfl
@[simp] theorem exec_cvt (s : State) : ∀ sy vd va e1, exec (.cvt sy vd va e1) s = execCvt sy vd va e1 s := by intros; rfl
@[simp] theorem exec_qnt (s : State) : ∀ sy vd va vb e1, exec (.qnt sy vd va vb e1) s = execQnt sy vd va vb e1 s := by intros; rfl
@[simp] theorem exec_dqnt (s : State) : ∀ sy vd va e1, exec (.dqnt sy vd va e1) s = execDqnt sy vd va e1 s := by intros; rfl
@[simp] theorem exec_qscale (s : State) : ∀ sy vd va e1, exec (.qscale sy vd va e1) s = execQscale sy vd va e1 s := by intros; rfl
@[simp] theorem exec_vmov (s : State) : ∀ sy vd va e1, exec (.vmov sy vd va e1) s = execVmov sy vd va e1 s := by intros; rfl
@[simp] theorem exec_vsel (s : State) : ∀ sy vd va vb e1, exec (.vsel sy vd va vb e1) s = execVsel sy vd va vb e1 s := by intros; rfl
@[simp] theorem exec_vbcst (s : State) : ∀ sy vd va vb e1, exec (.vbcst sy vd va vb e1) s = execVbcst sy vd va vb e1 s := by intros; rfl
@[simp] theorem exec_vidx (s : State) : ∀ sy vd e1, exec (.vidx sy vd e1) s = execVidx sy vd e1 s := by intros; rfl
@[simp] theorem exec_vperm (s : State) : ∀ sy vd va vb e1, exec (.vperm sy vd va vb e1) s = execVperm sy vd va vb e1 s := by intros; rfl
@[simp] theorem exec_vcmprs (s : State) : ∀ sy vd va e1, exec (.vcmprs sy vd va e1) s = execVcmprs sy vd va e1 s := by intros; rfl
@[simp] theorem exec_vexpnd (s : State) : ∀ sy vd va e1, exec (.vexpnd sy vd va e1) s = execVexpnd sy vd va e1 s := by intros; rfl
@[simp] theorem exec_vsldn (s : State) : ∀ sy vd va vb e1, exec (.vsldn sy vd va vb e1) s = execVsldn sy vd va vb e1 s := by intros; rfl
@[simp] theorem exec_vslup (s : State) : ∀ sy vd va vb e1, exec (.vslup sy vd va vb e1) s = execVslup sy vd va vb e1 s := by intros; rfl
@[simp] theorem exec_vradd (s : State) : ∀ sy vd va e1, exec (.vradd sy vd va e1) s = execVradd sy vd va e1 s := by intros; rfl
@[simp] theorem exec_vrfadd (s : State) : ∀ sy vd va e1, exec (.vrfadd sy vd va e1) s = execVrfadd sy vd va e1 s := by intros; rfl
@[simp] theorem exec_vrmin (s : State) : ∀ sy vd va e1, exec (.vrmin sy vd va e1) s = execVrmin sy vd va e1 s := by intros; rfl
@[simp] theorem exec_vrmax (s : State) : ∀ sy vd va e1, exec (.vrmax sy vd va e1) s = execVrmax sy vd va e1 s := by intros; rfl
@[simp] theorem exec_vrfmin (s : State) : ∀ sy vd va e1, exec (.vrfmin sy vd va e1) s = execVrfmin sy vd va e1 s := by intros; rfl
@[simp] theorem exec_vrfmax (s : State) : ∀ sy vd va e1, exec (.vrfmax sy vd va e1) s = execVrfmax sy vd va e1 s := by intros; rfl
@[simp] theorem exec_vscan (s : State) : ∀ sy vd va e1, exec (.vscan sy vd va e1) s = execVscan sy vd va e1 s := by intros; rfl
@[simp] theorem exec_vfscan (s : State) : ∀ sy vd va e1, exec (.vfscan sy vd va e1) s = execVfscan sy vd va e1 s := by intros; rfl
@[simp] theorem exec_vld (s : State) : ∀ sy vd vsa e1, exec (.vld sy vd vsa e1) s = execVld sy vd vsa e1 s := by intros; rfl
@[simp] theorem exec_vst (s : State) : ∀ sy vd vsa e1, exec (.vst sy vd vsa e1) s = execVst sy vd vsa e1 s := by intros; rfl
@[simp] theorem exec_vgth (s : State) : ∀ sy vd vsa vb e1, exec (.vgth sy vd vsa vb e1) s = execVgth sy vd vsa vb e1 s := by intros; rfl
@[simp] theorem exec_vsct (s : State) : ∀ sy vd vsa vb e1, exec (.vsct sy vd vsa vb e1) s = execVsct sy vd vsa vb e1 s := by intros; rfl
@[simp] theorem exec_vldl (s : State) : ∀ sy vd vb e1, exec (.vldl sy vd vb e1) s = execVldl sy vd vb e1 s := by intros; rfl
@[simp] theorem exec_vstl (s : State) : ∀ sy vd vb e1, exec (.vstl sy vd vb e1) s = execVstl sy vd vb e1 s := by intros; rfl
@[simp] theorem exec_mchb (s : State) : ∀ sy band nb cols, exec (.mchb sy band nb cols) s = execMchb sy band nb cols s := by intros; rfl
@[simp] theorem exec_mma (s : State) : ∀ sy va vb ta tb neg, exec (.mma sy va vb ta tb neg) s = execMma sy va vb ta tb neg s := by intros; rfl
@[simp] theorem exec_mmag (s : State) : ∀ sy vi vb vc, exec (.mmag sy vi vb vc) s = execMmag sy vi vb vc s := by intros; rfl
@[simp] theorem exec_mtrn (s : State) : ∀ sy va, exec (.mtrn sy va) s = execMtrn sy va s := by intros; rfl
@[simp] theorem exec_mperm (s : State) : ∀ sy va vb, exec (.mperm sy va vb) s = execMperm sy va vb s := by intros; rfl
@[simp] theorem exec_mrsum (s : State) : ∀ sy va, exec (.mrsum sy va) s = execMrsum sy va s := by intros; rfl
@[simp] theorem exec_mcsum (s : State) : ∀ sy va, exec (.mcsum sy va) s = execMcsum sy va s := by intros; rfl
@[simp] theorem exec_mdrn (s : State) : ∀ sy vd band nb clear, exec (.mdrn sy vd band nb clear) s = execMdrn sy vd band nb clear s := by intros; rfl
@[simp] theorem exec_mzro (s : State) : ∀ sy band nb, exec (.mzro sy band nb) s = execMzro sy band nb s := by intros; rfl
@[simp] theorem exec_mlda (s : State) : ∀ sy va band nb, exec (.mlda sy va band nb) s = execMlda sy va band nb s := by intros; rfl
@[simp] theorem exec_xpq (s : State) : ∀ sy od, exec (.xpq sy od) s = execXpq sy od s := by intros; rfl
@[simp] theorem exec_xshp (s : State) : ∀ sy sh, exec (.xshp sy sh) s = execXshp sy sh s := by intros; rfl
@[simp] theorem exec_xcpy (s : State) : ∀ sy hd od hs os b sh red cls hint cmp zero, exec (.xcpy sy hd od hs os b sh red cls hint cmp zero) s = execXcpy sy hd od hs os b sh red cls hint cmp zero s := by intros; rfl
@[simp] theorem exec_xgth (s : State) : ∀ sy hd od hs os b hi sh cls hint, exec (.xgth sy hd od hs os b hi sh cls hint) s = execXgth sy hd od hs os b hi sh cls hint s := by intros; rfl
@[simp] theorem exec_xsltIn (s : State) : ∀ sy hs os sl b cls hint, exec (.xsltIn sy hs os sl b cls hint) s = execXsltIn sy hs os sl b cls hint s := by intros; rfl
@[simp] theorem exec_xsltOut (s : State) : ∀ sy hd od sl b cls hint, exec (.xsltOut sy hd od sl b cls hint) s = execXsltOut sy hd od sl b cls hint s := by intros; rfl
@[simp] theorem exec_xfil (s : State) : ∀ sy hd od b sh fill cls hint, exec (.xfil sy hd od b sh fill cls hint) s = execXfil sy hd od b sh fill cls hint s := by intros; rfl
@[simp] theorem exec_xado (s : State) : ∀ sy od imm, exec (.xado sy od imm) s = execXado sy od imm s := by intros; rfl
@[simp] theorem exec_xadoLen1 (s : State) : ∀ sy od imm, exec (.xadoLen1 sy od imm) s = execXadoLen1 sy od imm s := by intros; rfl
@[simp] theorem exec_asyncTrapTaken (s : State) : ∀ k, exec (.asyncTrapTaken k) s = execAsyncTrapTaken k s := by intros; rfl
@[simp] theorem exec_vnop (s : State) : ∀ sy, exec (.vnop sy) s = execVnop sy s := by intros; rfl
@[simp] theorem exec_mnop (s : State) : ∀ sy, exec (.mnop sy) s = execMnop sy s := by intros; rfl
@[simp] theorem exec_xnop (s : State) : ∀ sy, exec (.xnop sy) s = execXnop sy s := by intros; rfl
@[simp] theorem exec_mend (s : State) : ∀ sy, exec (.mend sy) s = execMend sy s := by intros; rfl
@[simp] theorem exec_xend (s : State) : ∀ sy, exec (.xend sy) s = execXend sy s := by intros; rfl
@[simp] theorem exec_mche (s : State) : ∀ sy, exec (.mche sy) s = execMche sy s := by intros; rfl
@[simp] theorem exec_xwait (s : State) : ∀ sy, exec (.xwait sy) s = execXwait sy s := by intros; rfl
@[simp] theorem exec_copyDone (s : State) : ∀ k cs n, exec (.copyDone k cs n) s = execCopyDone k cs n s := by intros; rfl
@[simp] theorem exec_copyFault (s : State) : ∀ k cs n why, exec (.copyFault k cs n why) s = execCopyFault k cs n why s := by intros; rfl
@[simp] theorem exec_drainVerdict (s : State) : ∀ k, exec (.drainVerdict k) s = execDrainVerdict k s := by intros; rfl
@[simp] theorem exec_nougatArbitration (s : State) : ∀ k, exec (.nougatArbitration k) s = execNougatArbitration k s := by intros; rfl
@[simp] theorem exec_nougatSelfTest (s : State) : ∀ cl pass, exec (.nougatSelfTest cl pass) s = execNougatSelfTest cl pass s := by intros; rfl
@[simp] theorem exec_writeCompleteAtHome (s : State) : ∀ line, exec (.writeCompleteAtHome line) s = execWriteCompleteAtHome line s := by intros; rfl
@[simp] theorem exec_flushMarkerAnswer (s : State) : ∀ n, exec (.flushMarkerAnswer n) s = execFlushMarkerAnswer n s := by intros; rfl
@[simp] theorem exec_faultQueueReplay (s : State) : ∀ die slice, exec (.faultQueueReplay die slice) s = execFaultQueueReplay die slice s := by intros; rfl
@[simp] theorem exec_faultQueueWatchdog (s : State) : ∀ die slice, exec (.faultQueueWatchdog die slice) s = execFaultQueueWatchdog die slice s := by intros; rfl
@[simp] theorem exec_sliceRetire (s : State) : ∀ die slice target, exec (.sliceRetire die slice target) s = execSliceRetire die slice target s := by intros; rfl
@[simp] theorem exec_reductionPacketArrival (s : State) : ∀ pkt, exec (.reductionPacketArrival pkt) s = execReductionPacketArrival pkt s := by intros; rfl
@[simp] theorem exec_foldContribution (s : State) : ∀ die, exec (.foldContribution die) s = execFoldContribution die s := by intros; rfl
@[simp] theorem exec_foldResult (s : State) : ∀ k, exec (.foldResult k) s = execFoldResult k s := by intros; rfl
@[simp] theorem exec_departure (s : State) : ∀ grp member, exec (.departure grp member) s = execDeparture grp member s := by intros; rfl
@[simp] theorem exec_groupTimeout (s : State) : ∀ k, exec (.groupTimeout k) s = execGroupTimeout k s := by intros; rfl
@[simp] theorem exec_collectivePacketArrival (s : State) : ∀ k hash, exec (.collectivePacketArrival k hash) s = execCollectivePacketArrival k hash s := by intros; rfl
@[simp] theorem exec_xcollExchangeDone (s : State) : ∀ grp seq, exec (.xcollExchangeDone grp seq) s = execXcollExchangeDone grp seq s := by intros; rfl
@[simp] theorem exec_evLaunch (s : State) : ∀ src pkt, exec (.evLaunch src pkt) s = execEvLaunch src pkt s := by intros; rfl
@[simp] theorem exec_evSignal (s : State) : ∀ src pkt, exec (.evSignal src pkt) s = execEvSignal src pkt s := by intros; rfl
@[simp] theorem exec_nopPacket (s : State) : ∀ src pkt, exec (.nopPacket src pkt) s = execNopPacket src pkt s := by intros; rfl
@[simp] theorem exec_cfgSet (s : State) : ∀ src pkt, exec (.cfgSet src pkt) s = execCfgSet src pkt s := by intros; rfl
@[simp] theorem exec_cfgMask (s : State) : ∀ src pkt, exec (.cfgMask src pkt) s = execCfgMask src pkt s := by intros; rfl
@[simp] theorem exec_cfgDestroy (s : State) : ∀ src pkt, exec (.cfgDestroy src pkt) s = execCfgDestroy src pkt s := by intros; rfl
@[simp] theorem exec_cfgReset (s : State) : ∀ src pkt, exec (.cfgReset src pkt) s = execCfgReset src pkt s := by intros; rfl
@[simp] theorem exec_cfgShootdown (s : State) : ∀ src pkt, exec (.cfgShootdown src pkt) s = execCfgShootdown src pkt s := by intros; rfl
@[simp] theorem exec_cfgCap (s : State) : ∀ src pkt, exec (.cfgCap src pkt) s = execCfgCap src pkt s := by intros; rfl
@[simp] theorem exec_ringEn (s : State) : ∀ r on, exec (.ringEn r on) s = execRingEn r on s := by intros; rfl
@[simp] theorem exec_ringbell (s : State) : ∀ r, exec (.ringbell r) s = execRingbell r s := by intros; rfl
@[simp] theorem exec_ringerr (s : State) : ∀ r val, exec (.ringerr r val) s = execRingerr r val s := by intros; rfl
@[simp] theorem exec_nodesig (s : State) : ∀ r node, exec (.nodesig r node) s = execNodesig r node s := by intros; rfl
@[simp] theorem exec_hostbell (s : State) : ∀ r node, exec (.hostbell r node) s = execHostbell r node s := by intros; rfl
@[simp] theorem exec_postn (s : State) : ∀ fn db n relaxed, exec (.postn fn db n relaxed) s = execPostn fn db n relaxed s := by intros; rfl
@[simp] theorem exec_registerWrite (s : State) : ∀ fn off val, exec (.registerWrite fn off val) s = execRegisterWrite fn off val s := by intros; rfl
@[simp] theorem exec_peerWrite (s : State) : ∀ fn bar off bytes relaxed, exec (.peerWrite fn bar off bytes relaxed) s = execPeerWrite fn bar off bytes relaxed s := by intros; rfl
@[simp] theorem exec_hostRead (s : State) : ∀ fn bar off len, exec (.hostRead fn bar off len) s = execHostRead fn bar off len s := by intros; rfl
@[simp] theorem exec_functionLevelReset (s : State) : ∀ p, exec (.functionLevelReset p) s = execFunctionLevelReset p s := by intros; rfl
@[simp] theorem exec_nodeCompletion (s : State) : ∀ p node, exec (.nodeCompletion p node) s = execNodeCompletion p node s := by intros; rfl
@[simp] theorem exec_teamPlacement (s : State) : ∀ choice, exec (.teamPlacement choice) s = execTeamPlacement choice s := by intros; rfl
@[simp] theorem exec_aging (s : State) : ∀ p node team, exec (.aging p node team) s = execAging p node team s := by intros; rfl
@[simp] theorem exec_timeSliceExpiry (s : State) : ∀ p node team, exec (.timeSliceExpiry p node team) s = execTimeSliceExpiry p node team s := by intros; rfl
@[simp] theorem exec_evSave (s : State) : ∀ p node team, exec (.evSave p node team) s = execEvSave p node team s := by intros; rfl
@[simp] theorem exec_leaseRenewal (s : State) : exec .leaseRenewal s = execLeaseRenewal s := rfl
@[simp] theorem exec_leaseLapse (s : State) : exec .leaseLapse s = execLeaseLapse s := rfl
@[simp] theorem exec_pralineEvaluation (s : State) : ∀ p, exec (.pralineEvaluation p) s = execPralineEvaluation p s := by intros; rfl
@[simp] theorem exec_lockWindowExpiry (s : State) : ∀ cl, exec (.lockWindowExpiry cl) s = execLockWindowExpiry cl s := by intros; rfl
@[simp] theorem exec_lockRestEnd (s : State) : ∀ cl, exec (.lockRestEnd cl) s = execLockRestEnd cl s := by intros; rfl
@[simp] theorem exec_bucketRefill (s : State) : ∀ die, exec (.bucketRefill die) s = execBucketRefill die s := by intros; rfl
@[simp] theorem exec_flitReceive (s : State) : ∀ l ordered sent wire, exec (.flitReceive l ordered sent wire) s = execFlitReceive l ordered sent wire s := by intros; rfl
@[simp] theorem exec_repeatRequest (s : State) : ∀ l seq, exec (.repeatRequest l seq) s = execRepeatRequest l seq s := by intros; rfl
@[simp] theorem exec_linkRetrain (s : State) : ∀ l bad trains, exec (.linkRetrain l bad trains) s = execLinkRetrain l bad trains s := by intros; rfl
@[simp] theorem exec_scaleoutPacketReceive (s : State) : ∀ peer seq msg, exec (.scaleoutPacketReceive peer seq msg) s = execScaleoutPacketReceive peer seq msg s := by intros; rfl
@[simp] theorem exec_scaleoutResend (s : State) : ∀ peer seq, exec (.scaleoutResend peer seq) s = execScaleoutResend peer seq s := by intros; rfl
@[simp] theorem exec_thermalSample (s : State) : ∀ die sensor temp, exec (.thermalSample die sensor temp) s = execThermalSample die sensor temp s := by intros; rfl
@[simp] theorem exec_numericSensorRead (s : State) : ∀ die sensor, exec (.numericSensorRead die sensor) s = execNumericSensorRead die sensor s := by intros; rfl
@[simp] theorem exec_numericEffecterSet (s : State) : ∀ watts, exec (.numericEffecterSet watts) s = execNumericEffecterSet watts s := by intros; rfl
@[simp] theorem exec_logMirror (s : State) : exec .logMirror s = execLogMirror s := rfl
@[simp] theorem exec_logReadClear (s : State) : exec .logReadClear s = execLogReadClear s := rfl
@[simp] theorem exec_requestUpdate (s : State) : exec .requestUpdate s = execRequestUpdate s := rfl
@[simp] theorem exec_passComponentTable (s : State) : exec .passComponentTable s = execPassComponentTable s := rfl
@[simp] theorem exec_updateComponent (s : State) : ∀ comp, exec (.updateComponent comp) s = execUpdateComponent comp s := by intros; rfl
@[simp] theorem exec_firmwareTransfer (s : State) : ∀ comp version sigOk, exec (.firmwareTransfer comp version sigOk) s = execFirmwareTransfer comp version sigOk s := by intros; rfl
@[simp] theorem exec_activateFirmware (s : State) : ∀ comp, exec (.activateFirmware comp) s = execActivateFirmware comp s := by intros; rfl
@[simp] theorem exec_heartbeat (s : State) : ∀ arrived, exec (.heartbeat arrived) s = execHeartbeat arrived s := by intros; rfl
@[simp] theorem exec_vemundFailover (s : State) : exec .vemundFailover s = execVemundFailover s := rfl
@[simp] theorem exec_moduleReset (s : State) : exec .moduleReset s = execModuleReset s := rfl
@[simp] theorem exec_freeze (s : State) : exec .freeze s = execFreeze s := rfl
@[simp] theorem exec_tapAccess (s : State) : ∀ what, exec (.tapAccess what) s = execTapAccess what s := by intros; rfl
@[simp] theorem exec_keyInstall (s : State) : ∀ key val, exec (.keyInstall key val) s = execKeyInstall key val s := by intros; rfl
@[simp] theorem exec_keyRevoke (s : State) : ∀ key, exec (.keyRevoke key) s = execKeyRevoke key s := by intros; rfl
@[simp] theorem exec_presentationModeSet (s : State) : ∀ mode, exec (.presentationModeSet mode) s = execPresentationModeSet mode s := by intros; rfl
@[simp] theorem exec_packageIdSet (s : State) : ∀ id, exec (.packageIdSet id) s = execPackageIdSet id s := by intros; rfl
@[simp] theorem exec_routeTableLoad (s : State) : ∀ tbl, exec (.routeTableLoad tbl) s = execRouteTableLoad tbl s := by intros; rfl
@[simp] theorem exec_configurationRequest (s : State) : ∀ fn reg, exec (.configurationRequest fn reg) s = execConfigurationRequest fn reg s := by intros; rfl

end Sys2Proof.Machine
end

