-- ==== Sys2Proof/Laws/Memory.lean ====
section
/-!
SUPPORT. Tables and memory: a read after a write, and the canonical form that every operation keeps.
-/

namespace Sys2Proof.Machine

variable {α : Type} [DecidableEq α] {d : α}

/-! ## Tables -/

theorem Table.okFrom_mono {t : Table α} : ∀ {lo hi : Nat}, lo ≤ hi → Table.okFrom d hi t = true → Table.okFrom d lo t = true := by
  intro lo hi h
  cases t with
  | nil => simp [Table.okFrom]
  | cons e t =>
    simp only [Table.okFrom, Bool.and_eq_true, decide_eq_true_eq]
    exact fun ⟨⟨ha, hv⟩, ht⟩ => ⟨⟨by omega, hv⟩, ht⟩

/-- Below the bound, a table lists nothing. -/
theorem Table.get_below {t : Table α} : ∀ {lo k : Nat}, Table.okFrom d lo t = true → k < lo → Table.get d t k = d := by
  intro lo k h hk
  cases t with
  | nil => rfl
  | cons e t =>
    simp only [Table.okFrom, Bool.and_eq_true, decide_eq_true_eq] at h
    simp only [Table.get]
    rw [if_neg (by omega), if_pos (by omega)]

theorem Table.set_okFrom {t : Table α} : ∀ {lo k : Nat} {v : α}, lo ≤ k → Table.okFrom d lo t = true →
    Table.okFrom d lo (Table.set d t k v) = true := by
  induction t with
  | nil => intro lo k v hk _; by_cases hv : v = d <;> simp [Table.set, hv, Table.okFrom, hk]
  | cons e t ih =>
    intro lo k v hk h
    obtain ⟨a, w⟩ := e
    simp only [Table.okFrom, Bool.and_eq_true, decide_eq_true_eq] at h
    obtain ⟨⟨ha, hw⟩, ht⟩ := h
    unfold Table.set
    by_cases hak : a = k
    · subst hak
      by_cases hv : v = d
      · simpa [hv] using Table.okFrom_mono (by omega) ht
      · simp [hv, Table.okFrom, ha, ht]
    · by_cases hlt : k < a
      · by_cases hv : v = d
        · simp [hak, hlt, hv, Table.okFrom, ha, hw, ht]
        · simp only [hak, hlt, hv, if_true, if_false, Table.okFrom, Bool.and_eq_true, decide_eq_true_eq]
          exact ⟨⟨hk, hv⟩, ⟨by omega, hw⟩, ht⟩
      · simp only [hak, hlt, if_false, Table.okFrom, Bool.and_eq_true, decide_eq_true_eq]
        exact ⟨⟨ha, hw⟩, ih (by omega) ht⟩

/-- A read after a write to the same key. -/
theorem Table.get_set_same {t : Table α} : ∀ {lo : Nat} (k : Nat) (v : α), Table.okFrom d lo t = true →
    Table.get d (Table.set d t k v) k = v := by
  induction t with
  | nil => intro lo k v _; by_cases hv : v = d <;> simp [Table.set, hv, Table.get]
  | cons e t ih =>
    intro lo k v h
    obtain ⟨a, w⟩ := e
    simp only [Table.okFrom, Bool.and_eq_true, decide_eq_true_eq] at h
    unfold Table.set
    by_cases hak : a = k
    · subst hak
      by_cases hv : v = d
      · subst hv; simpa using Table.get_below h.2 (by omega)
      · simp [hv, Table.get]
    · by_cases hlt : k < a
      · by_cases hv : v = d
        · simp [hak, hlt, hv, Table.get]
        · simp [hak, hlt, hv, Table.get]
      · simp only [hak, hlt, if_false, Table.get]
        exact ih k v h.2

/-- A write leaves every other key alone. -/
theorem Table.get_set_other {t : Table α} : ∀ {lo : Nat} (k j : Nat) (v : α), Table.okFrom d lo t = true → j ≠ k →
    Table.get d (Table.set d t k v) j = Table.get d t j := by
  induction t with
  | nil =>
    intro lo k j v _ hj
    by_cases hv : v = d <;> simp [Table.set, hv, Table.get, Ne.symm hj]
  | cons e t ih =>
    intro lo k j v h hj
    obtain ⟨a, w⟩ := e
    simp only [Table.okFrom, Bool.and_eq_true, decide_eq_true_eq] at h
    unfold Table.set
    by_cases hak : a = k
    · subst hak
      by_cases hv : v = d
      · subst hv
        simp only [if_true, Table.get, Ne.symm hj, if_false]
        by_cases hja : j < a
        · rw [if_pos hja]; exact Table.get_below h.2 (by omega)
        · rw [if_neg hja]
      · simp [hv, Table.get, Ne.symm hj]
    · by_cases hlt : k < a
      · by_cases hv : v = d
        · simp [hak, hlt, hv]
        · simp only [hak, hlt, hv, if_true, if_false, Table.get, Ne.symm hj]
          by_cases hjk : j < k
          · rw [if_pos hjk, if_neg (by omega), if_pos (by omega)]
          · rw [if_neg hjk]
      · simp only [hak, hlt, if_false, Table.get]
        by_cases haj : a = j
        · simp [haj]
        · simp only [haj, if_false]
          by_cases hja : j < a
          · simp [hja]
          · simp only [hja, if_false]; exact ih k j v h.2 hj

/-- Removing entries keeps the canonical form. -/
theorem Table.filter_okFrom (p : Nat × α → Bool) {t : Table α} : ∀ {lo : Nat}, Table.okFrom d lo t = true →
    Table.okFrom d lo (t.filter p) = true := by
  induction t with
  | nil => intro lo _; rfl
  | cons e t ih =>
    intro lo h
    obtain ⟨a, w⟩ := e
    simp only [Table.okFrom, Bool.and_eq_true, decide_eq_true_eq] at h
    by_cases hp : p (a, w) = true
    · simp only [List.filter_cons, hp, if_true, Table.okFrom, Bool.and_eq_true, decide_eq_true_eq]
      exact ⟨h.1, ih h.2⟩
    · simp only [List.filter_cons, hp, Bool.false_eq_true, if_false]
      exact Table.okFrom_mono (by omega) (ih h.2)

/-! ## Memory -/

theorem Memory.wf_nil : Memory.wf ([] : Memory) = true := rfl

/-- Writing a byte keeps the canonical form. -/
@[simp] theorem Memory.wf_set {m : Memory} (a : Nat) (b : Byte) (h : m.wf = true) : (m.set a b).wf = true :=
  Table.set_okFrom (Nat.zero_le a) h

/-- Writing bytes keeps the canonical form. -/
@[simp] theorem Memory.wf_setBytes (bs : List Byte) : ∀ {m : Memory} (a : Nat), m.wf = true → (m.setBytes a bs).wf = true := by
  induction bs with
  | nil => intro m a h; exact h
  | cons b bs ih => intro m a h; exact ih (a + 1) (Memory.wf_set a b h)

/-- Writing a value keeps the canonical form. -/
@[simp] theorem Memory.wf_setLe {m : Memory} (a n v : Nat) (h : m.wf = true) : (m.setLe a n v).wf = true :=
  Memory.wf_setBytes _ a h

/-- Writing a barrier descriptor keeps the canonical form. -/
@[simp] theorem Memory.wf_setBarrier {m : Memory} (pa : Nat) (q : Barrier) (h : m.wf = true) : (m.setBarrier pa q).wf = true := by
  exact Memory.wf_setLe _ _ _ (Memory.wf_setLe _ _ _ (Memory.wf_setLe _ _ _ (Memory.wf_setLe _ _ _ (Memory.wf_setLe _ _ _ h))))

/-- Zeroing a range keeps the canonical form. -/
@[simp] theorem Memory.wf_clear {m : Memory} (a n : Nat) (h : m.wf = true) : (m.clear a n).wf = true :=
  Table.filter_okFrom _ h

/-- A fold of operations that keep the canonical form keeps it. -/
theorem Memory.wf_foldl {β : Type} (f : Memory → β → Memory) (hf : ∀ m b, m.wf = true → (f m b).wf = true) (l : List β) :
    ∀ {m : Memory}, m.wf = true → (l.foldl f m).wf = true := by
  induction l with
  | nil => intro m h; exact h
  | cons b l ih => intro m h; exact ih (hf m b h)

/-- Merging an element of a reduction sector keeps the canonical form. -/
@[simp] theorem RedSector.wf_mergeAt (r : RedSector) {m : Memory} (e : Nat) (h : m.wf = true) : (r.mergeAt m e).wf = true := by
  unfold RedSector.mergeAt
  by_cases hl : ((r.terms.filter (·.1 = r.sector * 128 + e * (if r.dbl then 8 else 4))).map fun t => leValue t.2).isEmpty = true
  · simp only [hl, if_true]; exact h
  · simp only [hl]; exact Memory.wf_setLe _ _ _ h

/-- A byte read after it was written. -/
@[simp] theorem Memory.get_set_same {m : Memory} (a : Nat) (b : Byte) (h : m.wf = true) : (m.set a b).get a = b :=
  Table.get_set_same a b h

/-- A byte written leaves every other byte alone. -/
theorem Memory.get_set_other {m : Memory} (a c : Nat) (b : Byte) (h : m.wf = true) (hc : c ≠ a) : (m.set a b).get c = m.get c :=
  Table.get_set_other a c b h hc

/-- Bytes written leave every byte outside their range alone. -/
theorem Memory.get_setBytes_other (bs : List Byte) : ∀ {m : Memory} (a c : Nat), m.wf = true → (c < a ∨ a + bs.length ≤ c) →
    (m.setBytes a bs).get c = m.get c := by
  induction bs with
  | nil => intro m a c _ _; rfl
  | cons b bs ih =>
    intro m a c h hc
    simp only [List.length_cons] at hc
    simp only [Memory.setBytes]
    rw [ih (a + 1) c (Memory.wf_set a b h) (by omega), Memory.get_set_other a c b h (by omega)]

/-- A byte read inside a range that was written. -/
theorem Memory.get_setBytes_inside (bs : List Byte) : ∀ {m : Memory} (a i : Nat), m.wf = true → (hi : i < bs.length) →
    (m.setBytes a bs).get (a + i) = bs[i] := by
  induction bs with
  | nil => intro m a i _ hi; exact absurd hi (by simp)
  | cons b bs ih =>
    intro m a i h hi
    simp only [Memory.setBytes]
    cases i with
    | zero =>
      rw [Memory.get_setBytes_other bs (a + 1) (a + 0) (Memory.wf_set a b h) (by omega)]
      simpa using Memory.get_set_same a b h
    | succ i =>
      have := ih (m := m.set a b) (a + 1) i (Memory.wf_set a b h) (by simpa using hi)
      simpa [Nat.add_assoc, Nat.add_comm 1 i] using this

/-- Bytes read back from the range that they were written to. -/
theorem Memory.getBytes_setBytes (bs : List Byte) {m : Memory} (a : Nat) (h : m.wf = true) :
    (m.setBytes a bs).getBytes a bs.length = bs := by
  have key : ∀ (n a : Nat) (q : Memory) (l : List Byte), l.length = n → (∀ i (hi : i < l.length), q.get (a + i) = l[i]) →
      q.getBytes a n = l := by
    intro n
    induction n with
    | zero => intro a q l hl _; simp [Memory.getBytes, List.length_eq_zero_iff.mp hl]
    | succ n ih =>
      intro a q l hl hq
      obtain ⟨x, l, rfl⟩ := List.exists_cons_of_length_eq_add_one hl
      have h0 := hq 0 (by simp)
      simp only [Nat.add_zero, List.getElem_cons_zero] at h0
      simp only [Memory.getBytes, h0]
      rw [ih (a + 1) q l (by simpa using hl) (fun i hi => by
        have := hq (i + 1) (by simpa using hi)
        simpa [Nat.add_assoc, Nat.add_comm 1 i] using this)]
  exact key _ a _ bs rfl fun i hi => Memory.get_setBytes_inside bs a i h hi

/-- Bytes read from a range that does not meet the range written. -/
theorem Memory.getBytes_setBytes_other (bs : List Byte) : ∀ {m : Memory} (a c n : Nat), m.wf = true →
    (c + n ≤ a ∨ a + bs.length ≤ c) → (m.setBytes a bs).getBytes c n = m.getBytes c n := by
  intro m a c n
  induction n generalizing c with
  | zero => intro _ _; rfl
  | succ n ih =>
    intro h hc
    simp only [Memory.getBytes]
    rw [Memory.get_setBytes_other bs a c h (by omega), ih (c + 1) h (by omega)]

@[simp] theorem leBytes_length (n : Nat) : ∀ v, (leBytes n v).length = n := by
  induction n with
  | zero => intro v; rfl
  | succ n ih => intro v; simp [leBytes, ih]

@[simp] theorem Memory.getBytes_length (m : Memory) (n : Nat) : ∀ a, (m.getBytes a n).length = n := by
  induction n with
  | zero => intro a; rfl
  | succ n ih => intro a; simp [Memory.getBytes, ih]

/-- The value of the bytes of a value. -/
@[simp] theorem leValue_leBytes (n : Nat) : ∀ v, leValue (leBytes n v) = v % 2 ^ (8 * n) := by
  induction n with
  | zero => intro v; simp [leBytes, leValue, Nat.mod_one]
  | succ n ih =>
    intro v
    simp only [leBytes, leValue, ih, BitVec.toNat_ofNat]
    rw [show 8 * (n + 1) = 8 + 8 * n by ring, pow_add, Nat.mod_mul]
    norm_num

end Sys2Proof.Machine
end

