-- ==== Sys2Proof/Laws/State.lean ====
section
/-!
SUPPORT. One lemma for each field of State under each of the named updates, true by definition, so that no proof unfolds a
record update.
-/

namespace Sys2Proof.Machine

/-! ## mapCtx -/

@[simp] theorem State.mapCtx_ctx (s : State) (f : Ctx → Ctx) : (s.mapCtx f).ctx = f s.ctx := rfl
@[simp] theorem State.mapCtx_stream (s : State) (f : Ctx → Ctx) : (s.mapCtx f).stream = s.stream := rfl
@[simp] theorem State.mapCtx_others (s : State) (f : Ctx → Ctx) : (s.mapCtx f).others = s.others := rfl
@[simp] theorem State.mapCtx_cores (s : State) (f : Ctx → Ctx) : (s.mapCtx f).cores = s.cores := rfl
@[simp] theorem State.mapCtx_mem (s : State) (f : Ctx → Ctx) : (s.mapCtx f).mem = s.mem := rfl
@[simp] theorem State.mapCtx_ms (s : State) (f : Ctx → Ctx) : (s.mapCtx f).ms = s.ms := rfl
@[simp] theorem State.mapCtx_parts (s : State) (f : Ctx → Ctx) : (s.mapCtx f).parts = s.parts := rfl
@[simp] theorem State.mapCtx_rings (s : State) (f : Ctx → Ctx) : (s.mapCtx f).rings = s.rings := rfl
@[simp] theorem State.mapCtx_nodes (s : State) (f : Ctx → Ctx) : (s.mapCtx f).nodes = s.nodes := rfl
@[simp] theorem State.mapCtx_groups (s : State) (f : Ctx → Ctx) : (s.mapCtx f).groups = s.groups := rfl
@[simp] theorem State.mapCtx_pw (s : State) (f : Ctx → Ctx) : (s.mapCtx f).pw = s.pw := rfl
@[simp] theorem State.mapCtx_net (s : State) (f : Ctx → Ctx) : (s.mapCtx f).net = s.net := rfl
@[simp] theorem State.mapCtx_mg (s : State) (f : Ctx → Ctx) : (s.mapCtx f).mg = s.mg := rfl
@[simp] theorem State.mapCtx_nstime (s : State) (f : Ctx → Ctx) : (s.mapCtx f).nstime = s.nstime := rfl
@[simp] theorem State.mapCtx_fresh (s : State) (f : Ctx → Ctx) : (s.mapCtx f).fresh = s.fresh := rfl
@[simp] theorem State.mapCtx_serial (s : State) (f : Ctx → Ctx) : (s.mapCtx f).serial = s.serial := rfl
@[simp] theorem State.mapCtx_agenda (s : State) (f : Ctx → Ctx) : (s.mapCtx f).agenda = s.agenda := rfl
@[simp] theorem State.mapCtx_turn (s : State) (f : Ctx → Ctx) : (s.mapCtx f).turn = s.turn := rfl

/-! ## mapC -/

@[simp] theorem State.mapC_ctx (s : State) (f : CRegs → CRegs) : (s.mapC f).ctx = { s.ctx with c := f s.ctx.c } := rfl
@[simp] theorem State.mapC_stream (s : State) (f : CRegs → CRegs) : (s.mapC f).stream = s.stream := rfl
@[simp] theorem State.mapC_others (s : State) (f : CRegs → CRegs) : (s.mapC f).others = s.others := rfl
@[simp] theorem State.mapC_cores (s : State) (f : CRegs → CRegs) : (s.mapC f).cores = s.cores := rfl
@[simp] theorem State.mapC_mem (s : State) (f : CRegs → CRegs) : (s.mapC f).mem = s.mem := rfl
@[simp] theorem State.mapC_ms (s : State) (f : CRegs → CRegs) : (s.mapC f).ms = s.ms := rfl
@[simp] theorem State.mapC_parts (s : State) (f : CRegs → CRegs) : (s.mapC f).parts = s.parts := rfl
@[simp] theorem State.mapC_rings (s : State) (f : CRegs → CRegs) : (s.mapC f).rings = s.rings := rfl
@[simp] theorem State.mapC_nodes (s : State) (f : CRegs → CRegs) : (s.mapC f).nodes = s.nodes := rfl
@[simp] theorem State.mapC_groups (s : State) (f : CRegs → CRegs) : (s.mapC f).groups = s.groups := rfl
@[simp] theorem State.mapC_pw (s : State) (f : CRegs → CRegs) : (s.mapC f).pw = s.pw := rfl
@[simp] theorem State.mapC_net (s : State) (f : CRegs → CRegs) : (s.mapC f).net = s.net := rfl
@[simp] theorem State.mapC_mg (s : State) (f : CRegs → CRegs) : (s.mapC f).mg = s.mg := rfl
@[simp] theorem State.mapC_nstime (s : State) (f : CRegs → CRegs) : (s.mapC f).nstime = s.nstime := rfl
@[simp] theorem State.mapC_fresh (s : State) (f : CRegs → CRegs) : (s.mapC f).fresh = s.fresh := rfl
@[simp] theorem State.mapC_serial (s : State) (f : CRegs → CRegs) : (s.mapC f).serial = s.serial := rfl
@[simp] theorem State.mapC_agenda (s : State) (f : CRegs → CRegs) : (s.mapC f).agenda = s.agenda := rfl
@[simp] theorem State.mapC_turn (s : State) (f : CRegs → CRegs) : (s.mapC f).turn = s.turn := rfl

/-! ## mapSys -/

@[simp] theorem State.mapSys_ctx (s : State) (f : SysRegs → SysRegs) : (s.mapSys f).ctx = { s.ctx with sys := f s.ctx.sys } := rfl
@[simp] theorem State.mapSys_stream (s : State) (f : SysRegs → SysRegs) : (s.mapSys f).stream = s.stream := rfl
@[simp] theorem State.mapSys_others (s : State) (f : SysRegs → SysRegs) : (s.mapSys f).others = s.others := rfl
@[simp] theorem State.mapSys_cores (s : State) (f : SysRegs → SysRegs) : (s.mapSys f).cores = s.cores := rfl
@[simp] theorem State.mapSys_mem (s : State) (f : SysRegs → SysRegs) : (s.mapSys f).mem = s.mem := rfl
@[simp] theorem State.mapSys_ms (s : State) (f : SysRegs → SysRegs) : (s.mapSys f).ms = s.ms := rfl
@[simp] theorem State.mapSys_parts (s : State) (f : SysRegs → SysRegs) : (s.mapSys f).parts = s.parts := rfl
@[simp] theorem State.mapSys_rings (s : State) (f : SysRegs → SysRegs) : (s.mapSys f).rings = s.rings := rfl
@[simp] theorem State.mapSys_nodes (s : State) (f : SysRegs → SysRegs) : (s.mapSys f).nodes = s.nodes := rfl
@[simp] theorem State.mapSys_groups (s : State) (f : SysRegs → SysRegs) : (s.mapSys f).groups = s.groups := rfl
@[simp] theorem State.mapSys_pw (s : State) (f : SysRegs → SysRegs) : (s.mapSys f).pw = s.pw := rfl
@[simp] theorem State.mapSys_net (s : State) (f : SysRegs → SysRegs) : (s.mapSys f).net = s.net := rfl
@[simp] theorem State.mapSys_mg (s : State) (f : SysRegs → SysRegs) : (s.mapSys f).mg = s.mg := rfl
@[simp] theorem State.mapSys_nstime (s : State) (f : SysRegs → SysRegs) : (s.mapSys f).nstime = s.nstime := rfl
@[simp] theorem State.mapSys_fresh (s : State) (f : SysRegs → SysRegs) : (s.mapSys f).fresh = s.fresh := rfl
@[simp] theorem State.mapSys_serial (s : State) (f : SysRegs → SysRegs) : (s.mapSys f).serial = s.serial := rfl
@[simp] theorem State.mapSys_agenda (s : State) (f : SysRegs → SysRegs) : (s.mapSys f).agenda = s.agenda := rfl
@[simp] theorem State.mapSys_turn (s : State) (f : SysRegs → SysRegs) : (s.mapSys f).turn = s.turn := rfl

/-! ## mapVx -/

@[simp] theorem State.mapVx_ctx (s : State) (f : VRegs → VRegs) : (s.mapVx f).ctx = { s.ctx with vx := f s.ctx.vx } := rfl
@[simp] theorem State.mapVx_stream (s : State) (f : VRegs → VRegs) : (s.mapVx f).stream = s.stream := rfl
@[simp] theorem State.mapVx_others (s : State) (f : VRegs → VRegs) : (s.mapVx f).others = s.others := rfl
@[simp] theorem State.mapVx_cores (s : State) (f : VRegs → VRegs) : (s.mapVx f).cores = s.cores := rfl
@[simp] theorem State.mapVx_mem (s : State) (f : VRegs → VRegs) : (s.mapVx f).mem = s.mem := rfl
@[simp] theorem State.mapVx_ms (s : State) (f : VRegs → VRegs) : (s.mapVx f).ms = s.ms := rfl
@[simp] theorem State.mapVx_parts (s : State) (f : VRegs → VRegs) : (s.mapVx f).parts = s.parts := rfl
@[simp] theorem State.mapVx_rings (s : State) (f : VRegs → VRegs) : (s.mapVx f).rings = s.rings := rfl
@[simp] theorem State.mapVx_nodes (s : State) (f : VRegs → VRegs) : (s.mapVx f).nodes = s.nodes := rfl
@[simp] theorem State.mapVx_groups (s : State) (f : VRegs → VRegs) : (s.mapVx f).groups = s.groups := rfl
@[simp] theorem State.mapVx_pw (s : State) (f : VRegs → VRegs) : (s.mapVx f).pw = s.pw := rfl
@[simp] theorem State.mapVx_net (s : State) (f : VRegs → VRegs) : (s.mapVx f).net = s.net := rfl
@[simp] theorem State.mapVx_mg (s : State) (f : VRegs → VRegs) : (s.mapVx f).mg = s.mg := rfl
@[simp] theorem State.mapVx_nstime (s : State) (f : VRegs → VRegs) : (s.mapVx f).nstime = s.nstime := rfl
@[simp] theorem State.mapVx_fresh (s : State) (f : VRegs → VRegs) : (s.mapVx f).fresh = s.fresh := rfl
@[simp] theorem State.mapVx_serial (s : State) (f : VRegs → VRegs) : (s.mapVx f).serial = s.serial := rfl
@[simp] theorem State.mapVx_agenda (s : State) (f : VRegs → VRegs) : (s.mapVx f).agenda = s.agenda := rfl
@[simp] theorem State.mapVx_turn (s : State) (f : VRegs → VRegs) : (s.mapVx f).turn = s.turn := rfl

/-! ## mapMx -/

@[simp] theorem State.mapMx_ctx (s : State) (f : MRegs → MRegs) : (s.mapMx f).ctx = { s.ctx with mx := f s.ctx.mx } := rfl
@[simp] theorem State.mapMx_stream (s : State) (f : MRegs → MRegs) : (s.mapMx f).stream = s.stream := rfl
@[simp] theorem State.mapMx_others (s : State) (f : MRegs → MRegs) : (s.mapMx f).others = s.others := rfl
@[simp] theorem State.mapMx_cores (s : State) (f : MRegs → MRegs) : (s.mapMx f).cores = s.cores := rfl
@[simp] theorem State.mapMx_mem (s : State) (f : MRegs → MRegs) : (s.mapMx f).mem = s.mem := rfl
@[simp] theorem State.mapMx_ms (s : State) (f : MRegs → MRegs) : (s.mapMx f).ms = s.ms := rfl
@[simp] theorem State.mapMx_parts (s : State) (f : MRegs → MRegs) : (s.mapMx f).parts = s.parts := rfl
@[simp] theorem State.mapMx_rings (s : State) (f : MRegs → MRegs) : (s.mapMx f).rings = s.rings := rfl
@[simp] theorem State.mapMx_nodes (s : State) (f : MRegs → MRegs) : (s.mapMx f).nodes = s.nodes := rfl
@[simp] theorem State.mapMx_groups (s : State) (f : MRegs → MRegs) : (s.mapMx f).groups = s.groups := rfl
@[simp] theorem State.mapMx_pw (s : State) (f : MRegs → MRegs) : (s.mapMx f).pw = s.pw := rfl
@[simp] theorem State.mapMx_net (s : State) (f : MRegs → MRegs) : (s.mapMx f).net = s.net := rfl
@[simp] theorem State.mapMx_mg (s : State) (f : MRegs → MRegs) : (s.mapMx f).mg = s.mg := rfl
@[simp] theorem State.mapMx_nstime (s : State) (f : MRegs → MRegs) : (s.mapMx f).nstime = s.nstime := rfl
@[simp] theorem State.mapMx_fresh (s : State) (f : MRegs → MRegs) : (s.mapMx f).fresh = s.fresh := rfl
@[simp] theorem State.mapMx_serial (s : State) (f : MRegs → MRegs) : (s.mapMx f).serial = s.serial := rfl
@[simp] theorem State.mapMx_agenda (s : State) (f : MRegs → MRegs) : (s.mapMx f).agenda = s.agenda := rfl
@[simp] theorem State.mapMx_turn (s : State) (f : MRegs → MRegs) : (s.mapMx f).turn = s.turn := rfl

/-! ## mapColl -/

@[simp] theorem State.mapColl_ctx (s : State) (f : CollSt → CollSt) : (s.mapColl f).ctx = { s.ctx with coll := f s.ctx.coll } := rfl
@[simp] theorem State.mapColl_stream (s : State) (f : CollSt → CollSt) : (s.mapColl f).stream = s.stream := rfl
@[simp] theorem State.mapColl_others (s : State) (f : CollSt → CollSt) : (s.mapColl f).others = s.others := rfl
@[simp] theorem State.mapColl_cores (s : State) (f : CollSt → CollSt) : (s.mapColl f).cores = s.cores := rfl
@[simp] theorem State.mapColl_mem (s : State) (f : CollSt → CollSt) : (s.mapColl f).mem = s.mem := rfl
@[simp] theorem State.mapColl_ms (s : State) (f : CollSt → CollSt) : (s.mapColl f).ms = s.ms := rfl
@[simp] theorem State.mapColl_parts (s : State) (f : CollSt → CollSt) : (s.mapColl f).parts = s.parts := rfl
@[simp] theorem State.mapColl_rings (s : State) (f : CollSt → CollSt) : (s.mapColl f).rings = s.rings := rfl
@[simp] theorem State.mapColl_nodes (s : State) (f : CollSt → CollSt) : (s.mapColl f).nodes = s.nodes := rfl
@[simp] theorem State.mapColl_groups (s : State) (f : CollSt → CollSt) : (s.mapColl f).groups = s.groups := rfl
@[simp] theorem State.mapColl_pw (s : State) (f : CollSt → CollSt) : (s.mapColl f).pw = s.pw := rfl
@[simp] theorem State.mapColl_net (s : State) (f : CollSt → CollSt) : (s.mapColl f).net = s.net := rfl
@[simp] theorem State.mapColl_mg (s : State) (f : CollSt → CollSt) : (s.mapColl f).mg = s.mg := rfl
@[simp] theorem State.mapColl_nstime (s : State) (f : CollSt → CollSt) : (s.mapColl f).nstime = s.nstime := rfl
@[simp] theorem State.mapColl_fresh (s : State) (f : CollSt → CollSt) : (s.mapColl f).fresh = s.fresh := rfl
@[simp] theorem State.mapColl_serial (s : State) (f : CollSt → CollSt) : (s.mapColl f).serial = s.serial := rfl
@[simp] theorem State.mapColl_agenda (s : State) (f : CollSt → CollSt) : (s.mapColl f).agenda = s.agenda := rfl
@[simp] theorem State.mapColl_turn (s : State) (f : CollSt → CollSt) : (s.mapColl f).turn = s.turn := rfl

/-! ## mapOrder -/

@[simp] theorem State.mapOrder_ctx (s : State) (f : OrderSt → OrderSt) : (s.mapOrder f).ctx = { s.ctx with order := f s.ctx.order } := rfl
@[simp] theorem State.mapOrder_stream (s : State) (f : OrderSt → OrderSt) : (s.mapOrder f).stream = s.stream := rfl
@[simp] theorem State.mapOrder_others (s : State) (f : OrderSt → OrderSt) : (s.mapOrder f).others = s.others := rfl
@[simp] theorem State.mapOrder_cores (s : State) (f : OrderSt → OrderSt) : (s.mapOrder f).cores = s.cores := rfl
@[simp] theorem State.mapOrder_mem (s : State) (f : OrderSt → OrderSt) : (s.mapOrder f).mem = s.mem := rfl
@[simp] theorem State.mapOrder_ms (s : State) (f : OrderSt → OrderSt) : (s.mapOrder f).ms = s.ms := rfl
@[simp] theorem State.mapOrder_parts (s : State) (f : OrderSt → OrderSt) : (s.mapOrder f).parts = s.parts := rfl
@[simp] theorem State.mapOrder_rings (s : State) (f : OrderSt → OrderSt) : (s.mapOrder f).rings = s.rings := rfl
@[simp] theorem State.mapOrder_nodes (s : State) (f : OrderSt → OrderSt) : (s.mapOrder f).nodes = s.nodes := rfl
@[simp] theorem State.mapOrder_groups (s : State) (f : OrderSt → OrderSt) : (s.mapOrder f).groups = s.groups := rfl
@[simp] theorem State.mapOrder_pw (s : State) (f : OrderSt → OrderSt) : (s.mapOrder f).pw = s.pw := rfl
@[simp] theorem State.mapOrder_net (s : State) (f : OrderSt → OrderSt) : (s.mapOrder f).net = s.net := rfl
@[simp] theorem State.mapOrder_mg (s : State) (f : OrderSt → OrderSt) : (s.mapOrder f).mg = s.mg := rfl
@[simp] theorem State.mapOrder_nstime (s : State) (f : OrderSt → OrderSt) : (s.mapOrder f).nstime = s.nstime := rfl
@[simp] theorem State.mapOrder_fresh (s : State) (f : OrderSt → OrderSt) : (s.mapOrder f).fresh = s.fresh := rfl
@[simp] theorem State.mapOrder_serial (s : State) (f : OrderSt → OrderSt) : (s.mapOrder f).serial = s.serial := rfl
@[simp] theorem State.mapOrder_agenda (s : State) (f : OrderSt → OrderSt) : (s.mapOrder f).agenda = s.agenda := rfl
@[simp] theorem State.mapOrder_turn (s : State) (f : OrderSt → OrderSt) : (s.mapOrder f).turn = s.turn := rfl

/-! ## mapStr -/

@[simp] theorem State.mapStr_ctx (s : State) (t : Stream) (f : StreamSt → StreamSt) : (s.mapStr t f).ctx = { s.ctx with streams := s.ctx.streams.set t.ix (f s.ctx.streams[t.ix]) } := rfl
@[simp] theorem State.mapStr_stream (s : State) (t : Stream) (f : StreamSt → StreamSt) : (s.mapStr t f).stream = s.stream := rfl
@[simp] theorem State.mapStr_others (s : State) (t : Stream) (f : StreamSt → StreamSt) : (s.mapStr t f).others = s.others := rfl
@[simp] theorem State.mapStr_cores (s : State) (t : Stream) (f : StreamSt → StreamSt) : (s.mapStr t f).cores = s.cores := rfl
@[simp] theorem State.mapStr_mem (s : State) (t : Stream) (f : StreamSt → StreamSt) : (s.mapStr t f).mem = s.mem := rfl
@[simp] theorem State.mapStr_ms (s : State) (t : Stream) (f : StreamSt → StreamSt) : (s.mapStr t f).ms = s.ms := rfl
@[simp] theorem State.mapStr_parts (s : State) (t : Stream) (f : StreamSt → StreamSt) : (s.mapStr t f).parts = s.parts := rfl
@[simp] theorem State.mapStr_rings (s : State) (t : Stream) (f : StreamSt → StreamSt) : (s.mapStr t f).rings = s.rings := rfl
@[simp] theorem State.mapStr_nodes (s : State) (t : Stream) (f : StreamSt → StreamSt) : (s.mapStr t f).nodes = s.nodes := rfl
@[simp] theorem State.mapStr_groups (s : State) (t : Stream) (f : StreamSt → StreamSt) : (s.mapStr t f).groups = s.groups := rfl
@[simp] theorem State.mapStr_pw (s : State) (t : Stream) (f : StreamSt → StreamSt) : (s.mapStr t f).pw = s.pw := rfl
@[simp] theorem State.mapStr_net (s : State) (t : Stream) (f : StreamSt → StreamSt) : (s.mapStr t f).net = s.net := rfl
@[simp] theorem State.mapStr_mg (s : State) (t : Stream) (f : StreamSt → StreamSt) : (s.mapStr t f).mg = s.mg := rfl
@[simp] theorem State.mapStr_nstime (s : State) (t : Stream) (f : StreamSt → StreamSt) : (s.mapStr t f).nstime = s.nstime := rfl
@[simp] theorem State.mapStr_fresh (s : State) (t : Stream) (f : StreamSt → StreamSt) : (s.mapStr t f).fresh = s.fresh := rfl
@[simp] theorem State.mapStr_serial (s : State) (t : Stream) (f : StreamSt → StreamSt) : (s.mapStr t f).serial = s.serial := rfl
@[simp] theorem State.mapStr_agenda (s : State) (t : Stream) (f : StreamSt → StreamSt) : (s.mapStr t f).agenda = s.agenda := rfl
@[simp] theorem State.mapStr_turn (s : State) (t : Stream) (f : StreamSt → StreamSt) : (s.mapStr t f).turn = s.turn := rfl

/-! ## mapMg -/

@[simp] theorem State.mapMg_ctx (s : State) (f : MgmtSt → MgmtSt) : (s.mapMg f).ctx = s.ctx := rfl
@[simp] theorem State.mapMg_stream (s : State) (f : MgmtSt → MgmtSt) : (s.mapMg f).stream = s.stream := rfl
@[simp] theorem State.mapMg_others (s : State) (f : MgmtSt → MgmtSt) : (s.mapMg f).others = s.others := rfl
@[simp] theorem State.mapMg_cores (s : State) (f : MgmtSt → MgmtSt) : (s.mapMg f).cores = s.cores := rfl
@[simp] theorem State.mapMg_mem (s : State) (f : MgmtSt → MgmtSt) : (s.mapMg f).mem = s.mem := rfl
@[simp] theorem State.mapMg_ms (s : State) (f : MgmtSt → MgmtSt) : (s.mapMg f).ms = s.ms := rfl
@[simp] theorem State.mapMg_parts (s : State) (f : MgmtSt → MgmtSt) : (s.mapMg f).parts = s.parts := rfl
@[simp] theorem State.mapMg_rings (s : State) (f : MgmtSt → MgmtSt) : (s.mapMg f).rings = s.rings := rfl
@[simp] theorem State.mapMg_nodes (s : State) (f : MgmtSt → MgmtSt) : (s.mapMg f).nodes = s.nodes := rfl
@[simp] theorem State.mapMg_groups (s : State) (f : MgmtSt → MgmtSt) : (s.mapMg f).groups = s.groups := rfl
@[simp] theorem State.mapMg_pw (s : State) (f : MgmtSt → MgmtSt) : (s.mapMg f).pw = s.pw := rfl
@[simp] theorem State.mapMg_net (s : State) (f : MgmtSt → MgmtSt) : (s.mapMg f).net = s.net := rfl
@[simp] theorem State.mapMg_mg (s : State) (f : MgmtSt → MgmtSt) : (s.mapMg f).mg = f s.mg := rfl
@[simp] theorem State.mapMg_nstime (s : State) (f : MgmtSt → MgmtSt) : (s.mapMg f).nstime = s.nstime := rfl
@[simp] theorem State.mapMg_fresh (s : State) (f : MgmtSt → MgmtSt) : (s.mapMg f).fresh = s.fresh := rfl
@[simp] theorem State.mapMg_serial (s : State) (f : MgmtSt → MgmtSt) : (s.mapMg f).serial = s.serial := rfl
@[simp] theorem State.mapMg_agenda (s : State) (f : MgmtSt → MgmtSt) : (s.mapMg f).agenda = s.agenda := rfl
@[simp] theorem State.mapMg_turn (s : State) (f : MgmtSt → MgmtSt) : (s.mapMg f).turn = s.turn := rfl

/-! ## mapMs -/

@[simp] theorem State.mapMs_ctx (s : State) (f : MemSide → MemSide) : (s.mapMs f).ctx = s.ctx := rfl
@[simp] theorem State.mapMs_stream (s : State) (f : MemSide → MemSide) : (s.mapMs f).stream = s.stream := rfl
@[simp] theorem State.mapMs_others (s : State) (f : MemSide → MemSide) : (s.mapMs f).others = s.others := rfl
@[simp] theorem State.mapMs_cores (s : State) (f : MemSide → MemSide) : (s.mapMs f).cores = s.cores := rfl
@[simp] theorem State.mapMs_mem (s : State) (f : MemSide → MemSide) : (s.mapMs f).mem = s.mem := rfl
@[simp] theorem State.mapMs_ms (s : State) (f : MemSide → MemSide) : (s.mapMs f).ms = f s.ms := rfl
@[simp] theorem State.mapMs_parts (s : State) (f : MemSide → MemSide) : (s.mapMs f).parts = s.parts := rfl
@[simp] theorem State.mapMs_rings (s : State) (f : MemSide → MemSide) : (s.mapMs f).rings = s.rings := rfl
@[simp] theorem State.mapMs_nodes (s : State) (f : MemSide → MemSide) : (s.mapMs f).nodes = s.nodes := rfl
@[simp] theorem State.mapMs_groups (s : State) (f : MemSide → MemSide) : (s.mapMs f).groups = s.groups := rfl
@[simp] theorem State.mapMs_pw (s : State) (f : MemSide → MemSide) : (s.mapMs f).pw = s.pw := rfl
@[simp] theorem State.mapMs_net (s : State) (f : MemSide → MemSide) : (s.mapMs f).net = s.net := rfl
@[simp] theorem State.mapMs_mg (s : State) (f : MemSide → MemSide) : (s.mapMs f).mg = s.mg := rfl
@[simp] theorem State.mapMs_nstime (s : State) (f : MemSide → MemSide) : (s.mapMs f).nstime = s.nstime := rfl
@[simp] theorem State.mapMs_fresh (s : State) (f : MemSide → MemSide) : (s.mapMs f).fresh = s.fresh := rfl
@[simp] theorem State.mapMs_serial (s : State) (f : MemSide → MemSide) : (s.mapMs f).serial = s.serial := rfl
@[simp] theorem State.mapMs_agenda (s : State) (f : MemSide → MemSide) : (s.mapMs f).agenda = s.agenda := rfl
@[simp] theorem State.mapMs_turn (s : State) (f : MemSide → MemSide) : (s.mapMs f).turn = s.turn := rfl

/-! ## mapPw -/

@[simp] theorem State.mapPw_ctx (s : State) (f : PowerSt → PowerSt) : (s.mapPw f).ctx = s.ctx := rfl
@[simp] theorem State.mapPw_stream (s : State) (f : PowerSt → PowerSt) : (s.mapPw f).stream = s.stream := rfl
@[simp] theorem State.mapPw_others (s : State) (f : PowerSt → PowerSt) : (s.mapPw f).others = s.others := rfl
@[simp] theorem State.mapPw_cores (s : State) (f : PowerSt → PowerSt) : (s.mapPw f).cores = s.cores := rfl
@[simp] theorem State.mapPw_mem (s : State) (f : PowerSt → PowerSt) : (s.mapPw f).mem = s.mem := rfl
@[simp] theorem State.mapPw_ms (s : State) (f : PowerSt → PowerSt) : (s.mapPw f).ms = s.ms := rfl
@[simp] theorem State.mapPw_parts (s : State) (f : PowerSt → PowerSt) : (s.mapPw f).parts = s.parts := rfl
@[simp] theorem State.mapPw_rings (s : State) (f : PowerSt → PowerSt) : (s.mapPw f).rings = s.rings := rfl
@[simp] theorem State.mapPw_nodes (s : State) (f : PowerSt → PowerSt) : (s.mapPw f).nodes = s.nodes := rfl
@[simp] theorem State.mapPw_groups (s : State) (f : PowerSt → PowerSt) : (s.mapPw f).groups = s.groups := rfl
@[simp] theorem State.mapPw_pw (s : State) (f : PowerSt → PowerSt) : (s.mapPw f).pw = f s.pw := rfl
@[simp] theorem State.mapPw_net (s : State) (f : PowerSt → PowerSt) : (s.mapPw f).net = s.net := rfl
@[simp] theorem State.mapPw_mg (s : State) (f : PowerSt → PowerSt) : (s.mapPw f).mg = s.mg := rfl
@[simp] theorem State.mapPw_nstime (s : State) (f : PowerSt → PowerSt) : (s.mapPw f).nstime = s.nstime := rfl
@[simp] theorem State.mapPw_fresh (s : State) (f : PowerSt → PowerSt) : (s.mapPw f).fresh = s.fresh := rfl
@[simp] theorem State.mapPw_serial (s : State) (f : PowerSt → PowerSt) : (s.mapPw f).serial = s.serial := rfl
@[simp] theorem State.mapPw_agenda (s : State) (f : PowerSt → PowerSt) : (s.mapPw f).agenda = s.agenda := rfl
@[simp] theorem State.mapPw_turn (s : State) (f : PowerSt → PowerSt) : (s.mapPw f).turn = s.turn := rfl

/-! ## mapCore -/

@[simp] theorem State.mapCore_ctx (s : State) (c : Nat) (f : Core → Core) : (s.mapCore c f).ctx = s.ctx := rfl
@[simp] theorem State.mapCore_stream (s : State) (c : Nat) (f : Core → Core) : (s.mapCore c f).stream = s.stream := rfl
@[simp] theorem State.mapCore_others (s : State) (c : Nat) (f : Core → Core) : (s.mapCore c f).others = s.others := rfl
@[simp] theorem State.mapCore_cores (s : State) (c : Nat) (f : Core → Core) : (s.mapCore c f).cores = Table.set Core.init s.cores c (f (s.core c)) := rfl
@[simp] theorem State.mapCore_mem (s : State) (c : Nat) (f : Core → Core) : (s.mapCore c f).mem = s.mem := rfl
@[simp] theorem State.mapCore_ms (s : State) (c : Nat) (f : Core → Core) : (s.mapCore c f).ms = s.ms := rfl
@[simp] theorem State.mapCore_parts (s : State) (c : Nat) (f : Core → Core) : (s.mapCore c f).parts = s.parts := rfl
@[simp] theorem State.mapCore_rings (s : State) (c : Nat) (f : Core → Core) : (s.mapCore c f).rings = s.rings := rfl
@[simp] theorem State.mapCore_nodes (s : State) (c : Nat) (f : Core → Core) : (s.mapCore c f).nodes = s.nodes := rfl
@[simp] theorem State.mapCore_groups (s : State) (c : Nat) (f : Core → Core) : (s.mapCore c f).groups = s.groups := rfl
@[simp] theorem State.mapCore_pw (s : State) (c : Nat) (f : Core → Core) : (s.mapCore c f).pw = s.pw := rfl
@[simp] theorem State.mapCore_net (s : State) (c : Nat) (f : Core → Core) : (s.mapCore c f).net = s.net := rfl
@[simp] theorem State.mapCore_mg (s : State) (c : Nat) (f : Core → Core) : (s.mapCore c f).mg = s.mg := rfl
@[simp] theorem State.mapCore_nstime (s : State) (c : Nat) (f : Core → Core) : (s.mapCore c f).nstime = s.nstime := rfl
@[simp] theorem State.mapCore_fresh (s : State) (c : Nat) (f : Core → Core) : (s.mapCore c f).fresh = s.fresh := rfl
@[simp] theorem State.mapCore_serial (s : State) (c : Nat) (f : Core → Core) : (s.mapCore c f).serial = s.serial := rfl
@[simp] theorem State.mapCore_agenda (s : State) (c : Nat) (f : Core → Core) : (s.mapCore c f).agenda = s.agenda := rfl
@[simp] theorem State.mapCore_turn (s : State) (c : Nat) (f : Core → Core) : (s.mapCore c f).turn = s.turn := rfl

/-! ## mapAll -/

@[simp] theorem State.mapAll_ctx (s : State) (f : Ctx → Ctx) : (s.mapAll f).ctx = f s.ctx := rfl
@[simp] theorem State.mapAll_stream (s : State) (f : Ctx → Ctx) : (s.mapAll f).stream = s.stream := rfl
@[simp] theorem State.mapAll_others (s : State) (f : Ctx → Ctx) : (s.mapAll f).others = s.others.map f := rfl
@[simp] theorem State.mapAll_cores (s : State) (f : Ctx → Ctx) : (s.mapAll f).cores = s.cores := rfl
@[simp] theorem State.mapAll_mem (s : State) (f : Ctx → Ctx) : (s.mapAll f).mem = s.mem := rfl
@[simp] theorem State.mapAll_ms (s : State) (f : Ctx → Ctx) : (s.mapAll f).ms = s.ms := rfl
@[simp] theorem State.mapAll_parts (s : State) (f : Ctx → Ctx) : (s.mapAll f).parts = s.parts := rfl
@[simp] theorem State.mapAll_rings (s : State) (f : Ctx → Ctx) : (s.mapAll f).rings = s.rings := rfl
@[simp] theorem State.mapAll_nodes (s : State) (f : Ctx → Ctx) : (s.mapAll f).nodes = s.nodes := rfl
@[simp] theorem State.mapAll_groups (s : State) (f : Ctx → Ctx) : (s.mapAll f).groups = s.groups := rfl
@[simp] theorem State.mapAll_pw (s : State) (f : Ctx → Ctx) : (s.mapAll f).pw = s.pw := rfl
@[simp] theorem State.mapAll_net (s : State) (f : Ctx → Ctx) : (s.mapAll f).net = s.net := rfl
@[simp] theorem State.mapAll_mg (s : State) (f : Ctx → Ctx) : (s.mapAll f).mg = s.mg := rfl
@[simp] theorem State.mapAll_nstime (s : State) (f : Ctx → Ctx) : (s.mapAll f).nstime = s.nstime := rfl
@[simp] theorem State.mapAll_fresh (s : State) (f : Ctx → Ctx) : (s.mapAll f).fresh = s.fresh := rfl
@[simp] theorem State.mapAll_serial (s : State) (f : Ctx → Ctx) : (s.mapAll f).serial = s.serial := rfl
@[simp] theorem State.mapAll_agenda (s : State) (f : Ctx → Ctx) : (s.mapAll f).agenda = s.agenda := rfl
@[simp] theorem State.mapAll_turn (s : State) (f : Ctx → Ctx) : (s.mapAll f).turn = s.turn := rfl

/-! ## mapPart -/

@[simp] theorem State.mapPart_ctx (s : State) (p : Part) (f : Partition → Partition) : (s.mapPart p f).ctx = s.ctx := rfl
@[simp] theorem State.mapPart_stream (s : State) (p : Part) (f : Partition → Partition) : (s.mapPart p f).stream = s.stream := rfl
@[simp] theorem State.mapPart_others (s : State) (p : Part) (f : Partition → Partition) : (s.mapPart p f).others = s.others := rfl
@[simp] theorem State.mapPart_cores (s : State) (p : Part) (f : Partition → Partition) : (s.mapPart p f).cores = s.cores := rfl
@[simp] theorem State.mapPart_mem (s : State) (p : Part) (f : Partition → Partition) : (s.mapPart p f).mem = s.mem := rfl
@[simp] theorem State.mapPart_ms (s : State) (p : Part) (f : Partition → Partition) : (s.mapPart p f).ms = s.ms := rfl
@[simp] theorem State.mapPart_rings (s : State) (p : Part) (f : Partition → Partition) : (s.mapPart p f).rings = s.rings := rfl
@[simp] theorem State.mapPart_nodes (s : State) (p : Part) (f : Partition → Partition) : (s.mapPart p f).nodes = s.nodes := rfl
@[simp] theorem State.mapPart_groups (s : State) (p : Part) (f : Partition → Partition) : (s.mapPart p f).groups = s.groups := rfl
@[simp] theorem State.mapPart_pw (s : State) (p : Part) (f : Partition → Partition) : (s.mapPart p f).pw = s.pw := rfl
@[simp] theorem State.mapPart_net (s : State) (p : Part) (f : Partition → Partition) : (s.mapPart p f).net = s.net := rfl
@[simp] theorem State.mapPart_mg (s : State) (p : Part) (f : Partition → Partition) : (s.mapPart p f).mg = s.mg := rfl
@[simp] theorem State.mapPart_nstime (s : State) (p : Part) (f : Partition → Partition) : (s.mapPart p f).nstime = s.nstime := rfl
@[simp] theorem State.mapPart_fresh (s : State) (p : Part) (f : Partition → Partition) : (s.mapPart p f).fresh = s.fresh := rfl
@[simp] theorem State.mapPart_serial (s : State) (p : Part) (f : Partition → Partition) : (s.mapPart p f).serial = s.serial := rfl
@[simp] theorem State.mapPart_agenda (s : State) (p : Part) (f : Partition → Partition) : (s.mapPart p f).agenda = s.agenda := rfl
@[simp] theorem State.mapPart_turn (s : State) (p : Part) (f : Partition → Partition) : (s.mapPart p f).turn = s.turn := rfl

/-! ## mapNode -/

@[simp] theorem State.mapNode_ctx (s : State) (p : Part) (n : BitVec 32) (f : Node → Node) : (s.mapNode p n f).ctx = s.ctx := rfl
@[simp] theorem State.mapNode_stream (s : State) (p : Part) (n : BitVec 32) (f : Node → Node) : (s.mapNode p n f).stream = s.stream := rfl
@[simp] theorem State.mapNode_others (s : State) (p : Part) (n : BitVec 32) (f : Node → Node) : (s.mapNode p n f).others = s.others := rfl
@[simp] theorem State.mapNode_cores (s : State) (p : Part) (n : BitVec 32) (f : Node → Node) : (s.mapNode p n f).cores = s.cores := rfl
@[simp] theorem State.mapNode_mem (s : State) (p : Part) (n : BitVec 32) (f : Node → Node) : (s.mapNode p n f).mem = s.mem := rfl
@[simp] theorem State.mapNode_ms (s : State) (p : Part) (n : BitVec 32) (f : Node → Node) : (s.mapNode p n f).ms = s.ms := rfl
@[simp] theorem State.mapNode_parts (s : State) (p : Part) (n : BitVec 32) (f : Node → Node) : (s.mapNode p n f).parts = s.parts := rfl
@[simp] theorem State.mapNode_rings (s : State) (p : Part) (n : BitVec 32) (f : Node → Node) : (s.mapNode p n f).rings = s.rings := rfl
@[simp] theorem State.mapNode_groups (s : State) (p : Part) (n : BitVec 32) (f : Node → Node) : (s.mapNode p n f).groups = s.groups := rfl
@[simp] theorem State.mapNode_pw (s : State) (p : Part) (n : BitVec 32) (f : Node → Node) : (s.mapNode p n f).pw = s.pw := rfl
@[simp] theorem State.mapNode_net (s : State) (p : Part) (n : BitVec 32) (f : Node → Node) : (s.mapNode p n f).net = s.net := rfl
@[simp] theorem State.mapNode_mg (s : State) (p : Part) (n : BitVec 32) (f : Node → Node) : (s.mapNode p n f).mg = s.mg := rfl
@[simp] theorem State.mapNode_nstime (s : State) (p : Part) (n : BitVec 32) (f : Node → Node) : (s.mapNode p n f).nstime = s.nstime := rfl
@[simp] theorem State.mapNode_fresh (s : State) (p : Part) (n : BitVec 32) (f : Node → Node) : (s.mapNode p n f).fresh = s.fresh := rfl
@[simp] theorem State.mapNode_serial (s : State) (p : Part) (n : BitVec 32) (f : Node → Node) : (s.mapNode p n f).serial = s.serial := rfl
@[simp] theorem State.mapNode_agenda (s : State) (p : Part) (n : BitVec 32) (f : Node → Node) : (s.mapNode p n f).agenda = s.agenda := rfl
@[simp] theorem State.mapNode_turn (s : State) (p : Part) (n : BitVec 32) (f : Node → Node) : (s.mapNode p n f).turn = s.turn := rfl

/-! ## mapGroup -/

@[simp] theorem State.mapGroup_ctx (s : State) (p : Part) (n : BitVec 16) (f : Group → Group) : (s.mapGroup p n f).ctx = s.ctx := rfl
@[simp] theorem State.mapGroup_stream (s : State) (p : Part) (n : BitVec 16) (f : Group → Group) : (s.mapGroup p n f).stream = s.stream := rfl
@[simp] theorem State.mapGroup_others (s : State) (p : Part) (n : BitVec 16) (f : Group → Group) : (s.mapGroup p n f).others = s.others := rfl
@[simp] theorem State.mapGroup_cores (s : State) (p : Part) (n : BitVec 16) (f : Group → Group) : (s.mapGroup p n f).cores = s.cores := rfl
@[simp] theorem State.mapGroup_mem (s : State) (p : Part) (n : BitVec 16) (f : Group → Group) : (s.mapGroup p n f).mem = s.mem := rfl
@[simp] theorem State.mapGroup_ms (s : State) (p : Part) (n : BitVec 16) (f : Group → Group) : (s.mapGroup p n f).ms = s.ms := rfl
@[simp] theorem State.mapGroup_parts (s : State) (p : Part) (n : BitVec 16) (f : Group → Group) : (s.mapGroup p n f).parts = s.parts := rfl
@[simp] theorem State.mapGroup_rings (s : State) (p : Part) (n : BitVec 16) (f : Group → Group) : (s.mapGroup p n f).rings = s.rings := rfl
@[simp] theorem State.mapGroup_nodes (s : State) (p : Part) (n : BitVec 16) (f : Group → Group) : (s.mapGroup p n f).nodes = s.nodes := rfl
@[simp] theorem State.mapGroup_pw (s : State) (p : Part) (n : BitVec 16) (f : Group → Group) : (s.mapGroup p n f).pw = s.pw := rfl
@[simp] theorem State.mapGroup_net (s : State) (p : Part) (n : BitVec 16) (f : Group → Group) : (s.mapGroup p n f).net = s.net := rfl
@[simp] theorem State.mapGroup_mg (s : State) (p : Part) (n : BitVec 16) (f : Group → Group) : (s.mapGroup p n f).mg = s.mg := rfl
@[simp] theorem State.mapGroup_nstime (s : State) (p : Part) (n : BitVec 16) (f : Group → Group) : (s.mapGroup p n f).nstime = s.nstime := rfl
@[simp] theorem State.mapGroup_fresh (s : State) (p : Part) (n : BitVec 16) (f : Group → Group) : (s.mapGroup p n f).fresh = s.fresh := rfl
@[simp] theorem State.mapGroup_serial (s : State) (p : Part) (n : BitVec 16) (f : Group → Group) : (s.mapGroup p n f).serial = s.serial := rfl
@[simp] theorem State.mapGroup_agenda (s : State) (p : Part) (n : BitVec 16) (f : Group → Group) : (s.mapGroup p n f).agenda = s.agenda := rfl
@[simp] theorem State.mapGroup_turn (s : State) (p : Part) (n : BitVec 16) (f : Group → Group) : (s.mapGroup p n f).turn = s.turn := rfl

/-! ## mapRing -/

@[simp] theorem State.mapRing_ctx (s : State) (r : RingId) (f : Ring → Ring) : (s.mapRing r f).ctx = s.ctx := rfl
@[simp] theorem State.mapRing_stream (s : State) (r : RingId) (f : Ring → Ring) : (s.mapRing r f).stream = s.stream := rfl
@[simp] theorem State.mapRing_others (s : State) (r : RingId) (f : Ring → Ring) : (s.mapRing r f).others = s.others := rfl
@[simp] theorem State.mapRing_cores (s : State) (r : RingId) (f : Ring → Ring) : (s.mapRing r f).cores = s.cores := rfl
@[simp] theorem State.mapRing_mem (s : State) (r : RingId) (f : Ring → Ring) : (s.mapRing r f).mem = s.mem := rfl
@[simp] theorem State.mapRing_ms (s : State) (r : RingId) (f : Ring → Ring) : (s.mapRing r f).ms = s.ms := rfl
@[simp] theorem State.mapRing_parts (s : State) (r : RingId) (f : Ring → Ring) : (s.mapRing r f).parts = s.parts := rfl
@[simp] theorem State.mapRing_nodes (s : State) (r : RingId) (f : Ring → Ring) : (s.mapRing r f).nodes = s.nodes := rfl
@[simp] theorem State.mapRing_groups (s : State) (r : RingId) (f : Ring → Ring) : (s.mapRing r f).groups = s.groups := rfl
@[simp] theorem State.mapRing_pw (s : State) (r : RingId) (f : Ring → Ring) : (s.mapRing r f).pw = s.pw := rfl
@[simp] theorem State.mapRing_net (s : State) (r : RingId) (f : Ring → Ring) : (s.mapRing r f).net = s.net := rfl
@[simp] theorem State.mapRing_mg (s : State) (r : RingId) (f : Ring → Ring) : (s.mapRing r f).mg = s.mg := rfl
@[simp] theorem State.mapRing_nstime (s : State) (r : RingId) (f : Ring → Ring) : (s.mapRing r f).nstime = s.nstime := rfl
@[simp] theorem State.mapRing_fresh (s : State) (r : RingId) (f : Ring → Ring) : (s.mapRing r f).fresh = s.fresh := rfl
@[simp] theorem State.mapRing_serial (s : State) (r : RingId) (f : Ring → Ring) : (s.mapRing r f).serial = s.serial := rfl
@[simp] theorem State.mapRing_agenda (s : State) (r : RingId) (f : Ring → Ring) : (s.mapRing r f).agenda = s.agenda := rfl
@[simp] theorem State.mapRing_turn (s : State) (r : RingId) (f : Ring → Ring) : (s.mapRing r f).turn = s.turn := rfl

/-! ## mapBucket -/

@[simp] theorem State.mapBucket_ctx (s : State) (p : Part) (d : Nat) (f : Bucket → Bucket) : (s.mapBucket p d f).ctx = s.ctx := rfl
@[simp] theorem State.mapBucket_stream (s : State) (p : Part) (d : Nat) (f : Bucket → Bucket) : (s.mapBucket p d f).stream = s.stream := rfl
@[simp] theorem State.mapBucket_others (s : State) (p : Part) (d : Nat) (f : Bucket → Bucket) : (s.mapBucket p d f).others = s.others := rfl
@[simp] theorem State.mapBucket_cores (s : State) (p : Part) (d : Nat) (f : Bucket → Bucket) : (s.mapBucket p d f).cores = s.cores := rfl
@[simp] theorem State.mapBucket_mem (s : State) (p : Part) (d : Nat) (f : Bucket → Bucket) : (s.mapBucket p d f).mem = s.mem := rfl
@[simp] theorem State.mapBucket_ms (s : State) (p : Part) (d : Nat) (f : Bucket → Bucket) : (s.mapBucket p d f).ms = s.ms := rfl
@[simp] theorem State.mapBucket_parts (s : State) (p : Part) (d : Nat) (f : Bucket → Bucket) : (s.mapBucket p d f).parts = s.parts := rfl
@[simp] theorem State.mapBucket_rings (s : State) (p : Part) (d : Nat) (f : Bucket → Bucket) : (s.mapBucket p d f).rings = s.rings := rfl
@[simp] theorem State.mapBucket_nodes (s : State) (p : Part) (d : Nat) (f : Bucket → Bucket) : (s.mapBucket p d f).nodes = s.nodes := rfl
@[simp] theorem State.mapBucket_groups (s : State) (p : Part) (d : Nat) (f : Bucket → Bucket) : (s.mapBucket p d f).groups = s.groups := rfl
@[simp] theorem State.mapBucket_net (s : State) (p : Part) (d : Nat) (f : Bucket → Bucket) : (s.mapBucket p d f).net = s.net := rfl
@[simp] theorem State.mapBucket_mg (s : State) (p : Part) (d : Nat) (f : Bucket → Bucket) : (s.mapBucket p d f).mg = s.mg := rfl
@[simp] theorem State.mapBucket_nstime (s : State) (p : Part) (d : Nat) (f : Bucket → Bucket) : (s.mapBucket p d f).nstime = s.nstime := rfl
@[simp] theorem State.mapBucket_fresh (s : State) (p : Part) (d : Nat) (f : Bucket → Bucket) : (s.mapBucket p d f).fresh = s.fresh := rfl
@[simp] theorem State.mapBucket_serial (s : State) (p : Part) (d : Nat) (f : Bucket → Bucket) : (s.mapBucket p d f).serial = s.serial := rfl
@[simp] theorem State.mapBucket_agenda (s : State) (p : Part) (d : Nat) (f : Bucket → Bucket) : (s.mapBucket p d f).agenda = s.agenda := rfl
@[simp] theorem State.mapBucket_turn (s : State) (p : Part) (d : Nat) (f : Bucket → Bucket) : (s.mapBucket p d f).turn = s.turn := rfl

/-! ## mapIsland -/

@[simp] theorem State.mapIsland_ctx (s : State) (k : Nat) (f : Island → Island) : (s.mapIsland k f).ctx = s.ctx := rfl
@[simp] theorem State.mapIsland_stream (s : State) (k : Nat) (f : Island → Island) : (s.mapIsland k f).stream = s.stream := rfl
@[simp] theorem State.mapIsland_others (s : State) (k : Nat) (f : Island → Island) : (s.mapIsland k f).others = s.others := rfl
@[simp] theorem State.mapIsland_cores (s : State) (k : Nat) (f : Island → Island) : (s.mapIsland k f).cores = s.cores := rfl
@[simp] theorem State.mapIsland_mem (s : State) (k : Nat) (f : Island → Island) : (s.mapIsland k f).mem = s.mem := rfl
@[simp] theorem State.mapIsland_ms (s : State) (k : Nat) (f : Island → Island) : (s.mapIsland k f).ms = s.ms := rfl
@[simp] theorem State.mapIsland_parts (s : State) (k : Nat) (f : Island → Island) : (s.mapIsland k f).parts = s.parts := rfl
@[simp] theorem State.mapIsland_rings (s : State) (k : Nat) (f : Island → Island) : (s.mapIsland k f).rings = s.rings := rfl
@[simp] theorem State.mapIsland_nodes (s : State) (k : Nat) (f : Island → Island) : (s.mapIsland k f).nodes = s.nodes := rfl
@[simp] theorem State.mapIsland_groups (s : State) (k : Nat) (f : Island → Island) : (s.mapIsland k f).groups = s.groups := rfl
@[simp] theorem State.mapIsland_net (s : State) (k : Nat) (f : Island → Island) : (s.mapIsland k f).net = s.net := rfl
@[simp] theorem State.mapIsland_mg (s : State) (k : Nat) (f : Island → Island) : (s.mapIsland k f).mg = s.mg := rfl
@[simp] theorem State.mapIsland_nstime (s : State) (k : Nat) (f : Island → Island) : (s.mapIsland k f).nstime = s.nstime := rfl
@[simp] theorem State.mapIsland_fresh (s : State) (k : Nat) (f : Island → Island) : (s.mapIsland k f).fresh = s.fresh := rfl
@[simp] theorem State.mapIsland_serial (s : State) (k : Nat) (f : Island → Island) : (s.mapIsland k f).serial = s.serial := rfl
@[simp] theorem State.mapIsland_agenda (s : State) (k : Nat) (f : Island → Island) : (s.mapIsland k f).agenda = s.agenda := rfl
@[simp] theorem State.mapIsland_turn (s : State) (k : Nat) (f : Island → Island) : (s.mapIsland k f).turn = s.turn := rfl

/-! ## mapSlice -/

@[simp] theorem State.mapSlice_ctx (s : State) (d : Nat) (f : SliceMap → SliceMap) : (s.mapSlice d f).ctx = s.ctx := rfl
@[simp] theorem State.mapSlice_stream (s : State) (d : Nat) (f : SliceMap → SliceMap) : (s.mapSlice d f).stream = s.stream := rfl
@[simp] theorem State.mapSlice_others (s : State) (d : Nat) (f : SliceMap → SliceMap) : (s.mapSlice d f).others = s.others := rfl
@[simp] theorem State.mapSlice_cores (s : State) (d : Nat) (f : SliceMap → SliceMap) : (s.mapSlice d f).cores = s.cores := rfl
@[simp] theorem State.mapSlice_mem (s : State) (d : Nat) (f : SliceMap → SliceMap) : (s.mapSlice d f).mem = s.mem := rfl
@[simp] theorem State.mapSlice_parts (s : State) (d : Nat) (f : SliceMap → SliceMap) : (s.mapSlice d f).parts = s.parts := rfl
@[simp] theorem State.mapSlice_rings (s : State) (d : Nat) (f : SliceMap → SliceMap) : (s.mapSlice d f).rings = s.rings := rfl
@[simp] theorem State.mapSlice_nodes (s : State) (d : Nat) (f : SliceMap → SliceMap) : (s.mapSlice d f).nodes = s.nodes := rfl
@[simp] theorem State.mapSlice_groups (s : State) (d : Nat) (f : SliceMap → SliceMap) : (s.mapSlice d f).groups = s.groups := rfl
@[simp] theorem State.mapSlice_pw (s : State) (d : Nat) (f : SliceMap → SliceMap) : (s.mapSlice d f).pw = s.pw := rfl
@[simp] theorem State.mapSlice_net (s : State) (d : Nat) (f : SliceMap → SliceMap) : (s.mapSlice d f).net = s.net := rfl
@[simp] theorem State.mapSlice_mg (s : State) (d : Nat) (f : SliceMap → SliceMap) : (s.mapSlice d f).mg = s.mg := rfl
@[simp] theorem State.mapSlice_nstime (s : State) (d : Nat) (f : SliceMap → SliceMap) : (s.mapSlice d f).nstime = s.nstime := rfl
@[simp] theorem State.mapSlice_fresh (s : State) (d : Nat) (f : SliceMap → SliceMap) : (s.mapSlice d f).fresh = s.fresh := rfl
@[simp] theorem State.mapSlice_serial (s : State) (d : Nat) (f : SliceMap → SliceMap) : (s.mapSlice d f).serial = s.serial := rfl
@[simp] theorem State.mapSlice_agenda (s : State) (d : Nat) (f : SliceMap → SliceMap) : (s.mapSlice d f).agenda = s.agenda := rfl
@[simp] theorem State.mapSlice_turn (s : State) (d : Nat) (f : SliceMap → SliceMap) : (s.mapSlice d f).turn = s.turn := rfl

/-! ## mapExchange -/

@[simp] theorem State.mapExchange_stream (s : State) (k : BitVec 16) (f : Exchange → Exchange) : (s.mapExchange k f).stream = s.stream := rfl
@[simp] theorem State.mapExchange_others (s : State) (k : BitVec 16) (f : Exchange → Exchange) : (s.mapExchange k f).others = s.others := rfl
@[simp] theorem State.mapExchange_cores (s : State) (k : BitVec 16) (f : Exchange → Exchange) : (s.mapExchange k f).cores = s.cores := rfl
@[simp] theorem State.mapExchange_mem (s : State) (k : BitVec 16) (f : Exchange → Exchange) : (s.mapExchange k f).mem = s.mem := rfl
@[simp] theorem State.mapExchange_ms (s : State) (k : BitVec 16) (f : Exchange → Exchange) : (s.mapExchange k f).ms = s.ms := rfl
@[simp] theorem State.mapExchange_parts (s : State) (k : BitVec 16) (f : Exchange → Exchange) : (s.mapExchange k f).parts = s.parts := rfl
@[simp] theorem State.mapExchange_rings (s : State) (k : BitVec 16) (f : Exchange → Exchange) : (s.mapExchange k f).rings = s.rings := rfl
@[simp] theorem State.mapExchange_nodes (s : State) (k : BitVec 16) (f : Exchange → Exchange) : (s.mapExchange k f).nodes = s.nodes := rfl
@[simp] theorem State.mapExchange_groups (s : State) (k : BitVec 16) (f : Exchange → Exchange) : (s.mapExchange k f).groups = s.groups := rfl
@[simp] theorem State.mapExchange_pw (s : State) (k : BitVec 16) (f : Exchange → Exchange) : (s.mapExchange k f).pw = s.pw := rfl
@[simp] theorem State.mapExchange_net (s : State) (k : BitVec 16) (f : Exchange → Exchange) : (s.mapExchange k f).net = s.net := rfl
@[simp] theorem State.mapExchange_mg (s : State) (k : BitVec 16) (f : Exchange → Exchange) : (s.mapExchange k f).mg = s.mg := rfl
@[simp] theorem State.mapExchange_nstime (s : State) (k : BitVec 16) (f : Exchange → Exchange) : (s.mapExchange k f).nstime = s.nstime := rfl
@[simp] theorem State.mapExchange_fresh (s : State) (k : BitVec 16) (f : Exchange → Exchange) : (s.mapExchange k f).fresh = s.fresh := rfl
@[simp] theorem State.mapExchange_serial (s : State) (k : BitVec 16) (f : Exchange → Exchange) : (s.mapExchange k f).serial = s.serial := rfl
@[simp] theorem State.mapExchange_agenda (s : State) (k : BitVec 16) (f : Exchange → Exchange) : (s.mapExchange k f).agenda = s.agenda := rfl
@[simp] theorem State.mapExchange_turn (s : State) (k : BitVec 16) (f : Exchange → Exchange) : (s.mapExchange k f).turn = s.turn := rfl

/-! ## mapLink -/

@[simp] theorem State.mapLink_ctx (s : State) (l : LinkDir) (f : LinkSt → LinkSt) : (s.mapLink l f).ctx = s.ctx := rfl
@[simp] theorem State.mapLink_stream (s : State) (l : LinkDir) (f : LinkSt → LinkSt) : (s.mapLink l f).stream = s.stream := rfl
@[simp] theorem State.mapLink_others (s : State) (l : LinkDir) (f : LinkSt → LinkSt) : (s.mapLink l f).others = s.others := rfl
@[simp] theorem State.mapLink_cores (s : State) (l : LinkDir) (f : LinkSt → LinkSt) : (s.mapLink l f).cores = s.cores := rfl
@[simp] theorem State.mapLink_mem (s : State) (l : LinkDir) (f : LinkSt → LinkSt) : (s.mapLink l f).mem = s.mem := rfl
@[simp] theorem State.mapLink_ms (s : State) (l : LinkDir) (f : LinkSt → LinkSt) : (s.mapLink l f).ms = s.ms := rfl
@[simp] theorem State.mapLink_parts (s : State) (l : LinkDir) (f : LinkSt → LinkSt) : (s.mapLink l f).parts = s.parts := rfl
@[simp] theorem State.mapLink_rings (s : State) (l : LinkDir) (f : LinkSt → LinkSt) : (s.mapLink l f).rings = s.rings := rfl
@[simp] theorem State.mapLink_nodes (s : State) (l : LinkDir) (f : LinkSt → LinkSt) : (s.mapLink l f).nodes = s.nodes := rfl
@[simp] theorem State.mapLink_groups (s : State) (l : LinkDir) (f : LinkSt → LinkSt) : (s.mapLink l f).groups = s.groups := rfl
@[simp] theorem State.mapLink_pw (s : State) (l : LinkDir) (f : LinkSt → LinkSt) : (s.mapLink l f).pw = s.pw := rfl
@[simp] theorem State.mapLink_net (s : State) (l : LinkDir) (f : LinkSt → LinkSt) : (s.mapLink l f).net = { s.net with links := s.net.links.set! (linkIx l) (f (s.link l)) } := rfl
@[simp] theorem State.mapLink_mg (s : State) (l : LinkDir) (f : LinkSt → LinkSt) : (s.mapLink l f).mg = s.mg := rfl
@[simp] theorem State.mapLink_nstime (s : State) (l : LinkDir) (f : LinkSt → LinkSt) : (s.mapLink l f).nstime = s.nstime := rfl
@[simp] theorem State.mapLink_fresh (s : State) (l : LinkDir) (f : LinkSt → LinkSt) : (s.mapLink l f).fresh = s.fresh := rfl
@[simp] theorem State.mapLink_serial (s : State) (l : LinkDir) (f : LinkSt → LinkSt) : (s.mapLink l f).serial = s.serial := rfl
@[simp] theorem State.mapLink_agenda (s : State) (l : LinkDir) (f : LinkSt → LinkSt) : (s.mapLink l f).agenda = s.agenda := rfl
@[simp] theorem State.mapLink_turn (s : State) (l : LinkDir) (f : LinkSt → LinkSt) : (s.mapLink l f).turn = s.turn := rfl

/-! ## mapPeer -/

@[simp] theorem State.mapPeer_ctx (s : State) (p : BitVec 16) (f : Peer → Peer) : (s.mapPeer p f).ctx = s.ctx := rfl
@[simp] theorem State.mapPeer_stream (s : State) (p : BitVec 16) (f : Peer → Peer) : (s.mapPeer p f).stream = s.stream := rfl
@[simp] theorem State.mapPeer_others (s : State) (p : BitVec 16) (f : Peer → Peer) : (s.mapPeer p f).others = s.others := rfl
@[simp] theorem State.mapPeer_cores (s : State) (p : BitVec 16) (f : Peer → Peer) : (s.mapPeer p f).cores = s.cores := rfl
@[simp] theorem State.mapPeer_mem (s : State) (p : BitVec 16) (f : Peer → Peer) : (s.mapPeer p f).mem = s.mem := rfl
@[simp] theorem State.mapPeer_ms (s : State) (p : BitVec 16) (f : Peer → Peer) : (s.mapPeer p f).ms = s.ms := rfl
@[simp] theorem State.mapPeer_parts (s : State) (p : BitVec 16) (f : Peer → Peer) : (s.mapPeer p f).parts = s.parts := rfl
@[simp] theorem State.mapPeer_rings (s : State) (p : BitVec 16) (f : Peer → Peer) : (s.mapPeer p f).rings = s.rings := rfl
@[simp] theorem State.mapPeer_nodes (s : State) (p : BitVec 16) (f : Peer → Peer) : (s.mapPeer p f).nodes = s.nodes := rfl
@[simp] theorem State.mapPeer_groups (s : State) (p : BitVec 16) (f : Peer → Peer) : (s.mapPeer p f).groups = s.groups := rfl
@[simp] theorem State.mapPeer_pw (s : State) (p : BitVec 16) (f : Peer → Peer) : (s.mapPeer p f).pw = s.pw := rfl
@[simp] theorem State.mapPeer_mg (s : State) (p : BitVec 16) (f : Peer → Peer) : (s.mapPeer p f).mg = s.mg := rfl
@[simp] theorem State.mapPeer_nstime (s : State) (p : BitVec 16) (f : Peer → Peer) : (s.mapPeer p f).nstime = s.nstime := rfl
@[simp] theorem State.mapPeer_fresh (s : State) (p : BitVec 16) (f : Peer → Peer) : (s.mapPeer p f).fresh = s.fresh := rfl
@[simp] theorem State.mapPeer_serial (s : State) (p : BitVec 16) (f : Peer → Peer) : (s.mapPeer p f).serial = s.serial := rfl
@[simp] theorem State.mapPeer_agenda (s : State) (p : BitVec 16) (f : Peer → Peer) : (s.mapPeer p f).agenda = s.agenda := rfl
@[simp] theorem State.mapPeer_turn (s : State) (p : BitVec 16) (f : Peer → Peer) : (s.mapPeer p f).turn = s.turn := rfl

/-! ## tick -/

@[simp] theorem State.tick_ctx (s : State) : s.tick.ctx = s.ctx := rfl
@[simp] theorem State.tick_stream (s : State) : s.tick.stream = s.stream := rfl
@[simp] theorem State.tick_others (s : State) : s.tick.others = s.others := rfl
@[simp] theorem State.tick_cores (s : State) : s.tick.cores = s.cores := rfl
@[simp] theorem State.tick_mem (s : State) : s.tick.mem = s.mem := rfl
@[simp] theorem State.tick_ms (s : State) : s.tick.ms = s.ms := rfl
@[simp] theorem State.tick_parts (s : State) : s.tick.parts = s.parts := rfl
@[simp] theorem State.tick_rings (s : State) : s.tick.rings = s.rings := rfl
@[simp] theorem State.tick_nodes (s : State) : s.tick.nodes = s.nodes := rfl
@[simp] theorem State.tick_groups (s : State) : s.tick.groups = s.groups := rfl
@[simp] theorem State.tick_pw (s : State) : s.tick.pw = s.pw := rfl
@[simp] theorem State.tick_net (s : State) : s.tick.net = s.net := rfl
@[simp] theorem State.tick_mg (s : State) : s.tick.mg = s.mg := rfl
@[simp] theorem State.tick_nstime (s : State) : s.tick.nstime = s.nstime := rfl
@[simp] theorem State.tick_fresh (s : State) : s.tick.fresh = s.fresh := rfl
@[simp] theorem State.tick_serial (s : State) : s.tick.serial = s.serial + 1 := rfl
@[simp] theorem State.tick_agenda (s : State) : s.tick.agenda = s.agenda := rfl
@[simp] theorem State.tick_turn (s : State) : s.tick.turn = s.turn := rfl

/-! ## ticks -/

@[simp] theorem State.ticks_ctx (s : State) (n : Nat) : (s.ticks n).ctx = s.ctx := rfl
@[simp] theorem State.ticks_stream (s : State) (n : Nat) : (s.ticks n).stream = s.stream := rfl
@[simp] theorem State.ticks_others (s : State) (n : Nat) : (s.ticks n).others = s.others := rfl
@[simp] theorem State.ticks_cores (s : State) (n : Nat) : (s.ticks n).cores = s.cores := rfl
@[simp] theorem State.ticks_mem (s : State) (n : Nat) : (s.ticks n).mem = s.mem := rfl
@[simp] theorem State.ticks_ms (s : State) (n : Nat) : (s.ticks n).ms = s.ms := rfl
@[simp] theorem State.ticks_parts (s : State) (n : Nat) : (s.ticks n).parts = s.parts := rfl
@[simp] theorem State.ticks_rings (s : State) (n : Nat) : (s.ticks n).rings = s.rings := rfl
@[simp] theorem State.ticks_nodes (s : State) (n : Nat) : (s.ticks n).nodes = s.nodes := rfl
@[simp] theorem State.ticks_groups (s : State) (n : Nat) : (s.ticks n).groups = s.groups := rfl
@[simp] theorem State.ticks_pw (s : State) (n : Nat) : (s.ticks n).pw = s.pw := rfl
@[simp] theorem State.ticks_net (s : State) (n : Nat) : (s.ticks n).net = s.net := rfl
@[simp] theorem State.ticks_mg (s : State) (n : Nat) : (s.ticks n).mg = s.mg := rfl
@[simp] theorem State.ticks_nstime (s : State) (n : Nat) : (s.ticks n).nstime = s.nstime := rfl
@[simp] theorem State.ticks_fresh (s : State) (n : Nat) : (s.ticks n).fresh = s.fresh := rfl
@[simp] theorem State.ticks_serial (s : State) (n : Nat) : (s.ticks n).serial = s.serial + n := rfl
@[simp] theorem State.ticks_agenda (s : State) (n : Nat) : (s.ticks n).agenda = s.agenda := rfl
@[simp] theorem State.ticks_turn (s : State) (n : Nat) : (s.ticks n).turn = s.turn := rfl

end Sys2Proof.Machine
end

