-- ==== Sys2Proof/Laws/Run.lean ====
section
/-!
SUPPORT. What `State.run` does for a stream that is ready, said once, and how the words of the claims read: `begun`,
`complete`, `still`.
-/

namespace Sys2Proof.Machine

variable {s : State} {t : Stream} {sy : Sync}

/-! ## A stream that is ready -/

theorem State.ready_all (h : s.ready t sy = true) :
    s.mayIssue t sy = true ∧ s.ctx.ver = none ∧ s.ctx.spec = none ∧ (s.popped t sy).2 = .clean ∧ s.ctx.c.badX = 0 ∧
      s.ms.badWords = [] := by
  simp only [State.ready, Bool.and_eq_true, Option.isNone_iff_eq_none, decide_eq_true_eq, List.isEmpty_iff] at h
  exact ⟨h.1.1.1.1.1, h.1.1.1.1.2, h.1.1.1.2, h.1.1.2, h.1.2, h.2⟩

theorem State.ready_mayIssue (h : s.ready t sy = true) : s.mayIssue t sy = true := (State.ready_all h).1

theorem State.ready_ver (h : s.ready t sy = true) : s.ctx.ver = none := (State.ready_all h).2.1

theorem State.ready_spec (h : s.ready t sy = true) : s.ctx.spec = none := (State.ready_all h).2.2.1

theorem State.ready_popped (h : s.ready t sy = true) : (s.popped t sy).2 = .clean := (State.ready_all h).2.2.2.1

theorem State.ready_late (h : s.ready t sy = true) : (s.str t).late = none := by
  have := State.ready_mayIssue h
  simp only [State.mayIssue, Bool.and_eq_true, Option.isNone_iff_eq_none] at this
  exact this.1.2

/-- No operand of a ready stream has a residue that disagrees. -/
theorem State.ready_upset (h : s.ready t sy = true) (r : Reads) : s.upset t r = none := by
  obtain ⟨-, -, -, -, hx, hw⟩ := State.ready_all h
  simp [State.upset, State.badReg, hx, hw]

/-- With no epoch open nothing is dependent. -/
theorem State.dep_clean (hv : s.ctx.ver = none) (hs : s.ctx.spec = none) (t : Stream) : s.dep t = .clean := by
  simp [State.dep, Ctx.dep, hv, hs, Dep.clean]

theorem State.ready_dep (h : s.ready t sy = true) (k : Stream) : s.dep k = .clean :=
  State.dep_clean (State.ready_ver h) (State.ready_spec h) k

@[simp] theorem Dep.or_clean (d : Dep) : d.or .clean = d := by simp [Dep.or, Dep.clean]
@[simp] theorem Dep.clean_or (d : Dep) : Dep.clean.or d = d := by simp [Dep.or, Dep.clean]
@[simp] theorem Hold.stops_clean (h : Hold) : h.stops .clean = false := by cases h <;> rfl

/-- With no epoch open, reading a predicate, VL or a view depends on nothing. -/
theorem State.predDep_clean (hv : s.ctx.ver = none) (hs : s.ctx.spec = none) (p : PReg) : s.predDep p = .clean := by
  simp [State.predDep, hv, hs, Dep.clean]
theorem State.vlDep_clean (hv : s.ctx.ver = none) (hs : s.ctx.spec = none) : s.vlDep = .clean := by
  simp [State.vlDep, hv, hs, Dep.clean]
theorem State.viewDep_clean (hv : s.ctx.ver = none) (hs : s.ctx.spec = none) : s.viewDep = .clean := by
  simp [State.viewDep, hv, hs, Dep.clean]
theorem State.rsDep_clean (hv : s.ctx.ver = none) (hs : s.ctx.spec = none) (o n : Nat) : s.rsDep o n = .clean := by
  simp [State.rsDep, hv, hs, Dep.clean]
/-- With no epoch open, the byte ranges that an instruction reads depend on nothing. -/
theorem State.readDep_clean (hv : s.ctx.ver = none) (hs : s.ctx.spec = none) (r : Reads) : s.readDep r = r.dep := by
  simp [State.readDep, hv, hs]
theorem State.maskDep_clean (hv : s.ctx.ver = none) (hs : s.ctx.spec = none) (x : Option VExt) : s.maskDep x = .clean := by
  cases x with
  | none => rfl
  | some x => simp only [State.maskDep, State.predDep_clean hv hs, ite_self]

/-- A fold of clean dependences is clean. -/
theorem Dep.foldl_clean {α : Type} (f : α → Dep) (l : List α) (h : ∀ a ∈ l, f a = .clean) :
    l.foldl (fun (d : Dep) a => d.or (f a)) .clean = .clean := by
  induction l with
  | nil => rfl
  | cons a l ih =>
    simp only [List.foldl_cons, Dep.clean_or, h a (List.mem_cons_self)]
    exact ih fun b hb => h b (List.mem_cons_of_mem _ hb)

/-- What a ready stream does with an instruction that reads nothing dependent: its effect, in the state that `begun`
names, decides. -/
theorem State.run_ready {len : Nat} {hold : Hold} {reads : State → Reads} {body : State → Eff}
    (h : s.ready t sy = true) (hr : (reads s).dep = .clean) :
    s.run t sy len hold reads body =
      match body (s.begun t sy) with
      | .ok u need => .next (u.complete t sy (s.behind t (len + 1)) need ⟨(u.dep t).ver, false⟩)
      | .jump u dest need => .next (u.complete t sy dest need .clean)
      | .trap c v => .next (s.failed (s.begun t sy) t sy .clean c v)
      | .trapAfter f c v => .next ((f s).failed (f (s.begun t sy)) t sy .clean c v)
      | .report which =>
        match s.ctx.order.dropped.find? which with
        | none => .next s
        | some e => .next ((s.mapOrder fun o => { o with dropped := o.dropped.erase e }).failed (s.begun t sy) t sy .clean e.cause e.va)
      | .wait => .next s
      | .stay f => .next (f s)
      | .begin u => .next (u.keepPops t sy .clean)
      | .gone u => .next u := by
  have hp := State.ready_popped h
  have hd := State.readDep_clean (State.ready_ver h) (State.ready_spec h) (reads s)
  unfold State.run
  rw [if_neg (by simp [State.ready_late h]), if_neg (by simp [State.ready_mayIssue h])]
  simp only [hp, hd, hr, State.ready_upset h, Option.filter_none, State.ready_dep h t, Dep.or_clean, Hold.stops_clean, if_true, Bool.false_eq_true,
    if_false, Dep.clean_or]
  rfl

/-- An effect that opens no verification epoch completes. -/
theorem State.run_ok {len : Nat} {hold : Hold} {reads : State → Reads} {body : State → Eff} {u : State} {need : Need}
    (h : s.ready t sy = true) (hr : (reads s).dep = .clean) (hb : body (s.begun t sy) = .ok u need) (hu : u.ctx.ver = none) :
    s.run t sy len hold reads body = .next (u.complete t sy (s.behind t (len + 1)) need .clean) := by
  have hd : (u.dep t).ver = false := by simp [State.dep, Ctx.dep, hu]
  rw [State.run_ready h hr, hb]
  simp only [hd]
  rfl

theorem State.run_fin {len : Nat} {hold : Hold} {reads : State → Reads} {body : State → Eff} {u : State}
    (h : s.ready t sy = true) (hr : (reads s).dep = .clean) (hb : body (s.begun t sy) = .fin u) (hu : u.ctx.ver = none) :
    s.run t sy len hold reads body = .next (u.complete t sy (s.behind t (len + 1)) .now .clean) := State.run_ok h hr hb hu

theorem State.run_jump {len : Nat} {hold : Hold} {reads : State → Reads} {body : State → Eff} {u : State} {pc : Word} {need : Need}
    (h : s.ready t sy = true) (hr : (reads s).dep = .clean) (hb : body (s.begun t sy) = .jump u pc need) :
    s.run t sy len hold reads body = .next (u.complete t sy pc need .clean) := by
  rw [State.run_ready h hr, hb]

/-- A trap of a ready C stream is taken at once. -/
theorem State.run_trap {len : Nat} {hold : Hold} {reads : State → Reads} {body : State → Eff} {c : BitVec 8} {v : Word}
    (h : s.ready .c sy = true) (hr : (reads s).dep = .clean) (hb : body (s.begun .c sy) = .trap c v)
    (hd : (s.begun .c sy).dep .c = .clean) :
    s.run .c sy len hold reads body = .next (s.takeTrap c v) := by
  rw [State.run_ready h hr, hb]
  simp [State.failed, hd, Dep.clean]

/-- `State.run` always answers a next state. -/
theorem State.run_next (s : State) (t : Stream) (sy : Sync) (len : Nat) (hold : Hold) (reads : State → Reads) (body : State → Eff) :
    ∃ u, s.run t sy len hold reads body = .next u := by
  unfold State.run
  split
  · exact ⟨_, rfl⟩
  · split
    · exact ⟨_, rfl⟩
    · dsimp only
      split
      · exact ⟨_, rfl⟩
      · split
        · exact ⟨_, rfl⟩
        · split
          all_goals first
            | exact ⟨_, rfl⟩
            | (split <;> exact ⟨_, rfl⟩)

/-! ## The pops of a ready stream -/

theorem Ctx.mapEpochs_none {c : Ctx} (hv : c.ver = none) (hs : c.spec = none) (d : Dep) (f : Epoch → Epoch) : c.mapEpochs d f = c := by
  cases c; simp_all [Ctx.mapEpochs]

/-- With no epoch open a pop changes the counters only. -/
theorem Ctx.pop1_eq {c : Ctx} (hv : c.ver = none) (hs : c.spec = none) (d : Dep) (k : Fin 10) :
    ∃ tok, c.pop1 d k = { c with tok := tok } := by
  unfold Ctx.pop1
  split
  · exact ⟨c.tok, rfl⟩
  · next g rest _ => exact ⟨c.tok.set k rest, Ctx.mapEpochs_none (c := { c with tok := c.tok.set k rest }) hv hs _ _⟩

theorem Ctx.pops_eq (d : Dep) (l : List (Fin 10)) : ∀ {c : Ctx}, c.ver = none → c.spec = none →
    ∃ tok, l.foldl (fun c k => c.pop1 d k) c = { c with tok := tok } := by
  induction l with
  | nil => intro c _ _; exact ⟨c.tok, rfl⟩
  | cons k l ih =>
    intro c hv hs
    obtain ⟨tok, h⟩ := Ctx.pop1_eq hv hs d k
    obtain ⟨tok', h'⟩ := ih (c := { c with tok := tok }) hv hs
    exact ⟨tok', by rw [List.foldl_cons, h, h']⟩

/-- The state in which an effect starts differs from the state before in token counters and the YIELD mark only. -/
theorem State.begun_eq (hv : s.ctx.ver = none) (hs : s.ctx.spec = none) :
    ∃ tok y z, s.begun t sy = { s with ctx := { s.ctx with tok := tok, c := { s.ctx.c with yielding := y, sleeping := z } } } := by
  have hp : ∃ tok, (s.popped t sy).1 = { s with ctx := { s.ctx with tok := tok } } := by
    unfold State.popped
    split
    · exact ⟨s.ctx.tok, rfl⟩
    · obtain ⟨tok, h⟩ := Ctx.pops_eq (s.dep t) (popsOf t sy) hv hs
      exact ⟨tok, by simp only [State.pop, State.mapCtx, h]⟩
  obtain ⟨tok, hp⟩ := hp
  unfold State.begun State.unyield
  rw [hp]
  by_cases ht : t = .c
  · exact ⟨tok, false, false, by rw [if_pos ht]; rfl⟩
  · exact ⟨tok, s.ctx.c.yielding, s.ctx.c.sleeping, by rw [if_neg ht]⟩

/-- What an instruction reads in the state in which its effect starts. -/
structure State.Agrees (s u : State) : Prop where
  x : ∀ r, u.x r = s.x r
  pr : ∀ r, u.pr r = s.pr r
  str : ∀ t, u.str t = s.str t
  sys : u.ctx.sys = s.ctx.sys
  vx : u.ctx.vx = s.ctx.vx
  mx : u.ctx.mx = s.ctx.mx
  ld : u.ctx.ld = s.ctx.ld
  st : u.ctx.st = s.ctx.st
  coll : u.ctx.coll = s.ctx.coll
  order : u.ctx.order = s.ctx.order
  key : u.ctx.key = s.ctx.key
  launch : u.ctx.launch = s.ctx.launch
  ident : u.ctx.ident = s.ctx.ident
  win : u.ctx.win = s.ctx.win
  handles : u.ctx.handles = s.ctx.handles
  releases : u.ctx.releases = s.ctx.releases
  queues : u.ctx.queues = s.ctx.queues
  cb : u.ctx.cb = s.ctx.cb
  pend : u.ctx.pend = s.ctx.pend
  live : u.ctx.live = s.ctx.live
  ver : u.ctx.ver = s.ctx.ver
  spec : u.ctx.spec = s.ctx.spec
  stack : u.ctx.c.stack = s.ctx.c.stack
  stackbase : u.ctx.c.stackbase = s.ctx.c.stackbase
  trapcause : u.ctx.c.trapcause = s.ctx.c.trapcause
  trappc : u.ctx.c.trappc = s.ctx.c.trappc
  trapvec : u.ctx.c.trapvec = s.ctx.c.trapvec
  trapstream : u.ctx.c.trapstream = s.ctx.c.trapstream
  trapval : u.ctx.c.trapval = s.ctx.c.trapval
  foldSeq : u.ctx.c.foldSeq = s.ctx.c.foldSeq
  left : u.ctx.c.left = s.ctx.c.left
  cores : u.cores = s.cores
  mem : u.mem = s.mem
  ms : u.ms = s.ms
  parts : u.parts = s.parts
  nodes : u.nodes = s.nodes
  groups : u.groups = s.groups
  pw : u.pw = s.pw
  mg : u.mg = s.mg
  nstime : u.nstime = s.nstime
  stream : u.stream = s.stream
  others : u.others = s.others
  fresh : u.fresh = s.fresh
  serial : u.serial = s.serial

/-- The state in which a ready instruction's effect starts reads as the state before. -/
theorem State.begun_agrees (h : s.ready t sy = true) : s.Agrees (s.begun t sy) := by
  obtain ⟨tok, y, z, e⟩ := State.begun_eq (t := t) (sy := sy) (State.ready_ver h) (State.ready_spec h)
  rw [e]
  constructor <;> first | rfl | (intro r; rfl)

/-! ## `still` -/

theorem State.begun_still (h : s.ready t sy = true) : (s.begun t sy).still = s.still := by
  obtain ⟨tok, y, z, e⟩ := State.begun_eq (t := t) (sy := sy) (State.ready_ver h) (State.ready_spec h)
  rw [e]; rfl

theorem Ctx.push1_still {c c' : Ctx} {k : Fin 10} {d : Dep} (h : c.push1 k d = some c') : c'.still = c.still := by
  unfold Ctx.push1 at h
  split at h
  · simp only [Option.some.injEq] at h; subst h; rfl
  · cases h

theorem Ctx.drainPushes_still (t : Stream) (ps : List Push) : ∀ c : Ctx, ((Ctx.drainPushes t c ps).1).still = c.still := by
  induction ps with
  | nil => intro c; rfl
  | cons p ps ih =>
    intro c
    have try1 : ∀ (c : Ctx) (b : Bool) (k : Fin 10) (r : Ctx × Bool),
        r = (if b then (match c.push1 k p.dep with | some c => (c, false) | none => (c, true)) else (c, false)) →
        r.1.still = c.still := by
      intro c b k r hr
      subst hr
      cases b
      · rfl
      · simp only [if_true]
        cases hp : c.push1 k p.dep with
        | none => rfl
        | some c' => exact Ctx.push1_still hp
    unfold Ctx.drainPushes
    by_cases hr : c.ready t p.need = true
    · rw [if_pos hr]
      generalize h1 : (if p.toPrev = true then
        (match c.push1 t.prev.back p.dep with | some c => (c, false) | none => (c, true)) else (c, false)) = r1
      have e1 := try1 c _ _ r1 h1.symm
      obtain ⟨c1, b1⟩ := r1
      dsimp only
      generalize h2 : (if p.toNext = true then
        (match c1.push1 t.forth p.dep with | some c => (c, false) | none => (c1, true)) else (c1, false)) = r2
      have e2 := try1 c1 _ _ r2 h2.symm
      obtain ⟨c2, b2⟩ := r2
      dsimp only at e1 e2 ⊢
      split
      · exact e2.trans e1
      · exact (ih _).trans (e2.trans e1)
    · rw [if_neg hr]

theorem Ctx.settle1_still (c : Ctx) (t : Stream) : (c.settle1 t).still = c.still := by
  unfold Ctx.settle1
  split
  · rfl
  · next ps _ =>
    have h := Ctx.drainPushes_still t (c.streams[t.ix]).pushes c
    rw [← h]
    simp only [Ctx.still, Ctx.mk.injEq, true_and, and_true]
    apply Vector.ext
    intro i hi
    by_cases hit : i = t.ix.val
    · subst hit; simp
    · simp [Vector.getElem_set_ne, Ne.symm hit]

theorem Ctx.settle_still (c : Ctx) : c.settle.still = c.still := by
  simp only [Ctx.settle, Stream.all, List.foldl_cons, List.foldl_nil, Ctx.settle1_still]

/-- The end of an instruction moves its stream's program counter, and keeps the rest. -/
theorem State.complete_still (u : State) (t : Stream) (sy : Sync) (pc : Word) (need : Need) (d : Dep) :
    (u.complete t sy pc need d).still = (u.at t pc).still := by
  unfold State.complete State.still State.at
  simp only [State.mapCtx, State.mapStr, Ctx.settle_still]
  congr 1
  simp only [Ctx.still, Ctx.mk.injEq, true_and, and_true]
  apply Vector.ext
  intro i hi
  by_cases hit : i = t.ix.val
  · subst hit; simp
  · simp [Vector.getElem_set_ne, Ne.symm hit]

/-- Equal but for the sync bits, and moved to the same program counter, they stay so. -/
theorem State.at_still {u e : State} (h : u.still = e.still) (t : Stream) (pc : Word) : (u.at t pc).still = (e.at t pc).still := by
  have key : ∀ w : State, (w.at t pc).still = w.still.at t pc := by
    intro w
    unfold State.at State.still
    simp only [State.mapStr, State.mapCtx, Ctx.still, State.mk.injEq, Ctx.mk.injEq, true_and, and_true]
    apply Vector.ext
    intro i hi
    by_cases hit : i = t.ix.val
    · subst hit; simp
    · simp [Vector.getElem_set_ne, Ne.symm hit]
  rw [key, key, h]

/-- Writes of registers and of memory go through `still`. -/
theorem State.setX_still (u : State) (r : XReg) (v : Word) : (u.setX r v).still = u.still.setX r v := by
  unfold State.setX; split <;> rfl
theorem State.mapSys_still (u : State) (f : SysRegs → SysRegs) : (u.mapSys f).still = u.still.mapSys f := rfl
theorem State.mapVx_still (u : State) (f : VRegs → VRegs) : (u.mapVx f).still = u.still.mapVx f := rfl
theorem State.mapMx_still (u : State) (f : MRegs → MRegs) : (u.mapMx f).still = u.still.mapMx f := rfl
theorem State.mapColl_still (u : State) (f : CollSt → CollSt) : (u.mapColl f).still = u.still.mapColl f := rfl
theorem State.mapCore_still (u : State) (k : Nat) (f : Core → Core) : (u.mapCore k f).still = u.still.mapCore k f := rfl
theorem State.setP_still (u : State) (t : Stream) (r : PReg) (v : BitVec 1024) (hv : u.ctx.ver = none) (hs : u.ctx.spec = none) :
    (u.setP t r v).still = u.still.mapCtx fun c => { c with p := c.p.set r v } := by
  simp only [State.setP, State.mapCtx, Ctx.mapEpochs_none hv hs]; rfl

/-- An instruction that writes a scalar register gives just that. -/
theorem State.givesX_of {i : Instr} {n : Nat} {rd : XReg} {v : Word} {u : State} {need : Need}
    (h : s.ready .c sy = true) (he : exec i s = .next (u.complete .c sy (s.behind .c n) need .clean))
    (hu : u.still = ((s.begun .c sy).setX rd v).still) : s.givesX i n rd v := by
  refine ⟨_, he, ?_⟩
  rw [State.complete_still]
  apply State.at_still
  rw [hu, State.setX_still, State.setX_still, State.begun_still h]

/-- An instruction that ends in a state which is `e` but for the sync bits gives `e`. -/
theorem State.gives_of {i : Instr} {t : Stream} {pc : Word} {u e : State} {need : Need} {d : Dep}
    (he : exec i s = .next (u.complete t sy pc need d)) (hu : u.still = e.still) : s.gives i t pc e :=
  ⟨_, he, by rw [State.complete_still]; exact State.at_still hu t pc⟩

end Sys2Proof.Machine
end

