-- ==== Sys2Proof/Laws/Frame.lean ====
section
/-!
SUPPORT. What the frame of the claims says field by field, what the canonical form of the tables needs of an update, and
what trap entry, trap return and engine faults leave alone.
-/

namespace Sys2Proof.Machine

/-- Equality but for the sync bits says that every register of every kind, every program counter, every accumulator slot
and every byte of memory is the same. -/
theorem State.still_reads {u e : State} (h : u.still = e.still) :
    (∀ r, u.x r = e.x r) ∧ (∀ r, u.pr r = e.pr r) ∧ u.ctx.vx = e.ctx.vx ∧ u.ctx.mx = e.ctx.mx ∧ u.ctx.ld = e.ctx.ld ∧
    u.ctx.st = e.ctx.st ∧ u.ctx.c.stack = e.ctx.c.stack ∧ u.cores = e.cores ∧ (∀ a, u.mem.get a = e.mem.get a) ∧
    u.others = e.others ∧ u.ms = e.ms ∧ u.nodes = e.nodes := by
  have of {α : Type} (f : State → α) (hf : ∀ w : State, f w.still = f w) : f u = f e := by rw [← hf u, ← hf e, h]
  exact ⟨fun r => of (State.x · r) fun _ => rfl, fun r => of (State.pr · r) fun _ => rfl, of (·.ctx.vx) fun _ => rfl,
    of (·.ctx.mx) fun _ => rfl, of (·.ctx.ld) fun _ => rfl, of (·.ctx.st) fun _ => rfl, of (·.ctx.c.stack) fun _ => rfl,
    of (·.cores) fun _ => rfl, fun a => of (·.mem.get a) fun _ => rfl, of (·.others) fun _ => rfl, of (·.ms) fun _ => rfl,
    of (·.nodes) fun _ => rfl⟩

/-! ## The canonical form of the tables -/

theorem Table.mapVals_okFrom {α : Type} [DecidableEq α] {d : α} (f : α → α) {t : Table α} : ∀ {lo : Nat},
    Table.okFrom d lo t = true → Table.okFrom d lo (Table.mapVals d f t) = true := by
  induction t with
  | nil => intro lo _; rfl
  | cons e t ih =>
    obtain ⟨k, v⟩ := e
    intro lo h
    simp only [Table.okFrom, Bool.and_eq_true, decide_eq_true_eq] at h
    have rest := ih h.2
    by_cases hf : f v = d
    · simp only [Table.mapVals, List.filterMap_cons, hf, if_true]
      exact Table.okFrom_mono (Nat.le_succ_of_le h.1.1) rest
    · simp only [Table.mapVals, List.filterMap_cons, hf, if_false, Table.okFrom, Bool.and_eq_true, decide_eq_true_eq, ne_eq,
        not_false_eq_true, and_true]
      exact ⟨h.1.1, rest⟩

theorem State.tablesOk_iff (s : State) : s.tablesOk = true ↔ s.mem.wf = true ∧ Table.wf Core.init s.cores = true := by
  simp [State.tablesOk]

/-- A change of one core keeps the tables canonical. -/
theorem State.tablesOk_mapCore {s : State} (c : Nat) (f : Core → Core) (h : s.tablesOk = true) : (s.mapCore c f).tablesOk = true := by
  rw [State.tablesOk_iff] at h ⊢
  exact ⟨h.1, Table.set_okFrom (Nat.zero_le _) h.2⟩

/-- A change of memory that keeps memory canonical keeps the tables canonical. -/
theorem State.tablesOk_mem {s : State} {m : Memory} (h : s.tablesOk = true) (hm : m.wf = true) :
    ({ s with mem := m } : State).tablesOk = true := by
  rw [State.tablesOk_iff] at h ⊢
  exact ⟨hm, h.2⟩

@[simp] theorem State.tablesOk_mapCtx (s : State) (f : Ctx → Ctx) : (s.mapCtx f).tablesOk = s.tablesOk := rfl
@[simp] theorem State.tablesOk_mapC (s : State) (f : CRegs → CRegs) : (s.mapC f).tablesOk = s.tablesOk := rfl
@[simp] theorem State.tablesOk_mapStr (s : State) (t : Stream) (f : StreamSt → StreamSt) : (s.mapStr t f).tablesOk = s.tablesOk := rfl
@[simp] theorem State.tablesOk_mapVx (s : State) (f : VRegs → VRegs) : (s.mapVx f).tablesOk = s.tablesOk := rfl
@[simp] theorem State.tablesOk_mapMx (s : State) (f : MRegs → MRegs) : (s.mapMx f).tablesOk = s.tablesOk := rfl
@[simp] theorem State.tablesOk_mapSys (s : State) (f : SysRegs → SysRegs) : (s.mapSys f).tablesOk = s.tablesOk := rfl
@[simp] theorem State.tablesOk_mapColl (s : State) (f : CollSt → CollSt) : (s.mapColl f).tablesOk = s.tablesOk := rfl
@[simp] theorem State.tablesOk_tick (s : State) : s.tick.tablesOk = s.tablesOk := rfl
theorem State.tablesOk_setX (s : State) (r : XReg) (v : Word) : (s.setX r v).tablesOk = s.tablesOk := by unfold State.setX; split <;> rfl
theorem State.tablesOk_complete (s : State) (t : Stream) (sy : Sync) (pc : Word) (need : Need) (d : Dep) :
    (s.complete t sy pc need d).tablesOk = s.tablesOk := rfl

/-! ## Keys and reductions (R225, R284) -/

section Keys

variable {s : State} {pa n : Nat}

/-- Where no sector is encrypted, an access under key 0 finds what memory holds. -/
theorem State.rekey_plain (h : s.ms.sealed = []) : s.rekey pa n 0 = s := by simp [State.rekey, h]

/-- Where no sector is encrypted, a write under key 0 encrypts none. -/
theorem State.seal_plain (h : s.ms.sealed = []) : s.seal pa n 0 = s := by simp [State.seal, h]

/-- Beyond HBM no key applies. -/
theorem State.rekey_beyond (h : hbmTop ≤ pa) (key : BitVec 8) : s.rekey pa n key = s := by simp [State.rekey, h]

/-- Beyond HBM no write encrypts. -/
theorem State.seal_beyond (h : hbmTop ≤ pa) (key : BitVec 8) : s.seal pa n key = s := by simp [State.seal, h]

/-- Where nothing is being reduced, nothing is merged. -/
theorem State.mergeRange_plain (h : s.ms.red = []) : s.mergeRange pa n = s := by simp [State.mergeRange, h]

/-- A read by the part itself, where nothing is reduced and no sector is encrypted, changes nothing. -/
theorem State.readHome_plain (hr : s.ms.red = []) (hs : s.ms.sealed = []) : s.readHome pa n = (s.mem.getBytes pa n, s) := by
  unfold State.readHome
  rw [State.rekey_plain hs, State.mergeRange_plain hr]

theorem State.tablesOk_turnSector (old new : Option (BitVec 512)) (sec : Nat) (h : s.tablesOk = true) :
    (s.turnSector old new sec).tablesOk = true :=
  State.tablesOk_mem (s := s.mapMs _) h (Memory.wf_setBytes _ _ ((State.tablesOk_iff _).mp h).1)

/-- A key's application to one sector keeps the tables canonical. -/
theorem State.tablesOk_rekey1 (key : BitVec 8) (sec : Nat) (h : s.tablesOk = true) : (s.rekey1 key sec).tablesOk = true := by
  unfold State.rekey1
  simp only
  split
  · exact h
  · split
    · split
      · exact State.tablesOk_turnSector (s := s.draw.2) _ _ _ h
      · exact h
    · exact State.tablesOk_turnSector _ _ _ h

/-- A key's application keeps the tables canonical. -/
theorem State.tablesOk_rekey (key : BitVec 8) (h : s.tablesOk = true) : (s.rekey pa n key).tablesOk = true := by
  unfold State.rekey
  split
  · exact h
  · rename_i hc
    clear hc
    generalize sectorsOf pa n = l
    induction l generalizing s with
    | nil => exact h
    | cons k l ih => exact ih (State.tablesOk_rekey1 key k h)

end Keys

/-! ## Traps and engine faults -/

/-- Trap entry proper: what it writes, and what it leaves (R332). -/
theorem State.enterTrap_spec (s : State) (r : TrapRec) :
    (s.enterTrap r).ctx.c.trapcause = r.cause ∧ (s.enterTrap r).ctx.c.trappc = r.pc ∧ (s.enterTrap r).ctx.c.trapval = r.val ∧
    (s.enterTrap r).ctx.c.trapstream = r.stream ∧ (s.enterTrap r).pcOf .c = s.handler ∧
    (s.enterTrap r).mem = s.mem ∧ (s.enterTrap r).cores = s.cores ∧ (s.enterTrap r).ms = s.ms ∧ (s.enterTrap r).others = s.others ∧
    (s.enterTrap r).ctx.p = s.ctx.p ∧ (s.enterTrap r).ctx.vx = s.ctx.vx ∧ (s.enterTrap r).ctx.mx = s.ctx.mx ∧
    (s.enterTrap r).ctx.ld = s.ctx.ld ∧ (s.enterTrap r).ctx.st = s.ctx.st ∧ (s.enterTrap r).ctx.sys = s.ctx.sys ∧
    (∀ k, (s.enterTrap r).x k = s.x k) := by
  refine ⟨rfl, rfl, rfl, rfl, ?_, rfl, rfl, rfl, rfl, rfl, rfl, rfl, rfl, rfl, rfl, fun _ => rfl⟩
  simp [State.enterTrap, State.pcOf, State.str, State.mapStr, State.mapCtx]

/-- Taking a trap with a handler, outside of one, is trap entry after held pops are returned (R332). -/
theorem State.takeTrapRec_enters {s : State} (r : TrapRec) (hs : s.hs = false) (hh : s.handler ≠ 0) :
    s.takeTrapRec r =
      (((s.mapCtx (·.returnHeld .c)).mapStr .c fun x => { x with held := none }).mapC fun c => { c with vwait := none }).enterTrap r := by
  have keep : (s.ctx.returnHeld .c).c = s.ctx.c := by
    unfold Ctx.returnHeld
    split
    · rfl
    · dsimp only; split <;> split <;> rfl
  have e1 : (((s.mapCtx (·.returnHeld .c)).mapStr .c fun x => { x with held := none }).mapC fun c => { c with vwait := none }).hs =
      s.hs := by
    show ((s.ctx.returnHeld .c).c.trapcause.getLsbD 15) = _
    rw [keep]; rfl
  have e2 : (((s.mapCtx (·.returnHeld .c)).mapStr .c fun x => { x with held := none }).mapC fun c => { c with vwait := none }).handler =
      s.handler := by
    show ((s.ctx.returnHeld .c).c.trapvec &&& _) = _
    rw [keep]; rfl
  unfold State.takeTrapRec
  rw [if_neg]
  rw [e1, e2, hs]
  rintro (h | h)
  · cases h
  · exact hh h

/-- Returning from a trap clears HS and leaves memory, cores and registers (R336). -/
theorem State.returnTrap_spec (s : State) :
    s.returnTrap.hs = false ∧ s.returnTrap.mem = s.mem ∧ s.returnTrap.cores = s.cores ∧ s.returnTrap.ms = s.ms ∧
    s.returnTrap.others = s.others ∧ s.returnTrap.ctx.vx = s.ctx.vx ∧ s.returnTrap.ctx.mx = s.ctx.mx ∧
    s.returnTrap.ctx.c.trappc = s.ctx.c.trappc ∧ (∀ k, s.returnTrap.x k = s.x k) := by
  unfold State.returnTrap
  dsimp only
  split <;> refine ⟨?_, rfl, rfl, rfl, rfl, rfl, rfl, rfl, fun _ => rfl⟩ <;>
    (show BitVec.getLsbD (_ &&& ~~~0x8000#64) 15 = false; simp)

/-- An engine fault stops its stream and leaves memory, cores and registers (R328, R337). -/
theorem State.recordFault_spec (s : State) (t : Stream) (c : BitVec 8) (v : Word) :
    (s.recordFault t c v).str t = { s.str t with busy := false, fault := some (c, v, s.pcOf t), late := none } ∧
    (s.recordFault t c v).mem = s.mem ∧ (s.recordFault t c v).cores = s.cores ∧ (s.recordFault t c v).ms = s.ms ∧
    (s.recordFault t c v).ctx.vx = s.ctx.vx ∧ (s.recordFault t c v).ctx.mx = s.ctx.mx ∧ (∀ k, (s.recordFault t c v).x k = s.x k) := by
  unfold State.recordFault
  dsimp only
  split
  · refine ⟨?_, rfl, rfl, rfl, rfl, rfl, fun _ => rfl⟩
    simp [State.str, State.mapStr, State.mapOrder, State.mapCtx, State.pcOf]
  · have keep : ∀ (c : Ctx) (p : Pend), (c.addPend p).streams = c.streams ∧ (c.addPend p).vx = c.vx ∧ (c.addPend p).mx = c.mx ∧
        (c.addPend p).c = c.c := by
      intro c p; unfold Ctx.addPend; split <;> exact ⟨rfl, rfl, rfl, rfl⟩
    refine ⟨?_, rfl, rfl, rfl, (keep _ _).2.1, (keep _ _).2.2.1, fun k => ?_⟩
    · show ((Ctx.addPend _ _).streams)[t.ix] = _
      rw [(keep _ _).1]
      simp [State.str, State.mapStr, State.mapOrder, State.mapCtx, State.pcOf]
    · unfold State.x
      show (if _ then _ else ((Ctx.addPend _ _).c.x)[k]) = _
      rw [(keep _ _).2.2.2]
      rfl

end Sys2Proof.Machine
end

