-- ==== Sys2Proof/Laws/PerInstr.lean ====
section
/-!
SUPPORT. Claims about every instruction as syntax, one lemma per constructor.
-/

namespace Sys2Proof.Laws

/-- At most three words, each of 32 bits (R21). -/
def Fits (l : List Nat) : Prop := l.length ≤ 3 ∧ ∀ w ∈ l, w < 2 ^ 32

/-- A first word is below 2^32 when its fields are in their ranges. -/
theorem first_lt (sy : Sync) {n op low : Nat} (hn : n < 4) (ho : op < 64) (hl : low < 2 ^ 20) : first sy n op low < 2 ^ 32 := by
  have h (b : Bool) : bitOf b ≤ 1 := by cases b <;> decide
  have := h sy.wp
  have := h sy.wn
  have := h sy.sp
  have := h sy.sn
  simp only [first, Sync.toNat]
  omega

theorem bitOf_le (b : Bool) : bitOf b ≤ 1 := by cases b <;> decide

theorem Fits.nil : Fits [] := by simp [Fits]

theorem Fits.one (sy : Sync) {op low : Nat} (ho : op < 64) (hl : low < 2 ^ 20) : Fits (one sy op low) := by
  simp only [Fits, Sys2Proof.one, List.length_singleton, List.mem_singleton, forall_eq]
  exact ⟨by decide, first_lt sy (by decide) ho hl⟩

theorem Fits.two (sy : Sync) {op low e : Nat} (ho : op < 64) (hl : low < 2 ^ 20) (he : e < 2 ^ 32) : Fits (two sy op low e) := by
  simp only [Fits, Sys2Proof.two, List.mem_cons, List.not_mem_nil, or_false, forall_eq_or_imp, forall_eq]
  exact ⟨by simp, first_lt sy (by decide) ho hl, he⟩

theorem Fits.three (sy : Sync) {op low e f : Nat} (ho : op < 64) (hl : low < 2 ^ 20) (he : e < 2 ^ 32) (hf : f < 2 ^ 32) :
    Fits [first sy 2 op low, e, f] := by
  simp only [Fits, List.mem_cons, List.not_mem_nil, or_false, forall_eq_or_imp, forall_eq]
  exact ⟨by simp, first_lt sy (by decide) ho hl, he, hf⟩

theorem Fits.cr (sy : Sync) {op fn : Nat} (d a b : Fin 64) (ho : op < 64) (hf : fn < 4) : Fits (encCr sy op fn d.val a.val b.val) :=
  Fits.one sy ho (by omega)

theorem Fits.vext (e : VExt) : e.toNat < 2 ^ 32 := by
  have := bitOf_le e.pe
  have := bitOf_le e.pz
  have := bitOf_le e.nf
  have := bitOf_le e.sat
  have := bitOf_le e.bs
  simp only [VExt.toNat]
  omega

theorem Fits.v (sy : Sync) {op fn d a b : Nat} (e : Option VExt) (ho : op < 64) (hf : fn < 32) (hd : d < 32) (ha : a < 32)
    (hb : b < 32) : Fits (encV sy op fn d a b e) := by
  cases e with
  | none => exact Fits.one sy ho (by omega)
  | some e => exact Fits.two sy ho (by omega) (Fits.vext e)

theorem Hint.code_lt (h : Hint) : h.code < 4 := by cases h <;> decide
theorem Size.code_lt (z : Size) : z.code < 4 := by cases z <;> decide
theorem Scope.code_lt (z : Scope) : z.code < 8 := by cases z <;> decide
theorem Cc.code_lt (z : Cc) : z.code < 16 := by cases z <;> decide
theorem Engine.code_lt (z : Engine) : z.code < 8 := by cases z <;> decide
theorem ewaitCode_lt (z : Option Engine) : ewaitCode z < 8 := by cases z with | none => decide | some e => cases e <;> decide
theorem PQ.code_lt (z : PQ) : z.code < 8 := by cases z <;> decide
theorem Rights.code_lt (z : Rights) : z.code < 4 := by cases z <;> decide
theorem AmoOp.code_lt (z : AmoOp) : z.code < 16 := by cases z <;> decide
theorem RedOp.code_lt (z : RedOp) : z.code < 8 := by cases z <;> decide
theorem RedCopy.code_lt (z : RedCopy) : z.code < 8 := by cases z <;> decide
theorem CbrOp.code_lt (z : CbrOp) : z.code < 4 := by cases z <;> decide
theorem ElemTy.code_lt (z : ElemTy) : z.code < 16 := by cases z <;> decide

theorem dblCode_lt (d : Bool) : dblCode d < 4 := by cases d <;> decide

theorem cm_lt (rd ra : Fin 64) (c : Fin 16) (h : Hint) (z : Size) : cm rd.val ra.val c h z < 2 ^ 20 := by
  have := Hint.code_lt h
  have := Size.code_lt z
  simp only [cm]
  omega

theorem xw_lt {a b c d : Nat} (ha : a < 64) (hb : b < 64) (hc : c < 16) (hd : d < 16) : xw a b c d < 2 ^ 20 := by
  simp only [xw]
  omega

/-- The words of an instruction are at most three, and each has 32 bits (R21). -/
def Encoding.Statement (i : Instr) : Prop := Fits (encode i)

theorem Encoding.nop (sy : Sync) : Encoding.Statement (.nop sy) := by
  exact Fits.one sy (by decide) (by omega)
theorem Encoding.done (sy : Sync) : Encoding.Statement (.done sy) := by
  exact Fits.one sy (by decide) (by omega)
theorem Encoding.yield (sy : Sync) : Encoding.Statement (.yield sy) := by
  exact Fits.one sy (by decide) (by omega)
theorem Encoding.trap (sy : Sync) (imm : BitVec 12) : Encoding.Statement (.trap sy imm) := by
  exact Fits.one sy (by decide) (by omega)
theorem Encoding.eret (sy : Sync) : Encoding.Statement (.eret sy) := by
  exact Fits.one sy (by decide) (by omega)
theorem Encoding.brk (sy : Sync) : Encoding.Statement (.brk sy) := by
  exact Fits.one sy (by decide) (by omega)
theorem Encoding.wfe (sy : Sync) (m : BitVec 6) : Encoding.Statement (.wfe sy m) := by
  exact Fits.one sy (by decide) (by omega)
theorem Encoding.evclr (sy : Sync) (m : BitVec 6) : Encoding.Statement (.evclr sy m) := by
  exact Fits.one sy (by decide) (by omega)
theorem Encoding.ret (sy : Sync) : Encoding.Statement (.ret sy) := by
  exact Fits.one sy (by decide) (by omega)
theorem Encoding.fence (sy : Sync) (classes : BitVec 16) (scope : Scope) (ro : Bool) : Encoding.Statement (.fence sy classes scope ro) := by
  have := Scope.code_lt scope
  have := bitOf_le ro
  exact Fits.one sy (by decide) (by omega)
theorem Encoding.add (sy : Sync) (rd : XReg) (ra : XReg) (rb : XReg) : Encoding.Statement (.add sy rd ra rb) := Fits.cr sy _ _ _ (by decide) (by decide)
theorem Encoding.sub (sy : Sync) (rd : XReg) (ra : XReg) (rb : XReg) : Encoding.Statement (.sub sy rd ra rb) := Fits.cr sy _ _ _ (by decide) (by decide)
theorem Encoding.and (sy : Sync) (rd : XReg) (ra : XReg) (rb : XReg) : Encoding.Statement (.and sy rd ra rb) := Fits.cr sy _ _ _ (by decide) (by decide)
theorem Encoding.or (sy : Sync) (rd : XReg) (ra : XReg) (rb : XReg) : Encoding.Statement (.or sy rd ra rb) := Fits.cr sy _ _ _ (by decide) (by decide)
theorem Encoding.xor (sy : Sync) (rd : XReg) (ra : XReg) (rb : XReg) : Encoding.Statement (.xor sy rd ra rb) := Fits.cr sy _ _ _ (by decide) (by decide)
theorem Encoding.shl (sy : Sync) (rd : XReg) (ra : XReg) (rb : XReg) : Encoding.Statement (.shl sy rd ra rb) := Fits.cr sy _ _ _ (by decide) (by decide)
theorem Encoding.shr (sy : Sync) (rd : XReg) (ra : XReg) (rb : XReg) : Encoding.Statement (.shr sy rd ra rb) := Fits.cr sy _ _ _ (by decide) (by decide)
theorem Encoding.sra (sy : Sync) (rd : XReg) (ra : XReg) (rb : XReg) : Encoding.Statement (.sra sy rd ra rb) := Fits.cr sy _ _ _ (by decide) (by decide)
theorem Encoding.mul (sy : Sync) (rd : XReg) (ra : XReg) (rb : XReg) : Encoding.Statement (.mul sy rd ra rb) := Fits.cr sy _ _ _ (by decide) (by decide)
theorem Encoding.mulh (sy : Sync) (rd : XReg) (ra : XReg) (rb : XReg) : Encoding.Statement (.mulh sy rd ra rb) := Fits.cr sy _ _ _ (by decide) (by decide)
theorem Encoding.mulhu (sy : Sync) (rd : XReg) (ra : XReg) (rb : XReg) : Encoding.Statement (.mulhu sy rd ra rb) := Fits.cr sy _ _ _ (by decide) (by decide)
theorem Encoding.div (sy : Sync) (rd : XReg) (ra : XReg) (rb : XReg) : Encoding.Statement (.div sy rd ra rb) := Fits.cr sy _ _ _ (by decide) (by decide)
theorem Encoding.divu (sy : Sync) (rd : XReg) (ra : XReg) (rb : XReg) : Encoding.Statement (.divu sy rd ra rb) := Fits.cr sy _ _ _ (by decide) (by decide)
theorem Encoding.rem (sy : Sync) (rd : XReg) (ra : XReg) (rb : XReg) : Encoding.Statement (.rem sy rd ra rb) := Fits.cr sy _ _ _ (by decide) (by decide)
theorem Encoding.remu (sy : Sync) (rd : XReg) (ra : XReg) (rb : XReg) : Encoding.Statement (.remu sy rd ra rb) := Fits.cr sy _ _ _ (by decide) (by decide)
theorem Encoding.min (sy : Sync) (rd : XReg) (ra : XReg) (rb : XReg) : Encoding.Statement (.min sy rd ra rb) := Fits.cr sy _ _ _ (by decide) (by decide)
theorem Encoding.max (sy : Sync) (rd : XReg) (ra : XReg) (rb : XReg) : Encoding.Statement (.max sy rd ra rb) := Fits.cr sy _ _ _ (by decide) (by decide)
theorem Encoding.minu (sy : Sync) (rd : XReg) (ra : XReg) (rb : XReg) : Encoding.Statement (.minu sy rd ra rb) := Fits.cr sy _ _ _ (by decide) (by decide)
theorem Encoding.maxu (sy : Sync) (rd : XReg) (ra : XReg) (rb : XReg) : Encoding.Statement (.maxu sy rd ra rb) := Fits.cr sy _ _ _ (by decide) (by decide)
theorem Encoding.mov (sy : Sync) (rd : XReg) (ra : XReg) : Encoding.Statement (.mov sy rd ra) := Fits.cr sy _ _ 0 (by decide) (by decide)
theorem Encoding.popc (sy : Sync) (rd : XReg) (ra : XReg) : Encoding.Statement (.popc sy rd ra) := Fits.cr sy _ _ 0 (by decide) (by decide)
theorem Encoding.clz (sy : Sync) (rd : XReg) (ra : XReg) : Encoding.Statement (.clz sy rd ra) := Fits.cr sy _ _ 0 (by decide) (by decide)
theorem Encoding.ctz (sy : Sync) (rd : XReg) (ra : XReg) : Encoding.Statement (.ctz sy rd ra) := Fits.cr sy _ _ 0 (by decide) (by decide)
theorem Encoding.addi (sy : Sync) (rd : XReg) (ra : XReg) (imm : BitVec 8) : Encoding.Statement (.addi sy rd ra imm) := by
  exact Fits.one sy (by decide) (by omega)
theorem Encoding.addiLen1 (sy : Sync) (rd : XReg) (ra : XReg) (imm : BitVec 36) : Encoding.Statement (.addiLen1 sy rd ra imm) := by
  exact Fits.two sy (by decide) (by omega) (by omega)
theorem Encoding.addiLen2 (sy : Sync) (rd : XReg) (ra : XReg) (imm : BitVec 64) : Encoding.Statement (.addiLen2 sy rd ra imm) := by
  exact Fits.three sy (by decide) (by omega) (by omega) (by omega)
theorem Encoding.andi (sy : Sync) (rd : XReg) (ra : XReg) (imm : BitVec 8) : Encoding.Statement (.andi sy rd ra imm) := by
  exact Fits.one sy (by decide) (by omega)
theorem Encoding.andiLen1 (sy : Sync) (rd : XReg) (ra : XReg) (imm : BitVec 36) : Encoding.Statement (.andiLen1 sy rd ra imm) := by
  exact Fits.two sy (by decide) (by omega) (by omega)
theorem Encoding.andiLen2 (sy : Sync) (rd : XReg) (ra : XReg) (imm : BitVec 64) : Encoding.Statement (.andiLen2 sy rd ra imm) := by
  exact Fits.three sy (by decide) (by omega) (by omega) (by omega)
theorem Encoding.ori (sy : Sync) (rd : XReg) (ra : XReg) (imm : BitVec 8) : Encoding.Statement (.ori sy rd ra imm) := by
  exact Fits.one sy (by decide) (by omega)
theorem Encoding.oriLen1 (sy : Sync) (rd : XReg) (ra : XReg) (imm : BitVec 36) : Encoding.Statement (.oriLen1 sy rd ra imm) := by
  exact Fits.two sy (by decide) (by omega) (by omega)
theorem Encoding.oriLen2 (sy : Sync) (rd : XReg) (ra : XReg) (imm : BitVec 64) : Encoding.Statement (.oriLen2 sy rd ra imm) := by
  exact Fits.three sy (by decide) (by omega) (by omega) (by omega)
theorem Encoding.xori (sy : Sync) (rd : XReg) (ra : XReg) (imm : BitVec 8) : Encoding.Statement (.xori sy rd ra imm) := by
  exact Fits.one sy (by decide) (by omega)
theorem Encoding.xoriLen1 (sy : Sync) (rd : XReg) (ra : XReg) (imm : BitVec 36) : Encoding.Statement (.xoriLen1 sy rd ra imm) := by
  exact Fits.two sy (by decide) (by omega) (by omega)
theorem Encoding.xoriLen2 (sy : Sync) (rd : XReg) (ra : XReg) (imm : BitVec 64) : Encoding.Statement (.xoriLen2 sy rd ra imm) := by
  exact Fits.three sy (by decide) (by omega) (by omega) (by omega)
theorem Encoding.shli (sy : Sync) (rd : XReg) (ra : XReg) (imm : BitVec 8) : Encoding.Statement (.shli sy rd ra imm) := by
  exact Fits.one sy (by decide) (by omega)
theorem Encoding.shliLen1 (sy : Sync) (rd : XReg) (ra : XReg) (imm : BitVec 36) : Encoding.Statement (.shliLen1 sy rd ra imm) := by
  exact Fits.two sy (by decide) (by omega) (by omega)
theorem Encoding.shliLen2 (sy : Sync) (rd : XReg) (ra : XReg) (imm : BitVec 64) : Encoding.Statement (.shliLen2 sy rd ra imm) := by
  exact Fits.three sy (by decide) (by omega) (by omega) (by omega)
theorem Encoding.shri (sy : Sync) (rd : XReg) (ra : XReg) (imm : BitVec 8) : Encoding.Statement (.shri sy rd ra imm) := by
  exact Fits.one sy (by decide) (by omega)
theorem Encoding.shriLen1 (sy : Sync) (rd : XReg) (ra : XReg) (imm : BitVec 36) : Encoding.Statement (.shriLen1 sy rd ra imm) := by
  exact Fits.two sy (by decide) (by omega) (by omega)
theorem Encoding.shriLen2 (sy : Sync) (rd : XReg) (ra : XReg) (imm : BitVec 64) : Encoding.Statement (.shriLen2 sy rd ra imm) := by
  exact Fits.three sy (by decide) (by omega) (by omega) (by omega)
theorem Encoding.srai (sy : Sync) (rd : XReg) (ra : XReg) (imm : BitVec 8) : Encoding.Statement (.srai sy rd ra imm) := by
  exact Fits.one sy (by decide) (by omega)
theorem Encoding.sraiLen1 (sy : Sync) (rd : XReg) (ra : XReg) (imm : BitVec 36) : Encoding.Statement (.sraiLen1 sy rd ra imm) := by
  exact Fits.two sy (by decide) (by omega) (by omega)
theorem Encoding.sraiLen2 (sy : Sync) (rd : XReg) (ra : XReg) (imm : BitVec 64) : Encoding.Statement (.sraiLen2 sy rd ra imm) := by
  exact Fits.three sy (by decide) (by omega) (by omega) (by omega)
theorem Encoding.li (sy : Sync) (rd : XReg) (imm : BitVec 8) : Encoding.Statement (.li sy rd imm) := by
  exact Fits.one sy (by decide) (by omega)
theorem Encoding.liLen1 (sy : Sync) (rd : XReg) (imm : BitVec 36) : Encoding.Statement (.liLen1 sy rd imm) := by
  exact Fits.two sy (by decide) (by omega) (by omega)
theorem Encoding.liLen2 (sy : Sync) (rd : XReg) (imm : BitVec 64) : Encoding.Statement (.liLen2 sy rd imm) := by
  exact Fits.three sy (by decide) (by omega) (by omega) (by omega)
theorem Encoding.muli (sy : Sync) (rd : XReg) (ra : XReg) (imm : BitVec 8) : Encoding.Statement (.muli sy rd ra imm) := by
  exact Fits.one sy (by decide) (by omega)
theorem Encoding.muliLen1 (sy : Sync) (rd : XReg) (ra : XReg) (imm : BitVec 36) : Encoding.Statement (.muliLen1 sy rd ra imm) := by
  exact Fits.two sy (by decide) (by omega) (by omega)
theorem Encoding.muliLen2 (sy : Sync) (rd : XReg) (ra : XReg) (imm : BitVec 64) : Encoding.Statement (.muliLen2 sy rd ra imm) := by
  exact Fits.three sy (by decide) (by omega) (by omega) (by omega)
theorem Encoding.cmp (sy : Sync) (pd : PReg) (cc : Cc) (ra : XReg) (rb : XReg) : Encoding.Statement (.cmp sy pd cc ra rb) := by
  have := Cc.code_lt cc
  exact Fits.one sy (by decide) (by omega)
theorem Encoding.cmpi (sy : Sync) (pd : PReg) (cc : Cc) (ra : XReg) (imm : BitVec 6) : Encoding.Statement (.cmpi sy pd cc ra imm) := by
  have := Cc.code_lt cc
  exact Fits.one sy (by decide) (by omega)
theorem Encoding.cmpiLen1 (sy : Sync) (pd : PReg) (cc : Cc) (ra : XReg) (imm : BitVec 34) : Encoding.Statement (.cmpiLen1 sy pd cc ra imm) := by
  have := Cc.code_lt cc
  exact Fits.two sy (by decide) (by omega) (by omega)
theorem Encoding.pand (sy : Sync) (pd : PReg) (pa : PReg) (pb : PReg) : Encoding.Statement (.pand sy pd pa pb) := by
  exact Fits.one sy (by decide) (by omega)
theorem Encoding.por (sy : Sync) (pd : PReg) (pa : PReg) (pb : PReg) : Encoding.Statement (.por sy pd pa pb) := by
  exact Fits.one sy (by decide) (by omega)
theorem Encoding.pxor (sy : Sync) (pd : PReg) (pa : PReg) (pb : PReg) : Encoding.Statement (.pxor sy pd pa pb) := by
  exact Fits.one sy (by decide) (by omega)
theorem Encoding.pandn (sy : Sync) (pd : PReg) (pa : PReg) (pb : PReg) : Encoding.Statement (.pandn sy pd pa pb) := by
  exact Fits.one sy (by decide) (by omega)
theorem Encoding.pnot (sy : Sync) (pd : PReg) (pa : PReg) : Encoding.Statement (.pnot sy pd pa) := by
  exact Fits.one sy (by decide) (by omega)
theorem Encoding.pset (sy : Sync) (pd : PReg) : Encoding.Statement (.pset sy pd) := by
  exact Fits.one sy (by decide) (by omega)
theorem Encoding.pclr (sy : Sync) (pd : PReg) : Encoding.Statement (.pclr sy pd) := by
  exact Fits.one sy (by decide) (by omega)
theorem Encoding.pmov (sy : Sync) (pd : PReg) (pa : PReg) : Encoding.Statement (.pmov sy pd pa) := by
  exact Fits.one sy (by decide) (by omega)
theorem Encoding.pcnt (sy : Sync) (rd : XReg) (pa : PReg) : Encoding.Statement (.pcnt sy rd pa) := by
  exact Fits.one sy (by decide) (by omega)
theorem Encoding.br (sy : Sync) (disp : BitVec 15) : Encoding.Statement (.br sy disp) := by
  have : bitOf false = 0 := rfl
  exact Fits.one sy (by decide) (by omega)
theorem Encoding.brLen1 (sy : Sync) (disp : BitVec 43) : Encoding.Statement (.brLen1 sy disp) := by
  have : bitOf false = 0 := rfl
  exact Fits.two sy (by decide) (by omega) (by omega)
theorem Encoding.bp (sy : Sync) (p : PReg) (sense : Bool) (disp : BitVec 15) : Encoding.Statement (.bp sy p sense disp) := by
  have := bitOf_le sense
  exact Fits.one sy (by decide) (by omega)
theorem Encoding.bpLen1 (sy : Sync) (p : PReg) (sense : Bool) (disp : BitVec 43) : Encoding.Statement (.bpLen1 sy p sense disp) := by
  have := bitOf_le sense
  exact Fits.two sy (by decide) (by omega) (by omega)
theorem Encoding.bany (sy : Sync) (p : PReg) (sense : Bool) (disp : BitVec 15) : Encoding.Statement (.bany sy p sense disp) := by
  have := bitOf_le sense
  exact Fits.one sy (by decide) (by omega)
theorem Encoding.banyLen1 (sy : Sync) (p : PReg) (sense : Bool) (disp : BitVec 43) : Encoding.Statement (.banyLen1 sy p sense disp) := by
  have := bitOf_le sense
  exact Fits.two sy (by decide) (by omega) (by omega)
theorem Encoding.ball (sy : Sync) (p : PReg) (sense : Bool) (disp : BitVec 15) : Encoding.Statement (.ball sy p sense disp) := by
  have := bitOf_le sense
  exact Fits.one sy (by decide) (by omega)
theorem Encoding.ballLen1 (sy : Sync) (p : PReg) (sense : Bool) (disp : BitVec 43) : Encoding.Statement (.ballLen1 sy p sense disp) := by
  have := bitOf_le sense
  exact Fits.two sy (by decide) (by omega) (by omega)
theorem Encoding.call (sy : Sync) (disp : BitVec 15) : Encoding.Statement (.call sy disp) := by
  have : bitOf false = 0 := rfl
  exact Fits.one sy (by decide) (by omega)
theorem Encoding.callLen1 (sy : Sync) (disp : BitVec 43) : Encoding.Statement (.callLen1 sy disp) := by
  have : bitOf false = 0 := rfl
  exact Fits.two sy (by decide) (by omega) (by omega)
theorem Encoding.bri (sy : Sync) (ra : XReg) : Encoding.Statement (.bri sy ra) := by
  exact Fits.one sy (by decide) (by omega)
theorem Encoding.calli (sy : Sync) (ra : XReg) : Encoding.Statement (.calli sy ra) := by
  exact Fits.one sy (by decide) (by omega)
theorem Encoding.ld (sy : Sync) (rd : XReg) (ra : XReg) (cls : Fin 16) (hint : Hint) (sz : Size) : Encoding.Statement (.ld sy rd ra cls hint sz) := by
  have := cm_lt rd ra cls hint sz
  exact Fits.one sy (by decide) (by omega)
theorem Encoding.ldLen1 (sy : Sync) (rd : XReg) (ra : XReg) (cls : Fin 16) (hint : Hint) (sz : Size) (off : BitVec 28) : Encoding.Statement (.ldLen1 sy rd ra cls hint sz off) := by
  have := cm_lt rd ra cls hint sz
  exact Fits.two sy (by decide) (by omega) (by omega)
theorem Encoding.lds (sy : Sync) (rd : XReg) (ra : XReg) (cls : Fin 16) (hint : Hint) (sz : Size) : Encoding.Statement (.lds sy rd ra cls hint sz) := by
  have := cm_lt rd ra cls hint sz
  exact Fits.one sy (by decide) (by omega)
theorem Encoding.ldsLen1 (sy : Sync) (rd : XReg) (ra : XReg) (cls : Fin 16) (hint : Hint) (sz : Size) (off : BitVec 28) : Encoding.Statement (.ldsLen1 sy rd ra cls hint sz off) := by
  have := cm_lt rd ra cls hint sz
  exact Fits.two sy (by decide) (by omega) (by omega)
theorem Encoding.ldro (sy : Sync) (rd : XReg) (ra : XReg) (cls : Fin 16) (hint : Hint) (sz : Size) : Encoding.Statement (.ldro sy rd ra cls hint sz) := by
  have := cm_lt rd ra cls hint sz
  exact Fits.one sy (by decide) (by omega)
theorem Encoding.ldroLen1 (sy : Sync) (rd : XReg) (ra : XReg) (cls : Fin 16) (hint : Hint) (sz : Size) (off : BitVec 28) : Encoding.Statement (.ldroLen1 sy rd ra cls hint sz off) := by
  have := cm_lt rd ra cls hint sz
  exact Fits.two sy (by decide) (by omega) (by omega)
theorem Encoding.st (sy : Sync) (rs : XReg) (ra : XReg) (cls : Fin 16) (hint : Hint) (sz : Size) : Encoding.Statement (.st sy rs ra cls hint sz) := by
  have := cm_lt rs ra cls hint sz
  exact Fits.one sy (by decide) (by omega)
theorem Encoding.stLen1 (sy : Sync) (rs : XReg) (ra : XReg) (cls : Fin 16) (hint : Hint) (sz : Size) (off : BitVec 28) : Encoding.Statement (.stLen1 sy rs ra cls hint sz off) := by
  have := cm_lt rs ra cls hint sz
  exact Fits.two sy (by decide) (by omega) (by omega)
theorem Encoding.mfsr (sy : Sync) (rd : XReg) (sr : BitVec 12) : Encoding.Statement (.mfsr sy rd sr) := by
  exact Fits.one sy (by decide) (by omega)
theorem Encoding.mtsr (sy : Sync) (sr : BitVec 12) (rs : XReg) : Encoding.Statement (.mtsr sy sr rs) := by
  exact Fits.one sy (by decide) (by omega)
theorem Encoding.ego (sy : Sync) (e : Engine) (ra : XReg) : Encoding.Statement (.ego sy e ra) := by
  have := Engine.code_lt e
  exact Fits.one sy (by decide) (by omega)
theorem Encoding.ewait (sy : Sync) (e : Option Engine) : Encoding.Statement (.ewait sy e) := by
  have := ewaitCode_lt e
  exact Fits.one sy (by decide) (by omega)
theorem Encoding.estat (sy : Sync) (rd : XReg) (e : Engine) : Encoding.Statement (.estat sy rd e) := by
  have := Engine.code_lt e
  exact Fits.one sy (by decide) (by omega)
theorem Encoding.fqpush (sy : Sync) (ra : XReg) : Encoding.Statement (.fqpush sy ra) := by
  exact Fits.one sy (by decide) (by omega)
theorem Encoding.pqpush (sy : Sync) (q : PQ) (ra : XReg) : Encoding.Statement (.pqpush sy q ra) := by
  have := PQ.code_lt q
  exact Fits.one sy (by decide) (by omega)
theorem Encoding.tmap (sy : Sync) (hd : HReg) (ra : XReg) (rb : XReg) (rights : Rights) : Encoding.Statement (.tmap sy hd ra rb rights) := Fits.cr sy _ _ _ (by decide) (Rights.code_lt rights)
theorem Encoding.tunmap (sy : Sync) (hd : HReg) : Encoding.Statement (.tunmap sy hd) := by
  exact Fits.one sy (by decide) (by omega)
theorem Encoding.tquery (sy : Sync) (rd : XReg) (hd : HReg) : Encoding.Statement (.tquery sy rd hd) := by
  exact Fits.one sy (by decide) (by omega)
theorem Encoding.binit (sy : Sync) (b : BReg) : Encoding.Statement (.binit sy b) := Fits.cr sy _ 0 0 (by decide) (by decide)
theorem Encoding.bexp (sy : Sync) (b : BReg) (ra : XReg) : Encoding.Statement (.bexp sy b ra) := Fits.cr sy _ _ 0 (by decide) (by decide)
theorem Encoding.barr (sy : Sync) (b : BReg) (ra : XReg) : Encoding.Statement (.barr sy b ra) := Fits.cr sy _ _ 0 (by decide) (by decide)
theorem Encoding.bwait (sy : Sync) (b : BReg) (k : Bool) : Encoding.Statement (.bwait sy b k) := by
  have := bitOf_le k
  exact Fits.one sy (by decide) (by omega)
theorem Encoding.btest (sy : Sync) (pd : PReg) (b : BReg) (k : Bool) : Encoding.Statement (.btest sy pd b k) := by
  have := bitOf_le k
  exact Fits.one sy (by decide) (by omega)
theorem Encoding.amo (sy : Sync) (op : AmoOp) (dbl : Bool) (cls : Fin 16) (scope : Scope) (ret : Bool) (acq : Bool) (rel : Bool) (rd : XReg) (ra : XReg) (rb : XReg) : Encoding.Statement (.amo sy op dbl cls scope ret acq rel rd ra rb) := by
  have := AmoOp.code_lt op
  have := bitOf_le dbl
  have := Scope.code_lt scope
  have := bitOf_le ret
  have := bitOf_le acq
  have := bitOf_le rel
  have := dblCode_lt dbl
  exact Fits.two sy (by decide) (by omega) (by omega)
theorem Encoding.cas (sy : Sync) (dbl : Bool) (cls : Fin 16) (scope : Scope) (acq : Bool) (rel : Bool) (rd : XReg) (ra : XReg) (rb : XReg) : Encoding.Statement (.cas sy dbl cls scope acq rel rd ra rb) := by
  have := bitOf_le dbl
  have := Scope.code_lt scope
  have := bitOf_le acq
  have := bitOf_le rel
  have := dblCode_lt dbl
  exact Fits.two sy (by decide) (by omega) (by omega)
theorem Encoding.red (sy : Sync) (op : RedOp) (dbl : Bool) (cls : Fin 16) (ra : XReg) (rb : XReg) : Encoding.Statement (.red sy op dbl cls ra rb) := by
  have := RedOp.code_lt op
  have := bitOf_le dbl
  have := dblCode_lt dbl
  exact Fits.two sy (by decide) (by omega) (by omega)
theorem Encoding.cbr (sy : Sync) (op : CbrOp) (hint : Bool) (p : PReg) (disp : BitVec 13) : Encoding.Statement (.cbr sy op hint p disp) := by
  have := CbrOp.code_lt op
  have := bitOf_le hint
  exact Fits.one sy (by decide) (by omega)
theorem Encoding.cbrLen1 (sy : Sync) (op : CbrOp) (hint : Bool) (p : PReg) (disp : BitVec 41) : Encoding.Statement (.cbrLen1 sy op hint p disp) := by
  have := CbrOp.code_lt op
  have := bitOf_le hint
  exact Fits.two sy (by decide) (by omega) (by omega)
theorem Encoding.cleave (sy : Sync) : Encoding.Statement (.cleave sy) := Fits.cr sy 0 0 0 (by decide) (by decide)
theorem Encoding.cquery (sy : Sync) (rd : XReg) : Encoding.Statement (.cquery sy rd) := Fits.cr sy _ 0 0 (by decide) (by decide)
theorem Encoding.xcoll (sy : Sync) (hd : HReg) (hs : HReg) (red : RedCopy) (ty : ElemTy) (b : BReg) (src : BitVec 22) (dst : BitVec 22) : Encoding.Statement (.xcoll sy hd hs red ty b src dst) := by
  have := RedCopy.code_lt red
  have := ElemTy.code_lt ty
  exact Fits.three sy (by decide) (by omega) (by omega) (by omega)
theorem Encoding.gsig (sy : Sync) (ra : XReg) : Encoding.Statement (.gsig sy ra) := by
  exact Fits.one sy (by decide) (by omega)
theorem Encoding.getratio (sy : Sync) (rd : XReg) : Encoding.Statement (.getratio sy rd) := Fits.cr sy _ 0 0 (by decide) (by decide)
theorem Encoding.rlock (sy : Sync) : Encoding.Statement (.rlock sy) := Fits.cr sy 0 0 0 (by decide) (by decide)
theorem Encoding.runlock (sy : Sync) : Encoding.Statement (.runlock sy) := Fits.cr sy 0 0 0 (by decide) (by decide)
theorem Encoding.amalloc (sy : Sync) (rd : XReg) (ra : XReg) : Encoding.Statement (.amalloc sy rd ra) := Fits.cr sy _ _ 0 (by decide) (by decide)
theorem Encoding.amfree (sy : Sync) (ra : XReg) : Encoding.Statement (.amfree sy ra) := Fits.cr sy 0 _ 0 (by decide) (by decide)
theorem Encoding.amfreeDiscard (sy : Sync) (ra : XReg) : Encoding.Statement (.amfreeDiscard sy ra) := Fits.cr sy 1 _ 0 (by decide) (by decide)
theorem Encoding.amgrant (sy : Sync) (rd : XReg) (ra : XReg) (rb : XReg) : Encoding.Statement (.amgrant sy rd ra rb) := Fits.cr sy _ _ _ (by decide) (by decide)
theorem Encoding.amquery (sy : Sync) (rd : XReg) (ra : XReg) : Encoding.Statement (.amquery sy rd ra) := Fits.cr sy _ _ 0 (by decide) (by decide)
theorem Encoding.vwait (sy : Sync) (rd : XReg) : Encoding.Statement (.vwait sy rd) := Fits.cr sy _ 0 0 (by decide) (by decide)
theorem Encoding.vsig (sy : Sync) (rd : XReg) : Encoding.Statement (.vsig sy rd) := Fits.cr sy _ 0 0 (by decide) (by decide)
theorem Encoding.vstat (sy : Sync) (rd : XReg) : Encoding.Statement (.vstat sy rd) := Fits.cr sy _ 0 0 (by decide) (by decide)
theorem Encoding.pref (sy : Sync) (ra : XReg) (rb : XReg) (hint : Hint) : Encoding.Statement (.pref sy ra rb hint) := by
  have := Hint.code_lt hint
  exact Fits.one sy (by decide) (by omega)
theorem Encoding.wbr (sy : Sync) (ra : XReg) (rb : XReg) : Encoding.Statement (.wbr sy ra rb) := by
  exact Fits.one sy (by decide) (by omega)
theorem Encoding.invr (sy : Sync) (ra : XReg) (rb : XReg) : Encoding.Statement (.invr sy ra rb) := by
  exact Fits.one sy (by decide) (by omega)
theorem Encoding.rinv (sy : Sync) (ra : XReg) (rb : XReg) : Encoding.Statement (.rinv sy ra rb) := by
  exact Fits.one sy (by decide) (by omega)
theorem Encoding.icinv (sy : Sync) (ra : XReg) (rb : XReg) : Encoding.Statement (.icinv sy ra rb) := by
  exact Fits.one sy (by decide) (by omega)
theorem Encoding.slres (sy : Sync) (rd : XReg) (sl : SlReg) : Encoding.Statement (.slres sy rd sl) := by
  exact Fits.one sy (by decide) (by omega)
theorem Encoding.slpost (sy : Sync) (sl : SlReg) : Encoding.Statement (.slpost sy sl) := by
  exact Fits.one sy (by decide) (by omega)
theorem Encoding.slacq (sy : Sync) (rd : XReg) (sl : SlReg) : Encoding.Statement (.slacq sy rd sl) := by
  exact Fits.one sy (by decide) (by omega)
theorem Encoding.slrel (sy : Sync) (sl : SlReg) : Encoding.Statement (.slrel sy sl) := by
  exact Fits.one sy (by decide) (by omega)
theorem Encoding.vend (sy : Sync) : Encoding.Statement (.vend sy) := Fits.v sy (op := 0) (fn := 1) (d := 0) (a := 0) (b := 0) none (by decide) (by decide) (by omega) (by omega) (by omega)
theorem Encoding.vpq (sy : Sync) (vsd : VsReg) : Encoding.Statement (.vpq sy vsd) := Fits.v sy (op := 0) (fn := 2) (d := vsd.val) (a := 0) (b := 0) none (by decide) (by decide) (by omega) (by omega) (by omega)
theorem Encoding.vsetvl (sy : Sync) (vsd : VsReg) (vsa : VsReg) : Encoding.Statement (.vsetvl sy vsd vsa) := Fits.v sy (op := 0) (fn := 3) (d := vsd.val) (a := vsa.val) (b := 0) none (by decide) (by decide) (by omega) (by omega) (by omega)
theorem Encoding.vflgr (sy : Sync) (vd : VReg) : Encoding.Statement (.vflgr sy vd) := Fits.v sy (op := 0) (fn := 4) (d := vd.val) (a := 0) (b := 0) none (by decide) (by decide) (by omega) (by omega) (by omega)
theorem Encoding.vflgc (sy : Sync) : Encoding.Statement (.vflgc sy) := Fits.v sy (op := 0) (fn := 5) (d := 0) (a := 0) (b := 0) none (by decide) (by decide) (by omega) (by omega) (by omega)
theorem Encoding.vview (sy : Sync) (vd : VReg) (vsa : VsReg) : Encoding.Statement (.vview sy vd vsa) := Fits.v sy (op := 0) (fn := 6) (d := vd.val) (a := vsa.val) (b := 0) none (by decide) (by decide) (by omega) (by omega) (by omega)
theorem Encoding.vgetv (sy : Sync) (vsd : VsReg) (va : VReg) : Encoding.Statement (.vgetv sy vsd va) := Fits.v sy (op := 0) (fn := 7) (d := vsd.val) (a := va.val) (b := 0) none (by decide) (by decide) (by omega) (by omega) (by omega)
theorem Encoding.fadd (sy : Sync) (vd : VReg) (va : VReg) (vb : VReg) (e1 : Option VExt) : Encoding.Statement (.fadd sy vd va vb e1) := Fits.v sy (op := 1) (fn := 0) (d := vd.val) (a := va.val) (b := vb.val) e1 (by decide) (by decide) (by omega) (by omega) (by omega)
theorem Encoding.fsub (sy : Sync) (vd : VReg) (va : VReg) (vb : VReg) (e1 : Option VExt) : Encoding.Statement (.fsub sy vd va vb e1) := Fits.v sy (op := 1) (fn := 1) (d := vd.val) (a := va.val) (b := vb.val) e1 (by decide) (by decide) (by omega) (by omega) (by omega)
theorem Encoding.fmul (sy : Sync) (vd : VReg) (va : VReg) (vb : VReg) (e1 : Option VExt) : Encoding.Statement (.fmul sy vd va vb e1) := Fits.v sy (op := 1) (fn := 2) (d := vd.val) (a := va.val) (b := vb.val) e1 (by decide) (by decide) (by omega) (by omega) (by omega)
theorem Encoding.fmin (sy : Sync) (vd : VReg) (va : VReg) (vb : VReg) (e1 : Option VExt) : Encoding.Statement (.fmin sy vd va vb e1) := Fits.v sy (op := 1) (fn := 3) (d := vd.val) (a := va.val) (b := vb.val) e1 (by decide) (by decide) (by omega) (by omega) (by omega)
theorem Encoding.fmax (sy : Sync) (vd : VReg) (va : VReg) (vb : VReg) (e1 : Option VExt) : Encoding.Statement (.fmax sy vd va vb e1) := Fits.v sy (op := 1) (fn := 4) (d := vd.val) (a := va.val) (b := vb.val) e1 (by decide) (by decide) (by omega) (by omega) (by omega)
theorem Encoding.fma (sy : Sync) (vd : VReg) (va : VReg) (vb : VReg) (e1 : VExt) : Encoding.Statement (.fma sy vd va vb e1) := Fits.v sy (op := 1) (fn := 5) (d := vd.val) (a := va.val) (b := vb.val) (some e1) (by decide) (by decide) (by omega) (by omega) (by omega)
theorem Encoding.fms (sy : Sync) (vd : VReg) (va : VReg) (vb : VReg) (e1 : VExt) : Encoding.Statement (.fms sy vd va vb e1) := Fits.v sy (op := 1) (fn := 6) (d := vd.val) (a := va.val) (b := vb.val) (some e1) (by decide) (by decide) (by omega) (by omega) (by omega)
theorem Encoding.fnma (sy : Sync) (vd : VReg) (va : VReg) (vb : VReg) (e1 : VExt) : Encoding.Statement (.fnma sy vd va vb e1) := Fits.v sy (op := 1) (fn := 7) (d := vd.val) (a := va.val) (b := vb.val) (some e1) (by decide) (by decide) (by omega) (by omega) (by omega)
theorem Encoding.fabs (sy : Sync) (vd : VReg) (va : VReg) (e1 : Option VExt) : Encoding.Statement (.fabs sy vd va e1) := Fits.v sy (op := 2) (fn := 0) (d := vd.val) (a := va.val) (b := 0) e1 (by decide) (by decide) (by omega) (by omega) (by omega)
theorem Encoding.fneg (sy : Sync) (vd : VReg) (va : VReg) (e1 : Option VExt) : Encoding.Statement (.fneg sy vd va e1) := Fits.v sy (op := 2) (fn := 1) (d := vd.val) (a := va.val) (b := 0) e1 (by decide) (by decide) (by omega) (by omega) (by omega)
theorem Encoding.frcp (sy : Sync) (vd : VReg) (va : VReg) (e1 : Option VExt) : Encoding.Statement (.frcp sy vd va e1) := Fits.v sy (op := 2) (fn := 2) (d := vd.val) (a := va.val) (b := 0) e1 (by decide) (by decide) (by omega) (by omega) (by omega)
theorem Encoding.frsq (sy : Sync) (vd : VReg) (va : VReg) (e1 : Option VExt) : Encoding.Statement (.frsq sy vd va e1) := Fits.v sy (op := 2) (fn := 3) (d := vd.val) (a := va.val) (b := 0) e1 (by decide) (by decide) (by omega) (by omega) (by omega)
theorem Encoding.fsqrt (sy : Sync) (vd : VReg) (va : VReg) (e1 : Option VExt) : Encoding.Statement (.fsqrt sy vd va e1) := Fits.v sy (op := 2) (fn := 4) (d := vd.val) (a := va.val) (b := 0) e1 (by decide) (by decide) (by omega) (by omega) (by omega)
theorem Encoding.fexp2 (sy : Sync) (vd : VReg) (va : VReg) (e1 : Option VExt) : Encoding.Statement (.fexp2 sy vd va e1) := Fits.v sy (op := 2) (fn := 5) (d := vd.val) (a := va.val) (b := 0) e1 (by decide) (by decide) (by omega) (by omega) (by omega)
theorem Encoding.flog2 (sy : Sync) (vd : VReg) (va : VReg) (e1 : Option VExt) : Encoding.Statement (.flog2 sy vd va e1) := Fits.v sy (op := 2) (fn := 6) (d := vd.val) (a := va.val) (b := 0) e1 (by decide) (by decide) (by omega) (by omega) (by omega)
theorem Encoding.fsin (sy : Sync) (vd : VReg) (va : VReg) (e1 : Option VExt) : Encoding.Statement (.fsin sy vd va e1) := Fits.v sy (op := 2) (fn := 7) (d := vd.val) (a := va.val) (b := 0) e1 (by decide) (by decide) (by omega) (by omega) (by omega)
theorem Encoding.fcos (sy : Sync) (vd : VReg) (va : VReg) (e1 : Option VExt) : Encoding.Statement (.fcos sy vd va e1) := Fits.v sy (op := 2) (fn := 8) (d := vd.val) (a := va.val) (b := 0) e1 (by decide) (by decide) (by omega) (by omega) (by omega)
theorem Encoding.frnd (sy : Sync) (vd : VReg) (va : VReg) (e1 : Option VExt) : Encoding.Statement (.frnd sy vd va e1) := Fits.v sy (op := 2) (fn := 9) (d := vd.val) (a := va.val) (b := 0) e1 (by decide) (by decide) (by omega) (by omega) (by omega)
theorem Encoding.feq (sy : Sync) (pd : PReg) (va : VReg) (vb : VReg) (e1 : Option VExt) : Encoding.Statement (.feq sy pd va vb e1) := Fits.v sy (op := 3) (fn := 0) (d := pd.val) (a := va.val) (b := vb.val) e1 (by decide) (by decide) (by omega) (by omega) (by omega)
theorem Encoding.fne (sy : Sync) (pd : PReg) (va : VReg) (vb : VReg) (e1 : Option VExt) : Encoding.Statement (.fne sy pd va vb e1) := Fits.v sy (op := 3) (fn := 1) (d := pd.val) (a := va.val) (b := vb.val) e1 (by decide) (by decide) (by omega) (by omega) (by omega)
theorem Encoding.flt (sy : Sync) (pd : PReg) (va : VReg) (vb : VReg) (e1 : Option VExt) : Encoding.Statement (.flt sy pd va vb e1) := Fits.v sy (op := 3) (fn := 2) (d := pd.val) (a := va.val) (b := vb.val) e1 (by decide) (by decide) (by omega) (by omega) (by omega)
theorem Encoding.fle (sy : Sync) (pd : PReg) (va : VReg) (vb : VReg) (e1 : Option VExt) : Encoding.Statement (.fle sy pd va vb e1) := Fits.v sy (op := 3) (fn := 3) (d := pd.val) (a := va.val) (b := vb.val) e1 (by decide) (by decide) (by omega) (by omega) (by omega)
theorem Encoding.fun (sy : Sync) (pd : PReg) (va : VReg) (vb : VReg) (e1 : Option VExt) : Encoding.Statement (.fun sy pd va vb e1) := Fits.v sy (op := 3) (fn := 4) (d := pd.val) (a := va.val) (b := vb.val) e1 (by decide) (by decide) (by omega) (by omega) (by omega)
theorem Encoding.iadd (sy : Sync) (vd : VReg) (va : VReg) (vb : VReg) (e1 : Option VExt) : Encoding.Statement (.iadd sy vd va vb e1) := Fits.v sy (op := 4) (fn := 0) (d := vd.val) (a := va.val) (b := vb.val) e1 (by decide) (by decide) (by omega) (by omega) (by omega)
theorem Encoding.isub (sy : Sync) (vd : VReg) (va : VReg) (vb : VReg) (e1 : Option VExt) : Encoding.Statement (.isub sy vd va vb e1) := Fits.v sy (op := 4) (fn := 1) (d := vd.val) (a := va.val) (b := vb.val) e1 (by decide) (by decide) (by omega) (by omega) (by omega)
theorem Encoding.imul (sy : Sync) (vd : VReg) (va : VReg) (vb : VReg) (e1 : Option VExt) : Encoding.Statement (.imul sy vd va vb e1) := Fits.v sy (op := 4) (fn := 2) (d := vd.val) (a := va.val) (b := vb.val) e1 (by decide) (by decide) (by omega) (by omega) (by omega)
theorem Encoding.imulh (sy : Sync) (vd : VReg) (va : VReg) (vb : VReg) (e1 : Option VExt) : Encoding.Statement (.imulh sy vd va vb e1) := Fits.v sy (op := 4) (fn := 3) (d := vd.val) (a := va.val) (b := vb.val) e1 (by decide) (by decide) (by omega) (by omega) (by omega)
theorem Encoding.imulhu (sy : Sync) (vd : VReg) (va : VReg) (vb : VReg) (e1 : Option VExt) : Encoding.Statement (.imulhu sy vd va vb e1) := Fits.v sy (op := 4) (fn := 4) (d := vd.val) (a := va.val) (b := vb.val) e1 (by decide) (by decide) (by omega) (by omega) (by omega)
theorem Encoding.imin (sy : Sync) (vd : VReg) (va : VReg) (vb : VReg) (e1 : Option VExt) : Encoding.Statement (.imin sy vd va vb e1) := Fits.v sy (op := 4) (fn := 5) (d := vd.val) (a := va.val) (b := vb.val) e1 (by decide) (by decide) (by omega) (by omega) (by omega)
theorem Encoding.imax (sy : Sync) (vd : VReg) (va : VReg) (vb : VReg) (e1 : Option VExt) : Encoding.Statement (.imax sy vd va vb e1) := Fits.v sy (op := 4) (fn := 6) (d := vd.val) (a := va.val) (b := vb.val) e1 (by decide) (by decide) (by omega) (by omega) (by omega)
theorem Encoding.iminu (sy : Sync) (vd : VReg) (va : VReg) (vb : VReg) (e1 : Option VExt) : Encoding.Statement (.iminu sy vd va vb e1) := Fits.v sy (op := 4) (fn := 7) (d := vd.val) (a := va.val) (b := vb.val) e1 (by decide) (by decide) (by omega) (by omega) (by omega)
theorem Encoding.imaxu (sy : Sync) (vd : VReg) (va : VReg) (vb : VReg) (e1 : Option VExt) : Encoding.Statement (.imaxu sy vd va vb e1) := Fits.v sy (op := 4) (fn := 8) (d := vd.val) (a := va.val) (b := vb.val) e1 (by decide) (by decide) (by omega) (by omega) (by omega)
theorem Encoding.iand (sy : Sync) (vd : VReg) (va : VReg) (vb : VReg) (e1 : Option VExt) : Encoding.Statement (.iand sy vd va vb e1) := Fits.v sy (op := 4) (fn := 9) (d := vd.val) (a := va.val) (b := vb.val) e1 (by decide) (by decide) (by omega) (by omega) (by omega)
theorem Encoding.ior (sy : Sync) (vd : VReg) (va : VReg) (vb : VReg) (e1 : Option VExt) : Encoding.Statement (.ior sy vd va vb e1) := Fits.v sy (op := 4) (fn := 10) (d := vd.val) (a := va.val) (b := vb.val) e1 (by decide) (by decide) (by omega) (by omega) (by omega)
theorem Encoding.ixor (sy : Sync) (vd : VReg) (va : VReg) (vb : VReg) (e1 : Option VExt) : Encoding.Statement (.ixor sy vd va vb e1) := Fits.v sy (op := 4) (fn := 11) (d := vd.val) (a := va.val) (b := vb.val) e1 (by decide) (by decide) (by omega) (by omega) (by omega)
theorem Encoding.ishl (sy : Sync) (vd : VReg) (va : VReg) (vb : VReg) (e1 : Option VExt) : Encoding.Statement (.ishl sy vd va vb e1) := Fits.v sy (op := 4) (fn := 12) (d := vd.val) (a := va.val) (b := vb.val) e1 (by decide) (by decide) (by omega) (by omega) (by omega)
theorem Encoding.ishr (sy : Sync) (vd : VReg) (va : VReg) (vb : VReg) (e1 : Option VExt) : Encoding.Statement (.ishr sy vd va vb e1) := Fits.v sy (op := 4) (fn := 13) (d := vd.val) (a := va.val) (b := vb.val) e1 (by decide) (by decide) (by omega) (by omega) (by omega)
theorem Encoding.isra (sy : Sync) (vd : VReg) (va : VReg) (vb : VReg) (e1 : Option VExt) : Encoding.Statement (.isra sy vd va vb e1) := Fits.v sy (op := 4) (fn := 14) (d := vd.val) (a := va.val) (b := vb.val) e1 (by decide) (by decide) (by omega) (by omega) (by omega)
theorem Encoding.iadds (sy : Sync) (vd : VReg) (va : VReg) (vb : VReg) (e1 : Option VExt) : Encoding.Statement (.iadds sy vd va vb e1) := Fits.v sy (op := 4) (fn := 15) (d := vd.val) (a := va.val) (b := vb.val) e1 (by decide) (by decide) (by omega) (by omega) (by omega)
theorem Encoding.isubs (sy : Sync) (vd : VReg) (va : VReg) (vb : VReg) (e1 : Option VExt) : Encoding.Statement (.isubs sy vd va vb e1) := Fits.v sy (op := 4) (fn := 16) (d := vd.val) (a := va.val) (b := vb.val) e1 (by decide) (by decide) (by omega) (by omega) (by omega)
theorem Encoding.iabs (sy : Sync) (vd : VReg) (va : VReg) (e1 : Option VExt) : Encoding.Statement (.iabs sy vd va e1) := Fits.v sy (op := 4) (fn := 17) (d := vd.val) (a := va.val) (b := 0) e1 (by decide) (by decide) (by omega) (by omega) (by omega)
theorem Encoding.ieq (sy : Sync) (pd : PReg) (va : VReg) (vb : VReg) (e1 : Option VExt) : Encoding.Statement (.ieq sy pd va vb e1) := Fits.v sy (op := 5) (fn := 0) (d := pd.val) (a := va.val) (b := vb.val) e1 (by decide) (by decide) (by omega) (by omega) (by omega)
theorem Encoding.ine (sy : Sync) (pd : PReg) (va : VReg) (vb : VReg) (e1 : Option VExt) : Encoding.Statement (.ine sy pd va vb e1) := Fits.v sy (op := 5) (fn := 1) (d := pd.val) (a := va.val) (b := vb.val) e1 (by decide) (by decide) (by omega) (by omega) (by omega)
theorem Encoding.ilt (sy : Sync) (pd : PReg) (va : VReg) (vb : VReg) (e1 : Option VExt) : Encoding.Statement (.ilt sy pd va vb e1) := Fits.v sy (op := 5) (fn := 2) (d := pd.val) (a := va.val) (b := vb.val) e1 (by decide) (by decide) (by omega) (by omega) (by omega)
theorem Encoding.ige (sy : Sync) (pd : PReg) (va : VReg) (vb : VReg) (e1 : Option VExt) : Encoding.Statement (.ige sy pd va vb e1) := Fits.v sy (op := 5) (fn := 3) (d := pd.val) (a := va.val) (b := vb.val) e1 (by decide) (by decide) (by omega) (by omega) (by omega)
theorem Encoding.iltu (sy : Sync) (pd : PReg) (va : VReg) (vb : VReg) (e1 : Option VExt) : Encoding.Statement (.iltu sy pd va vb e1) := Fits.v sy (op := 5) (fn := 4) (d := pd.val) (a := va.val) (b := vb.val) e1 (by decide) (by decide) (by omega) (by omega) (by omega)
theorem Encoding.igeu (sy : Sync) (pd : PReg) (va : VReg) (vb : VReg) (e1 : Option VExt) : Encoding.Statement (.igeu sy pd va vb e1) := Fits.v sy (op := 5) (fn := 5) (d := pd.val) (a := va.val) (b := vb.val) e1 (by decide) (by decide) (by omega) (by omega) (by omega)
theorem Encoding.bfx (sy : Sync) (vd : VReg) (va : VReg) (e1 : VExt) : Encoding.Statement (.bfx sy vd va e1) := Fits.v sy (op := 6) (fn := 0) (d := vd.val) (a := va.val) (b := 0) (some e1) (by decide) (by decide) (by omega) (by omega) (by omega)
theorem Encoding.bfxu (sy : Sync) (vd : VReg) (va : VReg) (e1 : VExt) : Encoding.Statement (.bfxu sy vd va e1) := Fits.v sy (op := 6) (fn := 1) (d := vd.val) (a := va.val) (b := 0) (some e1) (by decide) (by decide) (by omega) (by omega) (by omega)
theorem Encoding.bfi (sy : Sync) (vd : VReg) (va : VReg) (e1 : VExt) : Encoding.Statement (.bfi sy vd va e1) := Fits.v sy (op := 6) (fn := 2) (d := vd.val) (a := va.val) (b := 0) (some e1) (by decide) (by decide) (by omega) (by omega) (by omega)
theorem Encoding.fshl (sy : Sync) (vd : VReg) (va : VReg) (vb : VReg) (e1 : Option VExt) : Encoding.Statement (.fshl sy vd va vb e1) := Fits.v sy (op := 6) (fn := 3) (d := vd.val) (a := va.val) (b := vb.val) e1 (by decide) (by decide) (by omega) (by omega) (by omega)
theorem Encoding.fshr (sy : Sync) (vd : VReg) (va : VReg) (vb : VReg) (e1 : Option VExt) : Encoding.Statement (.fshr sy vd va vb e1) := Fits.v sy (op := 6) (fn := 4) (d := vd.val) (a := va.val) (b := vb.val) e1 (by decide) (by decide) (by omega) (by omega) (by omega)
theorem Encoding.popcv (sy : Sync) (vd : VReg) (va : VReg) (e1 : Option VExt) : Encoding.Statement (.popcv sy vd va e1) := Fits.v sy (op := 6) (fn := 5) (d := vd.val) (a := va.val) (b := 0) e1 (by decide) (by decide) (by omega) (by omega) (by omega)
theorem Encoding.clzv (sy : Sync) (vd : VReg) (va : VReg) (e1 : Option VExt) : Encoding.Statement (.clzv sy vd va e1) := Fits.v sy (op := 6) (fn := 6) (d := vd.val) (a := va.val) (b := 0) e1 (by decide) (by decide) (by omega) (by omega) (by omega)
theorem Encoding.brevv (sy : Sync) (vd : VReg) (va : VReg) (e1 : Option VExt) : Encoding.Statement (.brevv sy vd va e1) := Fits.v sy (op := 6) (fn := 7) (d := vd.val) (a := va.val) (b := 0) e1 (by decide) (by decide) (by omega) (by omega) (by omega)
theorem Encoding.cvt (sy : Sync) (vd : VReg) (va : VReg) (e1 : Option VExt) : Encoding.Statement (.cvt sy vd va e1) := Fits.v sy (op := 7) (fn := 0) (d := vd.val) (a := va.val) (b := 0) e1 (by decide) (by decide) (by omega) (by omega) (by omega)
theorem Encoding.qnt (sy : Sync) (vd : VReg) (va : VReg) (vb : VReg) (e1 : Option VExt) : Encoding.Statement (.qnt sy vd va vb e1) := Fits.v sy (op := 7) (fn := 1) (d := vd.val) (a := va.val) (b := vb.val) e1 (by decide) (by decide) (by omega) (by omega) (by omega)
theorem Encoding.dqnt (sy : Sync) (vd : VReg) (va : VReg) (e1 : Option VExt) : Encoding.Statement (.dqnt sy vd va e1) := Fits.v sy (op := 7) (fn := 2) (d := vd.val) (a := va.val) (b := 0) e1 (by decide) (by decide) (by omega) (by omega) (by omega)
theorem Encoding.qscale (sy : Sync) (vd : VReg) (va : VReg) (e1 : Option VExt) : Encoding.Statement (.qscale sy vd va e1) := Fits.v sy (op := 7) (fn := 3) (d := vd.val) (a := va.val) (b := 0) e1 (by decide) (by decide) (by omega) (by omega) (by omega)
theorem Encoding.vmov (sy : Sync) (vd : VReg) (va : VReg) (e1 : Option VExt) : Encoding.Statement (.vmov sy vd va e1) := Fits.v sy (op := 8) (fn := 0) (d := vd.val) (a := va.val) (b := 0) e1 (by decide) (by decide) (by omega) (by omega) (by omega)
theorem Encoding.vsel (sy : Sync) (vd : VReg) (va : VReg) (vb : VReg) (e1 : Option VExt) : Encoding.Statement (.vsel sy vd va vb e1) := Fits.v sy (op := 8) (fn := 1) (d := vd.val) (a := va.val) (b := vb.val) e1 (by decide) (by decide) (by omega) (by omega) (by omega)
theorem Encoding.vbcst (sy : Sync) (vd : VReg) (va : VReg) (vb : VReg) (e1 : Option VExt) : Encoding.Statement (.vbcst sy vd va vb e1) := Fits.v sy (op := 8) (fn := 2) (d := vd.val) (a := va.val) (b := vb.val) e1 (by decide) (by decide) (by omega) (by omega) (by omega)
theorem Encoding.vidx (sy : Sync) (vd : VReg) (e1 : Option VExt) : Encoding.Statement (.vidx sy vd e1) := Fits.v sy (op := 8) (fn := 3) (d := vd.val) (a := 0) (b := 0) e1 (by decide) (by decide) (by omega) (by omega) (by omega)
theorem Encoding.vperm (sy : Sync) (vd : VReg) (va : VReg) (vb : VReg) (e1 : Option VExt) : Encoding.Statement (.vperm sy vd va vb e1) := Fits.v sy (op := 8) (fn := 4) (d := vd.val) (a := va.val) (b := vb.val) e1 (by decide) (by decide) (by omega) (by omega) (by omega)
theorem Encoding.vcmprs (sy : Sync) (vd : VReg) (va : VReg) (e1 : Option VExt) : Encoding.Statement (.vcmprs sy vd va e1) := Fits.v sy (op := 8) (fn := 5) (d := vd.val) (a := va.val) (b := 0) e1 (by decide) (by decide) (by omega) (by omega) (by omega)
theorem Encoding.vexpnd (sy : Sync) (vd : VReg) (va : VReg) (e1 : Option VExt) : Encoding.Statement (.vexpnd sy vd va e1) := Fits.v sy (op := 8) (fn := 6) (d := vd.val) (a := va.val) (b := 0) e1 (by decide) (by decide) (by omega) (by omega) (by omega)
theorem Encoding.vsldn (sy : Sync) (vd : VReg) (va : VReg) (vb : VReg) (e1 : Option VExt) : Encoding.Statement (.vsldn sy vd va vb e1) := Fits.v sy (op := 8) (fn := 7) (d := vd.val) (a := va.val) (b := vb.val) e1 (by decide) (by decide) (by omega) (by omega) (by omega)
theorem Encoding.vslup (sy : Sync) (vd : VReg) (va : VReg) (vb : VReg) (e1 : Option VExt) : Encoding.Statement (.vslup sy vd va vb e1) := Fits.v sy (op := 8) (fn := 8) (d := vd.val) (a := va.val) (b := vb.val) e1 (by decide) (by decide) (by omega) (by omega) (by omega)
theorem Encoding.vradd (sy : Sync) (vd : VReg) (va : VReg) (e1 : Option VExt) : Encoding.Statement (.vradd sy vd va e1) := Fits.v sy (op := 9) (fn := 0) (d := vd.val) (a := va.val) (b := 0) e1 (by decide) (by decide) (by omega) (by omega) (by omega)
theorem Encoding.vrfadd (sy : Sync) (vd : VReg) (va : VReg) (e1 : Option VExt) : Encoding.Statement (.vrfadd sy vd va e1) := Fits.v sy (op := 9) (fn := 1) (d := vd.val) (a := va.val) (b := 0) e1 (by decide) (by decide) (by omega) (by omega) (by omega)
theorem Encoding.vrmin (sy : Sync) (vd : VReg) (va : VReg) (e1 : Option VExt) : Encoding.Statement (.vrmin sy vd va e1) := Fits.v sy (op := 9) (fn := 2) (d := vd.val) (a := va.val) (b := 0) e1 (by decide) (by decide) (by omega) (by omega) (by omega)
theorem Encoding.vrmax (sy : Sync) (vd : VReg) (va : VReg) (e1 : Option VExt) : Encoding.Statement (.vrmax sy vd va e1) := Fits.v sy (op := 9) (fn := 3) (d := vd.val) (a := va.val) (b := 0) e1 (by decide) (by decide) (by omega) (by omega) (by omega)
theorem Encoding.vrfmin (sy : Sync) (vd : VReg) (va : VReg) (e1 : Option VExt) : Encoding.Statement (.vrfmin sy vd va e1) := Fits.v sy (op := 9) (fn := 4) (d := vd.val) (a := va.val) (b := 0) e1 (by decide) (by decide) (by omega) (by omega) (by omega)
theorem Encoding.vrfmax (sy : Sync) (vd : VReg) (va : VReg) (e1 : Option VExt) : Encoding.Statement (.vrfmax sy vd va e1) := Fits.v sy (op := 9) (fn := 5) (d := vd.val) (a := va.val) (b := 0) e1 (by decide) (by decide) (by omega) (by omega) (by omega)
theorem Encoding.vscan (sy : Sync) (vd : VReg) (va : VReg) (e1 : Option VExt) : Encoding.Statement (.vscan sy vd va e1) := Fits.v sy (op := 9) (fn := 6) (d := vd.val) (a := va.val) (b := 0) e1 (by decide) (by decide) (by omega) (by omega) (by omega)
theorem Encoding.vfscan (sy : Sync) (vd : VReg) (va : VReg) (e1 : Option VExt) : Encoding.Statement (.vfscan sy vd va e1) := Fits.v sy (op := 9) (fn := 7) (d := vd.val) (a := va.val) (b := 0) e1 (by decide) (by decide) (by omega) (by omega) (by omega)
theorem Encoding.vld (sy : Sync) (vd : VReg) (vsa : VsReg) (e1 : Option VExt) : Encoding.Statement (.vld sy vd vsa e1) := Fits.v sy (op := 10) (fn := 0) (d := vd.val) (a := vsa.val) (b := 0) e1 (by decide) (by decide) (by omega) (by omega) (by omega)
theorem Encoding.vst (sy : Sync) (vd : VReg) (vsa : VsReg) (e1 : Option VExt) : Encoding.Statement (.vst sy vd vsa e1) := Fits.v sy (op := 10) (fn := 1) (d := vd.val) (a := vsa.val) (b := 0) e1 (by decide) (by decide) (by omega) (by omega) (by omega)
theorem Encoding.vgth (sy : Sync) (vd : VReg) (vsa : VsReg) (vb : VReg) (e1 : Option VExt) : Encoding.Statement (.vgth sy vd vsa vb e1) := Fits.v sy (op := 10) (fn := 2) (d := vd.val) (a := vsa.val) (b := vb.val) e1 (by decide) (by decide) (by omega) (by omega) (by omega)
theorem Encoding.vsct (sy : Sync) (vd : VReg) (vsa : VsReg) (vb : VReg) (e1 : Option VExt) : Encoding.Statement (.vsct sy vd vsa vb e1) := Fits.v sy (op := 10) (fn := 3) (d := vd.val) (a := vsa.val) (b := vb.val) e1 (by decide) (by decide) (by omega) (by omega) (by omega)
theorem Encoding.vldl (sy : Sync) (vd : VReg) (vb : VReg) (e1 : Option VExt) : Encoding.Statement (.vldl sy vd vb e1) := Fits.v sy (op := 10) (fn := 4) (d := vd.val) (a := 0) (b := vb.val) e1 (by decide) (by decide) (by omega) (by omega) (by omega)
theorem Encoding.vstl (sy : Sync) (vd : VReg) (vb : VReg) (e1 : Option VExt) : Encoding.Statement (.vstl sy vd vb e1) := Fits.v sy (op := 10) (fn := 5) (d := vd.val) (a := 0) (b := vb.val) e1 (by decide) (by decide) (by omega) (by omega) (by omega)
theorem Encoding.mchb (sy : Sync) (band : Band) (nb : Fin 8) (cols : Fin 64) : Encoding.Statement (.mchb sy band nb cols) := by
  exact Fits.one sy (by decide) (by omega)
theorem Encoding.mma (sy : Sync) (va : VReg) (vb : VReg) (ta : Bool) (tb : Bool) (neg : Bool) : Encoding.Statement (.mma sy va vb ta tb neg) := by
  have := bitOf_le ta
  have := bitOf_le tb
  have := bitOf_le neg
  exact Fits.one sy (by decide) (by omega)
theorem Encoding.mmag (sy : Sync) (vi : VReg) (vb : VReg) (vc : VReg) : Encoding.Statement (.mmag sy vi vb vc) := by
  exact Fits.two sy (by decide) (by omega) (by omega)
theorem Encoding.mtrn (sy : Sync) (va : VReg) : Encoding.Statement (.mtrn sy va) := by
  exact Fits.one sy (by decide) (by omega)
theorem Encoding.mperm (sy : Sync) (va : VReg) (vb : VReg) : Encoding.Statement (.mperm sy va vb) := by
  exact Fits.one sy (by decide) (by omega)
theorem Encoding.mrsum (sy : Sync) (va : VReg) : Encoding.Statement (.mrsum sy va) := by
  exact Fits.one sy (by decide) (by omega)
theorem Encoding.mcsum (sy : Sync) (va : VReg) : Encoding.Statement (.mcsum sy va) := by
  exact Fits.one sy (by decide) (by omega)
theorem Encoding.mdrn (sy : Sync) (vd : VReg) (band : Band) (nb : Fin 8) (clear : Bool) : Encoding.Statement (.mdrn sy vd band nb clear) := by
  have := bitOf_le clear
  exact Fits.one sy (by decide) (by omega)
theorem Encoding.mzro (sy : Sync) (band : Band) (nb : Fin 8) : Encoding.Statement (.mzro sy band nb) := by
  exact Fits.one sy (by decide) (by omega)
theorem Encoding.mlda (sy : Sync) (va : VReg) (band : Band) (nb : Fin 8) : Encoding.Statement (.mlda sy va band nb) := by
  exact Fits.one sy (by decide) (by omega)
theorem Encoding.xpq (sy : Sync) (od : OReg) : Encoding.Statement (.xpq sy od) := by
  exact Fits.one sy (by decide) (by omega)
theorem Encoding.xshp (sy : Sync) (sh : ShReg) : Encoding.Statement (.xshp sy sh) := by
  exact Fits.one sy (by decide) (by omega)
theorem Encoding.xcpy (sy : Sync) (hd : HReg) (od : OReg) (hs : HReg) (os : OReg) (b : BReg) (sh : ShReg) (red : RedCopy) (cls : Fin 16) (hint : Hint) (cmp : Bool) (zero : Bool) : Encoding.Statement (.xcpy sy hd od hs os b sh red cls hint cmp zero) := by
  have := RedCopy.code_lt red
  have := Hint.code_lt hint
  have := bitOf_le cmp
  have := bitOf_le zero
  have := xw_lt hd.isLt hs.isLt od.isLt os.isLt
  exact Fits.two sy (by decide) (by omega) (by omega)
theorem Encoding.xgth (sy : Sync) (hd : HReg) (od : OReg) (hs : HReg) (os : OReg) (b : BReg) (hi : HReg) (sh : ShReg) (cls : Fin 16) (hint : Hint) : Encoding.Statement (.xgth sy hd od hs os b hi sh cls hint) := by
  have := Hint.code_lt hint
  have := xw_lt hd.isLt hs.isLt od.isLt os.isLt
  exact Fits.two sy (by decide) (by omega) (by omega)
theorem Encoding.xsltIn (sy : Sync) (hs : HReg) (os : OReg) (sl : SlReg) (b : BReg) (cls : Fin 16) (hint : Hint) : Encoding.Statement (.xsltIn sy hs os sl b cls hint) := by
  have := Hint.code_lt hint
  have := xw_lt (show 0 < 64 by decide) hs.isLt (show 0 < 16 by decide) os.isLt
  exact Fits.two sy (by decide) (by omega) (by omega)
theorem Encoding.xsltOut (sy : Sync) (hd : HReg) (od : OReg) (sl : SlReg) (b : BReg) (cls : Fin 16) (hint : Hint) : Encoding.Statement (.xsltOut sy hd od sl b cls hint) := by
  have := Hint.code_lt hint
  have := xw_lt hd.isLt (show 0 < 64 by decide) od.isLt (show 0 < 16 by decide)
  exact Fits.two sy (by decide) (by omega) (by omega)
theorem Encoding.xfil (sy : Sync) (hd : HReg) (od : OReg) (b : BReg) (sh : ShReg) (fill : BitVec 8) (cls : Fin 16) (hint : Hint) : Encoding.Statement (.xfil sy hd od b sh fill cls hint) := by
  have := Hint.code_lt hint
  have := xw_lt hd.isLt (show 0 < 64 by decide) od.isLt (show 0 < 16 by decide)
  exact Fits.two sy (by decide) (by omega) (by omega)
theorem Encoding.xado (sy : Sync) (od : OReg) (imm : BitVec 16) : Encoding.Statement (.xado sy od imm) := by
  exact Fits.one sy (by decide) (by omega)
theorem Encoding.xadoLen1 (sy : Sync) (od : OReg) (imm : BitVec 44) : Encoding.Statement (.xadoLen1 sy od imm) := by
  exact Fits.two sy (by decide) (by omega) (by omega)
theorem Encoding.asyncTrapTaken (k : CtxKey) : Encoding.Statement (.asyncTrapTaken k) := Fits.nil
theorem Encoding.vnop (sy : Sync) : Encoding.Statement (.vnop sy) := Fits.v sy (op := 0) (fn := 0) (d := 0) (a := 0) (b := 0) none (by decide) (by decide) (by omega) (by omega) (by omega)
theorem Encoding.mnop (sy : Sync) : Encoding.Statement (.mnop sy) := by
  exact Fits.one sy (by decide) (by omega)
theorem Encoding.xnop (sy : Sync) : Encoding.Statement (.xnop sy) := by
  exact Fits.one sy (by decide) (by omega)
theorem Encoding.mend (sy : Sync) : Encoding.Statement (.mend sy) := by
  exact Fits.one sy (by decide) (by omega)
theorem Encoding.xend (sy : Sync) : Encoding.Statement (.xend sy) := by
  exact Fits.one sy (by decide) (by omega)
theorem Encoding.mche (sy : Sync) : Encoding.Statement (.mche sy) := by
  exact Fits.one sy (by decide) (by omega)
theorem Encoding.xwait (sy : Sync) : Encoding.Statement (.xwait sy) := by
  exact Fits.one sy (by decide) (by omega)
theorem Encoding.copyDone (k : CtxKey) (cs : CopyStream) (n : BitVec 32) : Encoding.Statement (.copyDone k cs n) := Fits.nil
theorem Encoding.copyFault (k : CtxKey) (cs : CopyStream) (n : BitVec 32) (why : CopyFaultCause) : Encoding.Statement (.copyFault k cs n why) := Fits.nil
theorem Encoding.drainVerdict (k : CtxKey) : Encoding.Statement (.drainVerdict k) := Fits.nil
theorem Encoding.nougatArbitration (k : CtxKey) : Encoding.Statement (.nougatArbitration k) := Fits.nil
theorem Encoding.nougatSelfTest (cl : Cluster) (pass : Bool) : Encoding.Statement (.nougatSelfTest cl pass) := Fits.nil
theorem Encoding.writeCompleteAtHome (line : Nat) : Encoding.Statement (.writeCompleteAtHome line) := Fits.nil
theorem Encoding.flushMarkerAnswer (n : Nat) : Encoding.Statement (.flushMarkerAnswer n) := Fits.nil
theorem Encoding.faultQueueReplay (die : Die) (slice : Fin 16) : Encoding.Statement (.faultQueueReplay die slice) := Fits.nil
theorem Encoding.faultQueueWatchdog (die : Die) (slice : Fin 16) : Encoding.Statement (.faultQueueWatchdog die slice) := Fits.nil
theorem Encoding.sliceRetire (die : Die) (slice : Fin 16) (target : Fin 16) : Encoding.Statement (.sliceRetire die slice target) := Fits.nil
theorem Encoding.reductionPacketArrival (pkt : RedPacket) : Encoding.Statement (.reductionPacketArrival pkt) := Fits.nil
theorem Encoding.foldContribution (die : Die) : Encoding.Statement (.foldContribution die) := Fits.nil
theorem Encoding.foldResult (k : CtxKey) : Encoding.Statement (.foldResult k) := Fits.nil
theorem Encoding.departure (grp : BitVec 16) (member : Nat) : Encoding.Statement (.departure grp member) := Fits.nil
theorem Encoding.groupTimeout (k : CtxKey) : Encoding.Statement (.groupTimeout k) := Fits.nil
theorem Encoding.collectivePacketArrival (k : CtxKey) (hash : BitVec 32) : Encoding.Statement (.collectivePacketArrival k hash) := Fits.nil
theorem Encoding.xcollExchangeDone (grp : BitVec 16) (seq : BitVec 16) : Encoding.Statement (.xcollExchangeDone grp seq) := Fits.nil
theorem Encoding.evLaunch (src : RingId) (pkt : Packet) : Encoding.Statement (.evLaunch src pkt) := Fits.nil
theorem Encoding.evSignal (src : RingId) (pkt : Packet) : Encoding.Statement (.evSignal src pkt) := Fits.nil
theorem Encoding.nopPacket (src : RingId) (pkt : Packet) : Encoding.Statement (.nopPacket src pkt) := Fits.nil
theorem Encoding.cfgSet (src : RingId) (pkt : Packet) : Encoding.Statement (.cfgSet src pkt) := Fits.nil
theorem Encoding.cfgMask (src : RingId) (pkt : Packet) : Encoding.Statement (.cfgMask src pkt) := Fits.nil
theorem Encoding.cfgDestroy (src : RingId) (pkt : Packet) : Encoding.Statement (.cfgDestroy src pkt) := Fits.nil
theorem Encoding.cfgReset (src : RingId) (pkt : Packet) : Encoding.Statement (.cfgReset src pkt) := Fits.nil
theorem Encoding.cfgShootdown (src : RingId) (pkt : Packet) : Encoding.Statement (.cfgShootdown src pkt) := Fits.nil
theorem Encoding.cfgCap (src : RingId) (pkt : Packet) : Encoding.Statement (.cfgCap src pkt) := Fits.nil
theorem Encoding.ringEn (r : RingId) (on : Bool) : Encoding.Statement (.ringEn r on) := Fits.nil
theorem Encoding.ringbell (r : RingId) : Encoding.Statement (.ringbell r) := Fits.nil
theorem Encoding.ringerr (r : RingId) (val : BitVec 32) : Encoding.Statement (.ringerr r val) := Fits.nil
theorem Encoding.nodesig (r : RingId) (node : BitVec 32) : Encoding.Statement (.nodesig r node) := Fits.nil
theorem Encoding.hostbell (r : RingId) (node : BitVec 32) : Encoding.Statement (.hostbell r node) := Fits.nil
theorem Encoding.postn (fn : Fn) (db : Fin 4096) (n : BitVec 32) (relaxed : Bool) : Encoding.Statement (.postn fn db n relaxed) := Fits.nil
theorem Encoding.registerWrite (fn : Fn) (off : BitVec 22) (val : BitVec 32) : Encoding.Statement (.registerWrite fn off val) := Fits.nil
theorem Encoding.peerWrite (fn : PortFn) (bar : Bar) (off : Nat) (bytes : List Byte) (relaxed : Bool) : Encoding.Statement (.peerWrite fn bar off bytes relaxed) := Fits.nil
theorem Encoding.hostRead (fn : PortFn) (bar : Bar) (off : Nat) (len : Fin 65) : Encoding.Statement (.hostRead fn bar off len) := Fits.nil
theorem Encoding.functionLevelReset (p : Part) : Encoding.Statement (.functionLevelReset p) := Fits.nil
theorem Encoding.nodeCompletion (p : Part) (node : BitVec 32) : Encoding.Statement (.nodeCompletion p node) := Fits.nil
theorem Encoding.teamPlacement (choice : List CtxKey) : Encoding.Statement (.teamPlacement choice) := Fits.nil
theorem Encoding.aging (p : Part) (node : BitVec 32) (team : Nat) : Encoding.Statement (.aging p node team) := Fits.nil
theorem Encoding.timeSliceExpiry (p : Part) (node : BitVec 32) (team : Nat) : Encoding.Statement (.timeSliceExpiry p node team) := Fits.nil
theorem Encoding.evSave (p : Part) (node : BitVec 32) (team : Nat) : Encoding.Statement (.evSave p node team) := Fits.nil
theorem Encoding.leaseRenewal : Encoding.Statement (.leaseRenewal) := Fits.nil
theorem Encoding.leaseLapse : Encoding.Statement (.leaseLapse) := Fits.nil
theorem Encoding.pralineEvaluation (p : Part) : Encoding.Statement (.pralineEvaluation p) := Fits.nil
theorem Encoding.lockWindowExpiry (cl : Cluster) : Encoding.Statement (.lockWindowExpiry cl) := Fits.nil
theorem Encoding.lockRestEnd (cl : Cluster) : Encoding.Statement (.lockRestEnd cl) := Fits.nil
theorem Encoding.bucketRefill (die : Die) : Encoding.Statement (.bucketRefill die) := Fits.nil
theorem Encoding.flitReceive (l : LinkDir) (ordered : Bool) (sent : List FlitOut) (wire : Option (List Flit × List Byte)) : Encoding.Statement (.flitReceive l ordered sent wire) := Fits.nil
theorem Encoding.repeatRequest (l : LinkDir) (seq : BitVec 12) : Encoding.Statement (.repeatRequest l seq) := Fits.nil
theorem Encoding.linkRetrain (l : LinkDir) (bad : Nat) (trains : Bool) : Encoding.Statement (.linkRetrain l bad trains) := Fits.nil
theorem Encoding.scaleoutPacketReceive (peer : BitVec 16) (seq : BitVec 32) (msg : ScaleMsg) : Encoding.Statement (.scaleoutPacketReceive peer seq msg) := Fits.nil
theorem Encoding.scaleoutResend (peer : BitVec 16) (seq : BitVec 32) : Encoding.Statement (.scaleoutResend peer seq) := Fits.nil
theorem Encoding.thermalSample (die : Die) (sensor : Fin 8) (temp : Sample) : Encoding.Statement (.thermalSample die sensor temp) := Fits.nil
theorem Encoding.numericSensorRead (die : Die) (sensor : Sensor) : Encoding.Statement (.numericSensorRead die sensor) := Fits.nil
theorem Encoding.numericEffecterSet (watts : Nat) : Encoding.Statement (.numericEffecterSet watts) := Fits.nil
theorem Encoding.logMirror : Encoding.Statement (.logMirror) := Fits.nil
theorem Encoding.logReadClear : Encoding.Statement (.logReadClear) := Fits.nil
theorem Encoding.requestUpdate : Encoding.Statement (.requestUpdate) := Fits.nil
theorem Encoding.passComponentTable : Encoding.Statement (.passComponentTable) := Fits.nil
theorem Encoding.updateComponent (comp : Component) : Encoding.Statement (.updateComponent comp) := Fits.nil
theorem Encoding.firmwareTransfer (comp : Component) (version : Nat) (sigOk : Bool) : Encoding.Statement (.firmwareTransfer comp version sigOk) := Fits.nil
theorem Encoding.activateFirmware (comp : Component) : Encoding.Statement (.activateFirmware comp) := Fits.nil
theorem Encoding.heartbeat (arrived : Bool) : Encoding.Statement (.heartbeat arrived) := Fits.nil
theorem Encoding.vemundFailover : Encoding.Statement (.vemundFailover) := Fits.nil
theorem Encoding.moduleReset : Encoding.Statement (.moduleReset) := Fits.nil
theorem Encoding.freeze : Encoding.Statement (.freeze) := Fits.nil
theorem Encoding.tapAccess (what : TapTarget) : Encoding.Statement (.tapAccess what) := Fits.nil
theorem Encoding.keyInstall (key : BitVec 8) (val : BitVec 512) : Encoding.Statement (.keyInstall key val) := Fits.nil
theorem Encoding.keyRevoke (key : BitVec 8) : Encoding.Statement (.keyRevoke key) := Fits.nil
theorem Encoding.presentationModeSet (mode : Mode) : Encoding.Statement (.presentationModeSet mode) := Fits.nil
theorem Encoding.packageIdSet (id : BitVec 16) : Encoding.Statement (.packageIdSet id) := Fits.nil
theorem Encoding.routeTableLoad (tbl : List Route) : Encoding.Statement (.routeTableLoad tbl) := Fits.nil
theorem Encoding.configurationRequest (fn : PortFn) (reg : CfgReg) : Encoding.Statement (.configurationRequest fn reg) := Fits.nil

end Sys2Proof.Laws
end

