-- ==== Sys2Proof/Tests/Slice0.lean ====
section
/-!
SUPPORT. Tests: words written out from the spec's encoding tables and examples decode to their instructions; each check
refuses an ill-formed term; one step of a few instructions does what the spec's tables say by hand; and for every statement
with hypotheses one concrete state meets them, clause by clause.
-/

namespace Sys2Proof.Tests

set_option Elab.async false

open Sys2Proof Sys2Proof.Machine

/-! ## States -/

/-- A package with one task on context 0 of core 0 (log entry 5), whose C stream is next. -/
def base : State := State.prime .reset .c []
/-- The same with another stream next. -/
def on (t : Stream) : State := State.prime .reset t []
/-- `base` with scalar registers set. -/
def regs (l : List (XReg × Nat)) : State := l.foldl (fun s e => s.setX e.1 (BitVec.ofNat 64 e.2)) base
/-- The address of a byte of the own SP window. -/
def spAt (o : Nat) : Nat := 0xFF * 2 ^ 48 + o
/-- The last window address of an aligned doubleword. -/
def lastD : Nat := spAt (983040 - 8)
/-- An access has come about. -/
def isDone {α : Type} : Acc α → Bool
  | .done _ _ => true
  | _ => false
/-- An access faults. -/
def isFault {α : Type} : Acc α → Bool
  | .fault _ _ => true
  | _ => false
/-- Conditions on what a lookup answers. -/
def okAnd {ε α : Type} (r : Except ε α × State) (f : α → State → Bool) : Bool :=
  match r with
  | (.ok a, w) => f a w
  | _ => false

/-! ## Decoding: words of every encoding (R21 to R37, and each instruction's rule) -/

/-- Each word list decodes to its instruction in its stream. -/
def decodes (l : List (Stream × List Nat × Fetched)) : Bool :=
  l.all fun q =>
    match decodeList q.1 q.2.1 with
    | .ok f => decide (f = q.2.2)
    | .error _ => false

theorem test_decode_scalar_1 : decodes [
    (.c, [0x30000000], .ins (.nop ⟨false, false, true, true⟩)),
    (.c, [0xA0004000], .ins (.done ⟨true, false, true, false⟩)),
    (.c, [0x10008000], .ins (.yield ⟨false, false, false, true⟩)),
    (.c, [0x8000C9C3], .ins (.trap ⟨true, false, false, false⟩ 0x9C3)),
    (.c, [0xF0010000], .ins (.eret ⟨true, true, true, true⟩)),
    (.c, [0x60014000], .ins (.brk ⟨false, true, true, false⟩)),
    (.c, [0xD001802D], .ins (.wfe ⟨true, true, false, true⟩ 0x2D)),
    (.c, [0x4001C02D], .ins (.evclr ⟨false, true, false, false⟩ 0x2D)),
    (.c, [0xB0020000], .ins (.ret ⟨true, false, true, true⟩)),
    (.c, [0x201A55A1], .ins (.fence ⟨false, false, true, false⟩ 0xA55A .core true)),
    (.c, [0x9021661C], .ins (.add ⟨true, false, false, true⟩ 5 38 7)),
    (.c, [0x0021661D], .ins (.sub ⟨false, false, false, false⟩ 5 38 7)),
    (.c, [0x7021661E], .ins (.and ⟨false, true, true, true⟩ 5 38 7)),
    (.c, [0xE021661F], .ins (.or ⟨true, true, true, false⟩ 5 38 7)),
    (.c, [0x5031661C], .ins (.xor ⟨false, true, false, true⟩ 5 38 7)),
    (.c, [0xC031661D], .ins (.shl ⟨true, true, false, false⟩ 5 38 7)),
    (.c, [0x3031661E], .ins (.shr ⟨false, false, true, true⟩ 5 38 7)),
    (.c, [0xA031661F], .ins (.sra ⟨true, false, true, false⟩ 5 38 7)),
    (.c, [0x1041661C], .ins (.mul ⟨false, false, false, true⟩ 5 38 7)),
    (.c, [0x8041661D], .ins (.mulh ⟨true, false, false, false⟩ 5 38 7)),
    (.c, [0xF041661E], .ins (.mulhu ⟨true, true, true, true⟩ 5 38 7)),
    (.c, [0x6051661C], .ins (.div ⟨false, true, true, false⟩ 5 38 7)),
    (.c, [0xD051661D], .ins (.divu ⟨true, true, false, true⟩ 5 38 7)),
    (.c, [0x4051661E], .ins (.rem ⟨false, true, false, false⟩ 5 38 7))] = true := by decide +kernel

theorem test_decode_scalar_2 : decodes [
    (.c, [0xB051661F], .ins (.remu ⟨true, false, true, true⟩ 5 38 7)),
    (.c, [0x2061661C], .ins (.min ⟨false, false, true, false⟩ 5 38 7)),
    (.c, [0x9061661D], .ins (.max ⟨true, false, false, true⟩ 5 38 7)),
    (.c, [0x0061661E], .ins (.minu ⟨false, false, false, false⟩ 5 38 7)),
    (.c, [0x7061661F], .ins (.maxu ⟨false, true, true, true⟩ 5 38 7)),
    (.c, [0xE0716600], .ins (.mov ⟨true, true, true, false⟩ 5 38)),
    (.c, [0x50716601], .ins (.popc ⟨false, true, false, true⟩ 5 38)),
    (.c, [0xC0716602], .ins (.clz ⟨true, true, false, false⟩ 5 38)),
    (.c, [0x30716603], .ins (.ctz ⟨false, false, true, true⟩ 5 38)),
    (.c, [0xA081669A], .ins (.addi ⟨true, false, true, false⟩ 5 38 0x9A)),
    (.c, [0xF091669A], .ins (.andi ⟨true, true, true, true⟩ 5 38 0x9A)),
    (.c, [0x40A1669A], .ins (.ori ⟨false, true, false, false⟩ 5 38 0x9A)),
    (.c, [0x90B1669A], .ins (.xori ⟨true, false, false, true⟩ 5 38 0x9A)),
    (.c, [0xE0C16625], .ins (.shli ⟨true, true, true, false⟩ 5 38 0x25)),
    (.c, [0x30D16625], .ins (.shri ⟨false, false, true, true⟩ 5 38 0x25)),
    (.c, [0x80E16625], .ins (.srai ⟨true, false, false, false⟩ 5 38 0x25)),
    (.c, [0xD0F1409A], .ins (.li ⟨true, true, false, true⟩ 5 0x9A)),
    (.c, [0x2101669A], .ins (.muli ⟨false, false, true, false⟩ 5 38 0x9A)),
    (.c, [0x04816112, 0x08ABCDEF], .ins (.addiLen1 ⟨false, false, false, false⟩ 5 33 0x8ABCDEF12)),
    (.c, [0x08816110, 0x08765432, 0x0FEDCBA9], .ins (.addiLen2 ⟨false, false, false, false⟩ 5 33 0xFEDCBA9876543210)),
    (.c, [0x0491A212, 0x08ABCDEF], .ins (.andiLen1 ⟨false, false, false, false⟩ 6 34 0x8ABCDEF12)),
    (.c, [0x0891A210, 0x08765432, 0x0FEDCBA9], .ins (.andiLen2 ⟨false, false, false, false⟩ 6 34 0xFEDCBA9876543210)),
    (.c, [0x04A1E312, 0x08ABCDEF], .ins (.oriLen1 ⟨false, false, false, false⟩ 7 35 0x8ABCDEF12)),
    (.c, [0x08A1E310, 0x08765432, 0x0FEDCBA9], .ins (.oriLen2 ⟨false, false, false, false⟩ 7 35 0xFEDCBA9876543210))] = true := by decide +kernel

theorem test_decode_scalar_3 : decodes [
    (.c, [0x04B22412, 0x08ABCDEF], .ins (.xoriLen1 ⟨false, false, false, false⟩ 8 36 0x8ABCDEF12)),
    (.c, [0x08B22410, 0x08765432, 0x0FEDCBA9], .ins (.xoriLen2 ⟨false, false, false, false⟩ 8 36 0xFEDCBA9876543210)),
    (.c, [0x04C2653B, 0x00000000], .ins (.shliLen1 ⟨false, false, false, false⟩ 9 37 0x3B)),
    (.c, [0x08C2653B, 0x00000000, 0x00000000], .ins (.shliLen2 ⟨false, false, false, false⟩ 9 37 0x3B)),
    (.c, [0x04D2A63A, 0x00000000], .ins (.shriLen1 ⟨false, false, false, false⟩ 10 38 0x3A)),
    (.c, [0x08D2A63A, 0x00000000, 0x00000000], .ins (.shriLen2 ⟨false, false, false, false⟩ 10 38 0x3A)),
    (.c, [0x04E2E739, 0x00000000], .ins (.sraiLen1 ⟨false, false, false, false⟩ 11 39 0x39)),
    (.c, [0x08E2E739, 0x00000000, 0x00000000], .ins (.sraiLen2 ⟨false, false, false, false⟩ 11 39 0x39)),
    (.c, [0x04F30012, 0x08ABCDEF], .ins (.liLen1 ⟨false, false, false, false⟩ 12 0x8ABCDEF12)),
    (.c, [0x08F30010, 0x08765432, 0x0FEDCBA9], .ins (.liLen2 ⟨false, false, false, false⟩ 12 0xFEDCBA9876543210)),
    (.c, [0x05036912, 0x08ABCDEF], .ins (.muliLen1 ⟨false, false, false, false⟩ 13 41 0x8ABCDEF12)),
    (.c, [0x09036910, 0x08765432, 0x0FEDCBA9], .ins (.muliLen2 ⟨false, false, false, false⟩ 13 41 0xFEDCBA9876543210)),
    (.c, [0x0050861D], .ins (.divu ⟨false, false, false, false⟩ 2 6 7)),
    (.c, [0x00E24403], .ins (.srai ⟨false, false, false, false⟩ 9 4 3)),
    (.c, [0x04F14078, 0x00123456], .ins (.liLen1 ⟨false, false, false, false⟩ 5 0x12345678)),
    (.c, [0x001FFFF6], .ins (.fence ⟨false, false, false, false⟩ 0xFFFF .device false)),
    (.c, [0x00100019], .ins (.fence ⟨false, false, false, false⟩ 1 .system true)),
    (.c, [0x00018004], .ins (.wfe ⟨false, false, false, false⟩ 4)),
    (.c, [0x0001C03F], .ins (.evclr ⟨false, false, false, false⟩ 0x3F)),
    (.c, [0x0000C123], .ins (.trap ⟨false, false, false, false⟩ 0x123))] = true := by decide +kernel

theorem test_decode_control_1 : decodes [
    (.c, [0x711B5987], .ins (.cmp ⟨false, true, true, true⟩ 11 .geu 38 7)),
    (.c, [0xE12B49AD], .ins (.cmpi ⟨true, true, true, false⟩ 11 .ltu 38 0x2D)),
    (.c, [0xC139AC00], .ins (.pand ⟨true, true, false, false⟩ 9 10 12)),
    (.c, [0x3139AC01], .ins (.por ⟨false, false, true, true⟩ 9 10 12)),
    (.c, [0xA139AC02], .ins (.pxor ⟨true, false, true, false⟩ 9 10 12)),
    (.c, [0x1139AC03], .ins (.pandn ⟨false, false, false, true⟩ 9 10 12)),
    (.c, [0x8139A004], .ins (.pnot ⟨true, false, false, false⟩ 9 10)),
    (.c, [0xF1390005], .ins (.pset ⟨true, true, true, true⟩ 9)),
    (.c, [0x61390006], .ins (.pclr ⟨false, true, true, false⟩ 9)),
    (.c, [0xD139A007], .ins (.pmov ⟨true, true, false, true⟩ 9 10)),
    (.c, [0x41416800], .ins (.pcnt ⟨false, true, false, false⟩ 5 10)),
    (.c, [0xB1506B21], .ins (.br ⟨true, false, true, true⟩ 0x6B21)),
    (.c, [0x916BEB21], .ins (.bp ⟨true, false, false, true⟩ 11 true 0x6B21)),
    (.c, [0x717BEB21], .ins (.bany ⟨false, true, true, true⟩ 11 true 0x6B21)),
    (.c, [0x518BEB21], .ins (.ball ⟨false, true, false, true⟩ 11 true 0x6B21)),
    (.c, [0x31906B21], .ins (.call ⟨false, false, true, true⟩ 0x6B21)),
    (.c, [0x11A02600], .ins (.bri ⟨false, false, false, true⟩ 38)),
    (.c, [0x81B02600], .ins (.calli ⟨true, false, false, false⟩ 38)),
    (.c, [0x05232A15, 0x08123456], .ins (.cmpiLen1 ⟨false, false, false, false⟩ 3 .lt 40 0x2048D1595)),
    (.c, [0x05501234, 0x0FEDCBA9], .ins (.brLen1 ⟨false, false, false, false⟩ 0x7F6E5D49234)),
    (.c, [0x056B9234, 0x0FEDCBA9], .ins (.bpLen1 ⟨false, false, false, false⟩ 11 true 0x7F6E5D49234)),
    (.c, [0x057B9234, 0x0FEDCBA9], .ins (.banyLen1 ⟨false, false, false, false⟩ 11 true 0x7F6E5D49234)),
    (.c, [0x058B9234, 0x0FEDCBA9], .ins (.ballLen1 ⟨false, false, false, false⟩ 11 true 0x7F6E5D49234)),
    (.c, [0x05901234, 0x0FEDCBA9], .ins (.callLen1 ⟨false, false, false, false⟩ 0x7F6E5D49234))] = true := by decide +kernel

theorem test_decode_control_2 : decodes [
    (.c, [0x0113428B], .ins (.cmp ⟨false, false, false, false⟩ 3 .ltu 10 11)),
    (.c, [0x012130BF], .ins (.cmpi ⟨false, false, false, false⟩ 1 .ge 2 0x3F)),
    (.c, [0x01341203], .ins (.pandn ⟨false, false, false, false⟩ 4 1 2)),
    (.c, [0x01421400], .ins (.pcnt ⟨false, false, false, false⟩ 8 5)),
    (.c, [0x0162FFFB], .ins (.bp ⟨false, false, false, false⟩ 2 true 0x7FFB)),
    (.c, [0x01A00600], .ins (.bri ⟨false, false, false, false⟩ 6)),
    (.c, [0x01B00600], .ins (.calli ⟨false, false, false, false⟩ 6)),
    (.c, [0x00020000], .ins (.ret ⟨false, false, false, false⟩))] = true := by decide +kernel

theorem test_decode_memory : decodes [
    (.c, [0xF1C166BF], .ins (.ld ⟨true, true, true, true⟩ 5 38 11 .bypass .d)),
    (.c, [0xD1D166B5], .ins (.lds ⟨true, true, false, true⟩ 5 38 11 .streaming .h)),
    (.c, [0xB1E166BF], .ins (.ldro ⟨true, false, true, true⟩ 5 38 11 .bypass .d)),
    (.c, [0x91FA66B5], .ins (.st ⟨true, false, false, true⟩ 41 38 11 .streaming .h)),
    (.c, [0x72014052], .ins (.mfsr ⟨false, true, true, true⟩ 5 0x52)),
    (.c, [0xE21A4052], .ins (.mtsr ⟨true, true, true, false⟩ 0x52 41)),
    (.c, [0x52242600], .ins (.ego ⟨false, true, false, true⟩ .mx 38)),
    (.c, [0xC2360000], .ins (.ewait ⟨true, true, false, false⟩ (some .vx))),
    (.c, [0x32480500], .ins (.estat ⟨false, false, true, true⟩ 5 .st)),
    (.c, [0xA2502600], .ins (.fqpush ⟨true, false, true, false⟩ 38)),
    (.c, [0x12622600], .ins (.pqpush ⟨false, false, false, true⟩ .ld 38)),
    (.c, [0x05C18493, 0x0FFFFFF8], .ins (.ldLen1 ⟨false, false, false, false⟩ 6 4 9 .default .d 0xFFFFFF8)),
    (.c, [0x05D18496, 0x0FFFFFF8], .ins (.ldsLen1 ⟨false, false, false, false⟩ 6 4 9 .streaming .w 0xFFFFFF8)),
    (.c, [0x05E18499, 0x0FFFFFF8], .ins (.ldroLen1 ⟨false, false, false, false⟩ 6 4 9 .sticky .h 0xFFFFFF8)),
    (.c, [0x05F1849C, 0x0FFFFFF8], .ins (.stLen1 ⟨false, false, false, false⟩ 6 4 9 .bypass .b 0xFFFFFF8)),
    (.c, [0x0201C015], .ins (.mfsr ⟨false, false, false, false⟩ 7 0x015)),
    (.c, [0x02110052], .ins (.mtsr ⟨false, false, false, false⟩ 0x052 4)),
    (.c, [0x02240C00], .ins (.ego ⟨false, false, false, false⟩ .mx 12)),
    (.c, [0x02300000], .ins (.ewait ⟨false, false, false, false⟩ none)),
    (.c, [0x02500900], .ins (.fqpush ⟨false, false, false, false⟩ 9)),
    (.c, [0x02680300], .ins (.pqpush ⟨false, false, false, false⟩ .st 3)),
    (.c, [0x01C18402], .ins (.ld ⟨false, false, false, false⟩ 6 4 0 .default .w)),
    (.c, [0x05F1C233, 0x00000040], .ins (.stLen1 ⟨false, false, false, false⟩ 7 2 3 .default .d 0x40)),
    (.c, [0x05E24305, 0x0FFFFFF8], .ins (.ldroLen1 ⟨false, false, false, false⟩ 9 3 0 .streaming .h 0xFFFFFF8))] = true := by decide +kernel

theorem test_decode_units_1 : decodes [
    (.c, [0x827AE61E], .ins (.tmap ⟨true, false, false, false⟩ 43 38 7 .rw)),
    (.c, [0xF28AC000], .ins (.tunmap ⟨true, true, true, true⟩ 43)),
    (.c, [0x629AC500], .ins (.tquery ⟨false, true, true, false⟩ 5 43)),
    (.c, [0xD2AB0000], .ins (.binit ⟨true, true, false, true⟩ 44)),
    (.c, [0x42AB2601], .ins (.bexp ⟨false, true, false, false⟩ 44 38)),
    (.c, [0xB2AB2602], .ins (.barr ⟨true, false, true, true⟩ 44 38)),
    (.c, [0x22BB0001], .ins (.bwait ⟨false, false, true, false⟩ 44 true)),
    (.c, [0x92CB2C01], .ins (.btest ⟨true, false, false, true⟩ 11 44 true)),
    (.c, [0x52FB3A35], .ins (.cbr ⟨false, true, false, true⟩ .any true 11 0x1A35)),
    (.c, [0x33000000], .ins (.cleave ⟨false, false, true, true⟩)),
    (.c, [0xA3014001], .ins (.cquery ⟨true, false, true, false⟩ 5)),
    (.c, [0x83202600], .ins (.gsig ⟨true, false, false, false⟩ 38)),
    (.c, [0xF3314000], .ins (.getratio ⟨true, true, true, true⟩ 5)),
    (.c, [0x63300001], .ins (.rlock ⟨false, true, true, false⟩)),
    (.c, [0xD3300002], .ins (.runlock ⟨true, true, false, true⟩)),
    (.c, [0x43416600], .ins (.amalloc ⟨false, true, false, false⟩ 5 38)),
    (.c, [0xB3402601], .ins (.amfree ⟨true, false, true, true⟩ 38)),
    (.c, [0x23406601], .ins (.amfreeDiscard ⟨false, false, true, false⟩ 38)),
    (.c, [0x9341661E], .ins (.amgrant ⟨true, false, false, true⟩ 5 38 7)),
    (.c, [0x03416603], .ins (.amquery ⟨false, false, false, false⟩ 5 38)),
    (.c, [0x73514000], .ins (.vwait ⟨false, true, true, true⟩ 5)),
    (.c, [0xE3514001], .ins (.vsig ⟨true, true, true, false⟩ 5)),
    (.c, [0x53514002], .ins (.vstat ⟨false, true, false, true⟩ 5)),
    (.c, [0xC360261C], .ins (.pref ⟨true, true, false, false⟩ 38 7 .default))] = true := by decide +kernel

theorem test_decode_units_2 : decodes [
    (.c, [0x3362261C], .ins (.wbr ⟨false, false, true, true⟩ 38 7)),
    (.c, [0xA364261C], .ins (.invr ⟨true, false, true, false⟩ 38 7)),
    (.c, [0x1366261C], .ins (.rinv ⟨false, false, false, true⟩ 38 7)),
    (.c, [0x8368261C], .ins (.icinv ⟨true, false, false, false⟩ 38 7)),
    (.c, [0xF37C2800], .ins (.slres ⟨true, true, true, true⟩ 5 6)),
    (.c, [0x637C0001], .ins (.slpost ⟨false, true, true, false⟩ 6)),
    (.c, [0xD37C2802], .ins (.slacq ⟨true, true, false, true⟩ 5 6)),
    (.c, [0x437C0003], .ins (.slrel ⟨false, true, false, false⟩ 6)),
    (.c, [0x06F9B234, 0x0FEDCBA9], .ins (.cbrLen1 ⟨false, false, false, false⟩ .maj true 9 0x1FDB9753234)),
    (.c, [0x06D14A04, 0x00C1F000], .ins (.amo ⟨false, false, false, false⟩ .add true 0 .device true true true 5 10 1)),
    (.c, [0x06D00A04, 0x08800000], .ins (.amo ⟨false, false, false, false⟩ .swap false 0 .core false false false 0 10 1)),
    (.c, [0x06E18A1C, 0x00822000], .ins (.cas ⟨false, false, false, false⟩ false 0 .system true false 6 10 7)),
    (.c, [0x07800A0C, 0x01940000], .ins (.red ⟨false, false, false, false⟩ .fadd32 false 5 10 3)),
    (.c, [0x0B1F7D2B, 0x02400040, 0x00000041], .ins (.xcoll ⟨false, false, false, false⟩ 61 61 .addFp32 .fp32 9 0x40 0x41)),
    (.c, [0x0B10C213, 0x0FFFFFFF, 0x00000001], .ins (.xcoll ⟨false, false, false, false⟩ 2 3 .addInt .int32 63 0x3FFFFF 1)),
    (.c, [0x02F37FF0], .ins (.cbr ⟨false, false, false, false⟩ .all true 3 0x1FF0)),
    (.c, [0x0271CA2E], .ins (.tmap ⟨false, false, false, false⟩ 7 10 11 .rw)),
    (.c, [0x02A0C000], .ins (.binit ⟨false, false, false, false⟩ 3)),
    (.c, [0x02A0C401], .ins (.bexp ⟨false, false, false, false⟩ 3 4)),
    (.c, [0x02A04A02], .ins (.barr ⟨false, false, false, false⟩ 1 10)),
    (.c, [0x02C14801], .ins (.btest ⟨false, false, false, false⟩ 2 5 true)),
    (.c, [0x03744800], .ins (.slres ⟨false, false, false, false⟩ 9 2)),
    (.c, [0x03740001], .ins (.slpost ⟨false, false, false, false⟩ 2)),
    (.c, [0x03744802], .ins (.slacq ⟨false, false, false, false⟩ 9 2))] = true := by decide +kernel

theorem test_decode_units_3 : decodes [
    (.c, [0x03740003], .ins (.slrel ⟨false, false, false, false⟩ 2)),
    (.c, [0x03414600], .ins (.amalloc ⟨false, false, false, false⟩ 5 6)),
    (.c, [0x03404601], .ins (.amfreeDiscard ⟨false, false, false, false⟩ 6)),
    (.c, [0x0341C826], .ins (.amgrant ⟨false, false, false, false⟩ 7 8 9)),
    (.c, [0x03414603], .ins (.amquery ⟨false, false, false, false⟩ 5 6)),
    (.c, [0x03514000], .ins (.vwait ⟨false, false, false, false⟩ 5)),
    (.c, [0x03518001], .ins (.vsig ⟨false, false, false, false⟩ 6)),
    (.c, [0x0351C002], .ins (.vstat ⟨false, false, false, false⟩ 7)),
    (.c, [0x03600416], .ins (.pref ⟨false, false, false, false⟩ 4 5 .sticky)),
    (.c, [0x03620414], .ins (.wbr ⟨false, false, false, false⟩ 4 5)),
    (.c, [0x03640414], .ins (.invr ⟨false, false, false, false⟩ 4 5)),
    (.c, [0x03660000], .ins (.rinv ⟨false, false, false, false⟩ 0 0)),
    (.c, [0x03680414], .ins (.icinv ⟨false, false, false, false⟩ 4 5)),
    (.c, [0x03310000], .ins (.getratio ⟨false, false, false, false⟩ 4)),
    (.c, [0x03000000], .ins (.cleave ⟨false, false, false, false⟩))] = true := by decide +kernel

theorem test_decode_vector_1 : decodes [
    (.vx, [0xB0000001], .ins (.vend ⟨true, false, true, true⟩)),
    (.vx, [0x20028002], .ins (.vpq ⟨false, false, true, false⟩ 5)),
    (.vx, [0x90029803], .ins (.vsetvl ⟨true, false, false, true⟩ 5 6)),
    (.vx, [0x00098004], .ins (.vflgr ⟨false, false, false, false⟩ 19)),
    (.vx, [0x70000005], .ins (.vflgc ⟨false, true, true, true⟩)),
    (.vx, [0xE0099806], .ins (.vview ⟨true, true, true, false⟩ 19 6)),
    (.vx, [0x5002A807], .ins (.vgetv ⟨false, true, false, true⟩ 5 10)),
    (.vx, [0xC019AAA0], .ins (.fadd ⟨true, true, false, false⟩ 19 10 21 none)),
    (.vx, [0x3019AAA1], .ins (.fsub ⟨false, false, true, true⟩ 19 10 21 none)),
    (.vx, [0xA019AAA2], .ins (.fmul ⟨true, false, true, false⟩ 19 10 21 none)),
    (.vx, [0x1019AAA3], .ins (.fmin ⟨false, false, false, true⟩ 19 10 21 none)),
    (.vx, [0x8019AAA4], .ins (.fmax ⟨true, false, false, false⟩ 19 10 21 none)),
    (.vx, [0x4029A800], .ins (.fabs ⟨false, true, false, false⟩ 19 10 none)),
    (.vx, [0xB029A801], .ins (.fneg ⟨true, false, true, true⟩ 19 10 none)),
    (.vx, [0x2029A802], .ins (.frcp ⟨false, false, true, false⟩ 19 10 none)),
    (.vx, [0x9029A803], .ins (.frsq ⟨true, false, false, true⟩ 19 10 none)),
    (.vx, [0x0029A804], .ins (.fsqrt ⟨false, false, false, false⟩ 19 10 none)),
    (.vx, [0x7029A805], .ins (.fexp2 ⟨false, true, true, true⟩ 19 10 none)),
    (.vx, [0xE029A806], .ins (.flog2 ⟨true, true, true, false⟩ 19 10 none)),
    (.vx, [0x5029A807], .ins (.fsin ⟨false, true, false, true⟩ 19 10 none)),
    (.vx, [0xC029A808], .ins (.fcos ⟨true, true, false, false⟩ 19 10 none)),
    (.vx, [0x3029A809], .ins (.frnd ⟨false, false, true, true⟩ 19 10 none)),
    (.vx, [0xA034AAA0], .ins (.feq ⟨true, false, true, false⟩ 9 10 21 none)),
    (.vx, [0x1034AAA1], .ins (.fne ⟨false, false, false, true⟩ 9 10 21 none))] = true := by decide +kernel

theorem test_decode_vector_2 : decodes [
    (.vx, [0x8034AAA2], .ins (.flt ⟨true, false, false, false⟩ 9 10 21 none)),
    (.vx, [0xF034AAA3], .ins (.fle ⟨true, true, true, true⟩ 9 10 21 none)),
    (.vx, [0x6034AAA4], .ins (.fun ⟨false, true, true, false⟩ 9 10 21 none)),
    (.vx, [0x84120445, 0x0286C000], .ins (.fma ⟨true, false, false, false⟩ 4 1 2 { pm := 2, pe := true, pz := false, vc := 3, rm := 3, nf := false, sat := false, bs := false, imm := 0 })),
    (.vx, [0x00018406], .ins (.vview ⟨false, false, false, false⟩ 3 1)),
    (.vx, [0x00000403], .ins (.vsetvl ⟨false, false, false, false⟩ 0 1)),
    (.vx, [0x00120440], .ins (.fadd ⟨false, false, false, false⟩ 4 1 2 none)),
    (.vx, [0x04308862, 0x04C00000], .ins (.flt ⟨false, false, false, false⟩ 1 2 3 (some { pm := 4, pe := true, pz := true, vc := 0, rm := 0, nf := false, sat := false, bs := false, imm := 0 }))),
    (.vx, [0x0419A8A6, 0x0FFD3800], .ins (.fms ⟨false, false, false, false⟩ 19 10 5 { pm := 15, pe := true, pz := true, vc := 30, rm := 4, nf := true, sat := true, bs := true, imm := 0 })),
    (.vx, [0x0419A8A7, 0x0FFD3800], .ins (.fnma ⟨false, false, false, false⟩ 19 10 5 { pm := 15, pe := true, pz := true, vc := 30, rm := 4, nf := true, sat := true, bs := true, imm := 0 }))] = true := by decide +kernel

theorem test_decode_vectorIntegers_1 : decodes [
    (.vx, [0xD049AAA0], .ins (.iadd ⟨true, true, false, true⟩ 19 10 21 none)),
    (.vx, [0x4049AAA1], .ins (.isub ⟨false, true, false, false⟩ 19 10 21 none)),
    (.vx, [0xB049AAA2], .ins (.imul ⟨true, false, true, true⟩ 19 10 21 none)),
    (.vx, [0x2049AAA3], .ins (.imulh ⟨false, false, true, false⟩ 19 10 21 none)),
    (.vx, [0x9049AAA4], .ins (.imulhu ⟨true, false, false, true⟩ 19 10 21 none)),
    (.vx, [0x0049AAA5], .ins (.imin ⟨false, false, false, false⟩ 19 10 21 none)),
    (.vx, [0x7049AAA6], .ins (.imax ⟨false, true, true, true⟩ 19 10 21 none)),
    (.vx, [0xE049AAA7], .ins (.iminu ⟨true, true, true, false⟩ 19 10 21 none)),
    (.vx, [0x5049AAA8], .ins (.imaxu ⟨false, true, false, true⟩ 19 10 21 none)),
    (.vx, [0xC049AAA9], .ins (.iand ⟨true, true, false, false⟩ 19 10 21 none)),
    (.vx, [0x3049AAAA], .ins (.ior ⟨false, false, true, true⟩ 19 10 21 none)),
    (.vx, [0xA049AAAB], .ins (.ixor ⟨true, false, true, false⟩ 19 10 21 none)),
    (.vx, [0x1049AAAC], .ins (.ishl ⟨false, false, false, true⟩ 19 10 21 none)),
    (.vx, [0x8049AAAD], .ins (.ishr ⟨true, false, false, false⟩ 19 10 21 none)),
    (.vx, [0xF049AAAE], .ins (.isra ⟨true, true, true, true⟩ 19 10 21 none)),
    (.vx, [0x6049AAAF], .ins (.iadds ⟨false, true, true, false⟩ 19 10 21 none)),
    (.vx, [0xD049AAB0], .ins (.isubs ⟨true, true, false, true⟩ 19 10 21 none)),
    (.vx, [0x4049A811], .ins (.iabs ⟨false, true, false, false⟩ 19 10 none)),
    (.vx, [0xB054AAA0], .ins (.ieq ⟨true, false, true, true⟩ 9 10 21 none)),
    (.vx, [0x2054AAA1], .ins (.ine ⟨false, false, true, false⟩ 9 10 21 none)),
    (.vx, [0x9054AAA2], .ins (.ilt ⟨true, false, false, true⟩ 9 10 21 none)),
    (.vx, [0x0054AAA3], .ins (.ige ⟨false, false, false, false⟩ 9 10 21 none)),
    (.vx, [0x7054AAA4], .ins (.iltu ⟨false, true, true, true⟩ 9 10 21 none)),
    (.vx, [0xE054AAA5], .ins (.igeu ⟨true, true, true, false⟩ 9 10 21 none))] = true := by decide +kernel

theorem test_decode_vectorIntegers_2 : decodes [
    (.vx, [0xA069AAA3], .ins (.fshl ⟨true, false, true, false⟩ 19 10 21 none)),
    (.vx, [0x1069AAA4], .ins (.fshr ⟨false, false, false, true⟩ 19 10 21 none)),
    (.vx, [0x04629801, 0x000000E9], .ins (.bfxu ⟨false, false, false, false⟩ 5 6 { pm := 0, pe := false, pz := false, vc := 0, rm := 0, nf := false, sat := false, bs := false, imm := 0xE9 })),
    (.vx, [0x04652002, 0x00000043], .ins (.bfi ⟨false, false, false, false⟩ 10 8 { pm := 0, pe := false, pz := false, vc := 0, rm := 0, nf := false, sat := false, bs := false, imm := 0x43 })),
    (.vx, [0x04629800, 0x000000A3], .ins (.bfx ⟨false, false, false, false⟩ 5 6 { pm := 0, pe := false, pz := false, vc := 0, rm := 0, nf := false, sat := false, bs := false, imm := 0xA3 })),
    (.vx, [0x1444A460, 0x00000800], .ins (.iadd ⟨false, false, false, true⟩ 9 9 3 (some { pm := 0, pe := false, pz := false, vc := 0, rm := 0, nf := false, sat := false, bs := true, imm := 0 })))] = true := by decide +kernel

theorem test_decode_vectorMoves_1 : decodes [
    (.vx, [0x8069A805], .ins (.popcv ⟨true, false, false, false⟩ 19 10 none)),
    (.vx, [0xF069A806], .ins (.clzv ⟨true, true, true, true⟩ 19 10 none)),
    (.vx, [0x6069A807], .ins (.brevv ⟨false, true, true, false⟩ 19 10 none)),
    (.vx, [0xD079A800], .ins (.cvt ⟨true, true, false, true⟩ 19 10 none)),
    (.vx, [0x4079AAA1], .ins (.qnt ⟨false, true, false, false⟩ 19 10 21 none)),
    (.vx, [0xB079A802], .ins (.dqnt ⟨true, false, true, true⟩ 19 10 none)),
    (.vx, [0x2079A803], .ins (.qscale ⟨false, false, true, false⟩ 19 10 none)),
    (.vx, [0x9089A800], .ins (.vmov ⟨true, false, false, true⟩ 19 10 none)),
    (.vx, [0x0089AAA1], .ins (.vsel ⟨false, false, false, false⟩ 19 10 21 none)),
    (.vx, [0x7089A802], .ins (.vbcst ⟨false, true, true, true⟩ 19 10 0 none)),
    (.vx, [0xE0898003], .ins (.vidx ⟨true, true, true, false⟩ 19 none)),
    (.vx, [0x5089AAA4], .ins (.vperm ⟨false, true, false, true⟩ 19 10 21 none)),
    (.vx, [0xC089A805], .ins (.vcmprs ⟨true, true, false, false⟩ 19 10 none)),
    (.vx, [0x3089A806], .ins (.vexpnd ⟨false, false, true, true⟩ 19 10 none)),
    (.vx, [0xA089A807], .ins (.vsldn ⟨true, false, true, false⟩ 19 10 0 none)),
    (.vx, [0x1089A808], .ins (.vslup ⟨false, false, false, true⟩ 19 10 0 none)),
    (.vx, [0x8099A800], .ins (.vradd ⟨true, false, false, false⟩ 19 10 none)),
    (.vx, [0xF099A801], .ins (.vrfadd ⟨true, true, true, true⟩ 19 10 none)),
    (.vx, [0x6099A802], .ins (.vrmin ⟨false, true, true, false⟩ 19 10 none)),
    (.vx, [0xD099A803], .ins (.vrmax ⟨true, true, false, true⟩ 19 10 none)),
    (.vx, [0x4099A804], .ins (.vrfmin ⟨false, true, false, false⟩ 19 10 none)),
    (.vx, [0xB099A805], .ins (.vrfmax ⟨true, false, true, true⟩ 19 10 none)),
    (.vx, [0x2099A806], .ins (.vscan ⟨false, false, true, false⟩ 19 10 none)),
    (.vx, [0x9099A807], .ins (.vfscan ⟨true, false, false, true⟩ 19 10 none))] = true := by decide +kernel

theorem test_decode_vectorMoves_2 : decodes [
    (.vx, [0x00A99800], .ins (.vld ⟨false, false, false, false⟩ 19 6 none)),
    (.vx, [0x70A99801], .ins (.vst ⟨false, true, true, true⟩ 19 6 none)),
    (.vx, [0xE0A99AA2], .ins (.vgth ⟨true, true, true, false⟩ 19 6 21 none)),
    (.vx, [0x50A99AA3], .ins (.vsct ⟨false, true, false, true⟩ 19 6 21 none)),
    (.vx, [0xC0A982A4], .ins (.vldl ⟨true, true, false, false⟩ 19 21 none)),
    (.vx, [0x30A982A5], .ins (.vstl ⟨false, false, true, true⟩ 19 21 none)),
    (.vx, [0xF0000000], .vnop ⟨true, true, true, true⟩),
    (.vx, [0x04A38902, 0x00000040], .ins (.vgth ⟨false, false, false, false⟩ 7 2 8 (some { pm := 0, pe := false, pz := false, vc := 0, rm := 0, nf := false, sat := false, bs := false, imm := 0x40 }))),
    (.vx, [0x04A48143, 0x01800000], .ins (.vsct ⟨false, false, false, false⟩ 9 0 10 (some { pm := 1, pe := true, pz := false, vc := 0, rm := 0, nf := false, sat := false, bs := false, imm := 0 })))] = true := by decide +kernel

theorem test_decode_matrix : decodes [
    (.mx, [0xA01ABBC0], .ins (.mchb ⟨true, false, true, false⟩ 21 3 47)),
    (.mx, [0x10255580], .ins (.mma ⟨false, false, false, true⟩ 10 21 false true true)),
    (.mx, [0xF0450000], .ins (.mtrn ⟨true, true, true, true⟩ 10)),
    (.mx, [0x60455480], .ins (.mperm ⟨false, true, true, false⟩ 10 21)),
    (.mx, [0xD0450100], .ins (.mrsum ⟨true, true, false, true⟩ 10)),
    (.mx, [0x40450180], .ins (.mcsum ⟨false, true, false, false⟩ 10)),
    (.mx, [0xB069D5C0], .ins (.mdrn ⟨true, false, true, true⟩ 19 21 3 true)),
    (.mx, [0x207AB000], .ins (.mzro ⟨false, false, true, false⟩ 21 3)),
    (.mx, [0x90855580], .ins (.mlda ⟨true, false, false, true⟩ 10 21 3)),
    (.mx, [0x60000000], .mnop ⟨false, true, true, false⟩),
    (.mx, [0x40000001], .mend ⟨false, true, false, false⟩),
    (.mx, [0x20500000], .mche ⟨false, false, true, false⟩),
    (.mx, [0x00208900], .ins (.mma ⟨false, false, false, false⟩ 1 2 false true false)),
    (.mx, [0x00122BC0], .ins (.mchb ⟨false, false, false, false⟩ 4 2 47)),
    (.mx, [0x00630240], .ins (.mdrn ⟨false, false, false, false⟩ 6 0 4 true)),
    (.mx, [0x00704000], .ins (.mzro ⟨false, false, false, false⟩ 0 4)),
    (.mx, [0x04348800, 0x00800000], .ins (.mmag ⟨false, false, false, false⟩ 9 2 1))] = true := by decide +kernel

theorem test_decode_copy : decodes [
    (.ld, [0x000D0003], .ins (.xpq ⟨false, false, false, false⟩ 13)),
    (.ld, [0x701A0000], .ins (.xshp ⟨false, true, true, true⟩ 5)),
    (.ld, [0x106DA55A], .ins (.xado ⟨false, false, false, true⟩ 13 0xA55A)),
    (.ld, [0xD0000000], .xnop ⟨true, true, false, true⟩),
    (.ld, [0xB0000001], .xend ⟨true, false, true, true⟩),
    (.ld, [0x90000002], .xwait ⟨true, false, false, true⟩),
    (.ld, [0x1421FD23, 0x01481000], .ins (.xcpy ⟨false, false, false, true⟩ 7 2 61 3 5 1 .none 2 .default false false)),
    (.ld, [0x043F4834, 0x01892000], .ins (.xgth ⟨false, false, false, false⟩ 61 3 8 4 6 9 1 0 .default)),
    (.ld, [0x045FC050, 0x01D55800], .ins (.xfil ⟨false, false, false, false⟩ 63 5 7 2 0xAB 0 .default)),
    (.ld, [0x04400702, 0x02100000], .ins (.xsltIn ⟨false, false, false, false⟩ 7 2 1 4 0 .default)),
    (.ld, [0x04424030, 0x03100000], .ins (.xsltOut ⟨false, false, false, false⟩ 9 3 1 4 0 .default)),
    (.ld, [0x00160000], .ins (.xshp ⟨false, false, false, false⟩ 3)),
    (.ld, [0x00020003], .ins (.xpq ⟨false, false, false, false⟩ 2)),
    (.ld, [0x00640100], .ins (.xado ⟨false, false, false, false⟩ 4 256)),
    (.st, [0x0420C219, 0x0FB2D780], .ins (.xcpy ⟨false, false, false, false⟩ 3 1 2 9 62 6 .max 10 .bypass true true)),
    (.st, [0x0464A55A, 0x0FEDCBA9], .ins (.xadoLen1 ⟨false, false, false, false⟩ 4 0xFEDCBA9A55A))] = true := by decide +kernel

/-! ## Witnesses: the control stream -/

theorem witness_RegisterArithmetic : base.ready .c .none = true ∧ (63 : XReg) ≠ 0 := by decide +kernel

theorem witness_ImmediateForms : base.ready .c .none = true ∧ (63 : Nat) < 64 ∧ (63#8).toNat < 64 ∧ ¬ (64#8).toNat < 64 ∧
    (1 : XReg) ≠ 0 := by decide +kernel

theorem witness_ComparesAndPredicates : base.ready .c .none = true := by decide +kernel

theorem witness_PredicateCount : base.ready .c .none = true ∧ base.vl = 0 ∧ (2 ^ 10 - 1 : Nat) < 2 ^ 10 := by decide +kernel

theorem witness_ScalarRegisters : (63 : XReg) ≠ 0 ∧ (62 : XReg) ≠ 63 := by decide

theorem witness_Branches : (regs [(1, 0x2000)]).ready .c .none = true ∧ ((regs [(1, 0x2000)]).x 1).extractLsb' 0 2 = 0 := by
  decide +kernel

/-- A return stack with `k` entries at aligned addresses, and a spill area at `at'` whose DEPTH is `d`. -/
def stackedAt (k d at' : Nat) : State :=
  base.mapC fun c => { c with stack := List.replicate k 0x2000, stackbase := BitVec.ofNat 64 (d * 2 ^ 56 + at') }
def stacked (k d : Nat) : State := stackedAt k d 0x10000

/-- Group `k` of the spill area, and what the store of a spill and the load of a fill do there. -/
def group (s : State) (k : Nat) : Word := BitVec.ofNat 64 (s.ctx.c.stackbase.toNat % 2 ^ 56 / 64 * 64 + 64 * k)
def spilling (s : State) (k : Nat) : Acc Unit :=
  (s.begun .c .none).store .c (group s k) ((s.ctx.c.stack.take 8).flatMap fun e => leBytes 8 e.toNat) 0 .default
def filling (s : State) (k : Nat) : Acc Nat := (s.begun .c .none).load (group s k) 64 0 .default false
/-- The newest entry of a filled group. -/
def newest (s : State) (k : Nat) : Option Word :=
  match filling s k with
  | .done v _ => some (BitVec.ofNat 64 (v / 2 ^ (64 * 7)))
  | _ => none

theorem witness_CallsAndReturns :
    (stacked 15 0).ready .c .none = true ∧ (stacked 15 0).ctx.c.stack.length = 15 ∧
    ((stacked 15 0).x 1).extractLsb' 0 2 = 0 ∧ (stacked 1 0).ctx.c.stack = [] ++ [0x2000] ∧ (0x2000 : Word).extractLsb' 0 2 = 0 ∧
    (stacked 16 255).ready .c .none = true ∧ (stacked 16 255).ctx.c.stackbase.toNat / 2 ^ 56 = 255 ∧
    (let s := stacked 16 254
     s.ready .c .none = true ∧ s.ctx.c.stack.length = 16 ∧ s.ctx.c.stackbase.toNat / 2 ^ 56 = 254 ∧ (s.x 1).extractLsb' 0 2 = 0 ∧
     isDone (spilling s 254) = true) ∧
    (let s := stackedAt 16 0 (spAt 983040)
     s.ready .c .none = true ∧ s.ctx.c.stackbase.toNat / 2 ^ 56 = 0 ∧ isFault (spilling s 0) = true) ∧
    (let s := stacked 0 1
     s.ready .c .none = true ∧ s.ctx.c.stack = [] ∧ 0 < s.ctx.c.stackbase.toNat / 2 ^ 56 ∧ newest s 0 = some 0) ∧
    (let s : State := { stackedAt 0 255 (0x10000 - 64 * 254) with mem := base.mem.setLe (0x10000 + 56) 8 0x2002 }
     s.ready .c .none = true ∧ s.ctx.c.stackbase.toNat / 2 ^ 56 = 255 ∧ newest s 254 = some 0x2002) ∧
    (let s := stackedAt 0 1 (spAt 983040)
     s.ready .c .none = true ∧ 0 < s.ctx.c.stackbase.toNat / 2 ^ 56 ∧ isFault (filling s 0) = true) := by
  decide +kernel

theorem witness_MisalignedTargetsTrap :
    (regs [(1, 0x2001)]).ready .c .none = true ∧ ((regs [(1, 0x2001)]).x 1).extractLsb' 0 2 ≠ 0 ∧
    (let s := base.mapC fun c => { c with stack := [0x2002] }
     s.ready .c .none = true ∧ s.ctx.c.stack = [] ++ [0x2002] ∧ (0x2002 : Word).extractLsb' 0 2 ≠ 0) ∧
    base.ready .c .none = true ∧ base.ctx.c.stack = [] ∧ base.ctx.c.stackbase.toNat < 2 ^ 56 ∧
    (let s := base.mapC fun c => { c with trappc := 3 }
     s.ready .c .none = true ∧ s.ctx.c.trappc.extractLsb' 0 2 ≠ 0) ∧
    (let s := base.mapC fun c => { c with trappc := 2 ^ 56 + 4 }
     s.ready .c .none = true ∧ s.ctx.c.trappc.extractLsb' 0 2 = 0 ∧ s.ctx.c.trappc.extractLsb' 56 8 ≠ 0) := by decide +kernel

theorem witness_HintsAndEvents :
    (let s := base.mapSys fun r => { r with evt := 0x20 }
     s.ready .c .none = true ∧ s.ctx.sys.evt &&& 0x20 ≠ 0) ∧ base.ready .c .none = true ∧ base.ctx.sys.evt &&& 0x3F = 0 ∧
    base.ms.red = [] ∧ base.ms.sealed = [] := by
  decide +kernel

theorem witness_DoneEndsTheTask :
    base.ready .c .none = true ∧ base.ctx.enginesIdle = true ∧ base.ctx.mx.drain = none ∧ base.ctx.coll.exchanges = [] ∧
    base.ctx.pend = [] ∧ base.ctx.order.dropped = [] ∧ base.allPerformed = true ∧ base.tablesOk = true := by decide +kernel

theorem witness_TrapEntrySavesTheContext :
    let s := base.mapC fun c => { c with trapvec := 0x00FFFFFFFFFFFFFC }
    s.ready .c .none = true ∧ s.ctx.c.trapcause.getLsbD 15 = false ∧ s.ctx.c.trapvec &&& 0x00FFFFFFFFFFFFFC ≠ 0 := by decide +kernel

theorem witness_ReturnFromTrap :
    let s := (base.mapC fun c => { c with trappc := 0x00FFFFFFFFFFFFFC, trapcause := 0x8010, trapstream := 10 }).mapStr .mx
      fun x => { x with fault := some (4, 0, 0x2000) }
    s.ready .c .none = true ∧ s.ctx.c.trappc.extractLsb' 0 2 = 0 ∧ s.ctx.c.trappc.toNat < 2 ^ 56 ∧
    s.ctx.c.trapstream.getLsbD 3 = true ∧ (s.ctx.c.trapstream &&& 7).toNat = Stream.mx.ix.val ∧ (s.str .mx).fault.isSome = true := by
  decide +kernel

theorem witness_SpecialRegisters :
    base.ready .c .none = true ∧ base.ctx.spInFlight = false ∧ (0x011 : BitVec 12) ≠ 0x070 ∧ 0x000 ∈ srNumbers ∧ 0x011 ∈ srNumbers ∧ 0x040 ∈ srNumbers ∧
    0x047 ∈ srNumbers ∧ 0x070 ∈ srNumbers ∧ (0x000 : Nat) ≠ 0x070 := by decide +kernel

/-! ## Witnesses: loads, stores, fences, atomics -/

/-- `s` with the sector of HBM address 0x10000 poisoned, and with a write to it pending or not. -/
def poisoned (pending : Bool) (s : State) : State :=
  s.mapMs fun m => { m with poisoned := [512], pending := if pending then [512] else [] }

/-- What a lookup of `n` bytes at the address in x1 finds. -/
def finds (s : State) (r : Bool) (f : Place → State → Bool) : Bool := okAnd ((s.begun .c .none).locate (s.x 1) 8 r (!r)) f

/-- What a load of `n` bytes at the address in x1 finds, and whether the core's L1 data cache serves it. -/
def reads (s : State) (n : Nat) (ro served : Bool) (f : Place → State → Bool) : Bool :=
  okAnd ((s.begun .c .none).locate (s.x 1) n true false) fun p w =>
    let q := w.servedByL1 p n ro
    q.1 == served && f p q.2

/-- `s` with the sector of HBM address 0x10000 in the core's L1 data cache. -/
def cachedL1 (s : State) : State := s.mapCore 0 fun c => { c with l1s := [512] }

/-- A load is next, and nothing of it has been sent or answered. -/
def fresh (s : State) : Bool := s.ready .c .none && decide (s.ctx.order.answer = none) && decide (s.ctx.order.result = none)

theorem witness_Loads :
    (let s := regs [(1, lastD), (2, spAt 983040)]
     s.ready .c .none = true ∧ s.plain = true ∧ s.inOwnWindow (s.x 1) 8 = true ∧
     s.inOwnWindow (s.x 2 + (0xFFFFFF8 : BitVec 28).signExtend 64) 8 = true) ∧
    (let s := regs [(1, 0x10000)]
     fresh s = true ∧ reads s 8 false false (fun p y => y.open p 8) = true ∧ reads s 8 true false (fun p y => y.open p 8) = true ∧
     okAnd ((s.begun .c .none).locate (s.x 1 + (8 : BitVec 28).signExtend 64) 8 true false)
       (fun p w => !(w.servedByL1 p 8 false).1 && w.open p 8) = true) ∧
    (let s := cachedL1 (regs [(1, 0x10000)])
     fresh s = true ∧ reads s 8 false true (fun p y => !y.badAt p.pa 8) = true) ∧
    (let s := poisoned false (cachedL1 (regs [(1, 0x10000)]))
     fresh s = true ∧ reads s 8 false true (fun p y => y.badAt p.pa 8) = true) ∧
    (let s := poisoned false (regs [(1, 0x10000)])
     fresh s = true ∧ reads s 8 false false (fun p y => y.passes p 8 && y.badAt p.pa 8) = true) ∧
    (let s := poisoned true (regs [(1, 0x10000)])
     fresh s = true ∧ reads s 8 false false (fun p y => !y.passes p 8) = true) ∧
    (let s := (regs [(1, 0x10000)]).mapOrder fun o => { o with result := some 7 }
     s.ready .c .none = true ∧ s.ctx.order.answer = none ∧ s.ctx.order.result = some 7 ∧ finds s true (fun _ _ => true) = true) := by
  decide +kernel

theorem witness_Stores :
    (let s := regs [(1, lastD), (2, spAt 983040)]
     s.ready .c .none = true ∧ s.plain = true ∧ s.tablesOk = true ∧ s.inOwnWindow (s.x 1) 8 = true ∧
     s.inOwnWindow (s.x 2 + (0xFFFFFF8 : BitVec 28).signExtend 64) 8 = true) ∧
    (let s := regs [(1, 0x10000)]
     s.ready .c .none = true ∧ s.tablesOk = true ∧ s.ms.red = [] ∧ finds s false (fun p w => w.passes p 8) = true) ∧
    (let s := poisoned true (regs [(1, 0x10000)])
     s.ready .c .none = true ∧ s.tablesOk = true ∧ s.ms.red = [] ∧ s.ms.sealed = [] ∧
     finds s false (fun p w => !w.passes p 8 && decide (p.pa % 8 = 0)) = true) := by
  decide +kernel

/-- `base` whose second GiB is mapped to host memory. -/
def hostPage : State :=
  let s := regs [(1, 2 ^ 30), (2, 1)]
  { s with mem := s.mem.setLe 0x3008 8 (2 ^ 51 + 0xF) }

theorem witness_BadAddressesTrap :
    (let s := regs [(1, 2 ^ 56), (2, 2 ^ 56 - 1), (3, spAt 983040)]
     s.ready .c .none = true ∧ s.ctx.order.answer = none ∧ 2 ^ 56 ≤ (s.x 1).toNat ∧ (s.x 2).toNat < 2 ^ 56 ∧
     (s.x 2).toNat % 2 ≠ 0 ∧ (s.x 3).toNat / 2 ^ 48 = 0xFF ∧ (s.x 3).toNat % 8 = 0 ∧ s.ctx.win.spSize < (s.x 3).toNat % 2 ^ 48 + 1) ∧
    hostPage.ready .c .none = true ∧ hostPage.ctx.order.answer = none ∧
    ((hostPage.x 2).toNat < 2 ^ 56 ∧ (hostPage.x 2).toNat % 4 ≠ 0) ∧
    okAnd ((hostPage.begun .c .none).locate (hostPage.x 1) 8 true true) (fun p _ => decide (regionOf p.pa = .host)) = true ∧
    okAnd ((hostPage.begun .c .none).locate (hostPage.x 1) 8 false true) (fun p _ => decide (regionOf p.pa = .host)) = true := by
  decide +kernel

/-- A store of class 3 that waits in the commit buffer. -/
def heldStore : CbEntry :=
  { block := 512, cells := [(0x10000, 1, 3)], dep := .clean, classes := [(3, .device)], bad := false, pageKey := 0, device := false
    va := 0x10000, hint := .default }

/-- A posted access of class 3 that a home of die 5 has dropped. -/
def lostStore : Dropped := { cause := 0x17, va := 0x10000, cls := 3, die := 5 }

theorem witness_FenceCompletes :
    base.ready .c .none = true ∧ base.fencedOff .fence 0xFFFF .device = true ∧
    (let s := base.mapOrder fun o => { o with dropped := [lostStore] }
     s.ready .c .none = true ∧ s.reportOf .fence 8 .device = some lostStore) ∧
    (let s := base.mapCtx fun c => { c with cb := [heldStore] }
     s.ready .c .none = true ∧ s.reportOf .fence 8 .core = none ∧
     (s.ctx.cb.any fun e => e.classes.any fun k => (8 : BitVec 16).getLsbD k.1.val) = true) := by decide +kernel

/-- The range form of 64 bytes at 0x10000 translates, and its pieces meet a condition. -/
def ranges (s : State) (f : List PartPiece → State → Bool) : Bool :=
  s.ready .c .none && decide (s.x 2 ≠ 0) && okAnd (State.rangePieces 4 (s.begun .c .none) 0x10000 (0x10000 + 64) []) f

/-- A reduction outstanding in the sector of HBM address 0x10000. -/
def reducing (s : State) : State := s.mapMs fun m => { m with red := [{ sector := 512, op := .add, dbl := false, terms := [], below := [] }] }

theorem witness_CacheMaintenanceCompletes :
    base.ready .c .none = true ∧ base.x 2 = 0 ∧ base.drained (BitVec.allOnes 16) .device = true ∧
    (let s := regs [(1, 0x10000), (2, 64)]
     s.drained (BitVec.allOnes 16) .device = true ∧ s.ctx.order.answer = none ∧
     ranges s (fun l w => decide (w.ctx.order.result = none) && (w.stuckMerge l).isNone) = true ∧
     ranges (reducing s) (fun l w => decide (w.ctx.order.result = none) && (w.stuckMerge l).isNone) = true ∧
     ranges (poisoned true (reducing s)) (fun l w => decide (w.ctx.order.result = none) && (w.stuckMerge l).isSome) = true ∧
     ranges (s.mapOrder fun o => { o with answer := some (0x0C, 0x10000) }) (fun _ w => decide (w.ctx.order.answer = some (0x0C, 0x10000))) = true) ∧
    (let s := regs [(1, 2 ^ 40), (2, 64)]
     s.ready .c .none = true ∧ s.x 2 ≠ 0 ∧
     (State.rangePieces 4 (s.begun .c .none) (2 ^ 40) (2 ^ 40 + 64) []).1.isOk = false) := by decide +kernel

theorem witness_AtomicsInTheOwnWindow :
    let s := regs [(1, lastD)]
    s.ready .c .none = true ∧ s.plain = true ∧ s.fencedOff .release (BitVec.allOnes 16) .system = true ∧
    s.inOwnWindow (s.x 1) (atomBytes true) = true := by decide +kernel

/-! ## Witnesses: engines, queues, handles, barriers, slots -/

theorem witness_EngineStartsAndWaits :
    base.ready .c .none = true ∧ (base.x 1).extractLsb' 0 2 = 0 ∧ (base.str Engine.vx.stream).busy = false ∧
    (base.str Engine.vx.stream).paused = false ∧
    (∀ k ∈ [Stream.ld, .mx, .vx, .st], (base.str k).busy = false ∧ (base.str k).paused = false) ∧
    (on .vx).ready .c .none = true ∧ ((on .vx).x 1).extractLsb' 0 2 = 0 ∧ ((on .vx).str Engine.vx.stream).busy = true ∧
    (let s := base.mapStr .vx fun x => { x with paused := true }
     s.ready .c .none = true ∧ (s.str Engine.vx.stream).busy = false ∧ (s.str Engine.vx.stream).paused = true) := by decide +kernel

/-- `base` with handle 59 mapped. -/
def mapped : State := base.mapCtx fun c => { c with handles := c.handles.set 59 (some
  { base := 0, extent := 65536, rights := .rw, zero := false, runs := [⟨0, 65536, 0, 0, false⟩], pins := [], serial := 1 }) }

/-- `base` with a release of an earlier mapping of handle 59 pending. -/
def releasing : State := base.mapCtx fun c => { c with releases := (mapped.ctx.handles[59]).toList.map fun m => { h := 59, m := m } }

/-- `base` with the format queue and the VX queue full. -/
def full : State := base.mapCtx fun c =>
  { c with queues := #v[{ Queue.empty 32 with count := 32 }, Queue.empty 16, { Queue.empty 16 with count := 16 }, Queue.empty 16] }

theorem witness_StatusAndQueues :
    base.ready .c .none = true ∧ 60 ≤ (60 : HReg).val ∧ base.ctx.handles[59] = none ∧
    (base.ctx.releases.any fun r => decide (r.h = 59)) = false ∧ mapped.ready .c .none = true ∧ (mapped.ctx.handles[59]).isSome = true ∧
    (mapped.ctx.releases.any fun r => decide (r.h = 59)) = false ∧
    (releasing.ready .c .none = true ∧ releasing.ctx.handles[59] = none ∧ (releasing.ctx.releases.any fun r => decide (r.h = 59)) = true) ∧
    base.ctx.roomQ 0 = true ∧ base.ctx.roomQ (pqIndex .vx) = true ∧ full.ready .c .none = true ∧ full.ctx.roomQ 0 = false ∧
    full.ctx.roomQ (pqIndex .vx) = false := by decide +kernel

/-- What the walk of `TMAP` for the range in x1 and x2 answers. -/
def mapsTo (s : State) (rights : Rights) : MapWalk :=
  let xa := (s.x 1).toNat
  let ext := (s.x 2).toNat % 2 ^ 41
  State.mapPages s.ctx.ident.part xa (xa + ext) rights (ext / 2 ^ 16 + 2) (s.begun .c .none) xa [] []
def runsOf (r : MapWalk) : Option Nat :=
  match r with
  | .ok runs _ _ => some runs.length
  | _ => none

/-- The extent in x2 at the address in x1 is legal, handle 59 is unmapped, and `TMAP` is next. -/
def mapsHere (s : State) : Bool :=
  let ext := (s.x 2).toNat % 2 ^ 41
  s.ready .c .none && decide (s.ctx.handles[59] = none) && decide (0 < ext) && decide (ext ≤ 2 ^ 40) &&
  decide ((s.x 2).toNat % 2 ^ 63 / 2 ^ 41 = 0) && decide ((s.x 1).toNat + ext ≤ 2 ^ 56)

theorem witness_MappingHandles :
    (let s := regs [(1, 0x10000), (2, 65536)]
     mapsHere s = true ∧ (runsOf (mapsTo s .rw)).any (fun n => decide (n ≤ 256)) = true) ∧
    mapped.ready .c .none = true ∧ (mapped.ctx.handles[59]).isSome = true ∧ mapped.ctx.releases.length < 64 ∧
    base.ready .c .none = true ∧ base.ctx.handles[59] = none ∧ (base.x 2).toNat % 2 ^ 41 = 0 ∧ 60 ≤ (63 : HReg).val := by decide +kernel

/-- Translated by `XLATE`, by rights and beyond the first page. -/
theorem witness_MappingHandles_faults :
    (let s (a n : Nat) := regs [(1, a), (2, n)]
     ((s 0 0).x 2).toNat % 2 ^ 41 = 0 ∧ 2 ^ 40 < ((s 0 (2 ^ 40 + 1)).x 2).toNat % 2 ^ 41 ∧ ((s 0 (2 ^ 62 + 1)).x 2).toNat % 2 ^ 63 / 2 ^ 41 ≠ 0 ∧
     2 ^ 56 < ((s (2 ^ 56 - 1) 2).x 1).toNat + ((s (2 ^ 56 - 1) 2).x 2).toNat % 2 ^ 41 ∧
     (mapsHere (s (spAt 0) 64) = true ∧ 0xFD ≤ ((s (spAt 0) 64).x 1).toNat / 2 ^ 48) ∧
     (mapsHere (s (2 ^ 40) 64) = true ∧ (((s (2 ^ 40) 64).begun .c .none).walk 0 (2 ^ 40)).1.isOk = false)) ∧
    (let s : State := { regs [(1, 2 ^ 30), (2, 64)] with mem := base.mem.setLe 0x3008 8 (2 ^ 51 + 0x7) }
     mapsHere s = true ∧ (match ((s.begun .c .none).walk 0 (2 ^ 30)).1 with | .ok (f, _) => !f.w | _ => false) = true) ∧
    (let s := regs [(1, 0x10000), (2, 2 ^ 40)]
     mapsHere s = true ∧ (match mapsTo s .rw with | .fault _ _ => true | _ => false) = true) := by decide +kernel

/-- `base` whose barrier 0 holds these counts and flags. -/
def barred (e a f : Nat) : State :=
  { base with mem := base.mem.setBarrier (spPa 0 0) { expected := e, arrived := a, zeroed := 0, flags := f, flips := 0 } }

/-- A parked request of `primedKey` at an address of page 0x10000. -/
def asks (kind : ReqKind) : Parked := { (base.request ⟨0x10000, false, 0, false⟩ 0x10000 3 kind) with serial := 9 }

/-- `base` with a request of the core held at its port, and with its descriptors in the cluster window. -/
def barredFar : State :=
  (base.mapSys fun r => { r with barbase := BitVec.ofNat 64 (0xFE * 2 ^ 48) }).mapMs fun m => { m with held := [asks (.store [(0x10000, 7)])] }

/-- The place of descriptor 0 in the window. -/
def barPa (s : State) : Option Nat := s.descPlace (s.ctx.sys.barbase + BitVec.ofNat 64 (32 * 0)) 32

/-- An arrival of five overfills it. -/
def overfills (s : State) (pa : Nat) : Bool :=
  s.ready .c .none && decide (barPa s = some pa) && s.fencedOff .nobody (BitVec.allOnes 16) (s.barScope 0) &&
  ((s.mem.barrier pa).arrive 5).2

theorem witness_BarrierInstructions :
    base.ready .c .none = true ∧ barPa base = some (spPa 0 0) ∧ base.fencedOff .nobody (BitVec.allOnes 16) (base.barScope 0) = true ∧
    ((base.mem.barrier (spPa 0 0)).expect 1).isSome = true ∧ ((base.mem.barrier (spPa 0 0)).arrive 0).2 = false ∧
    (base.mem.getLe (spPa 0 0 + 20) 4).testBit 0 = false ∧
    (barred 0 2 0).ready .c .none = true ∧ (((barred 0 2 0).mem.barrier (spPa 0 0)).expect 1).isNone = true ∧
    (overfills (barred 1 1 2) (spPa 0 0) = true ∧ ((barred 1 1 2).windowOwner (spPa 0 0)).isSome = true) ∧
    (let s := (barred 1 1 2).mapCtx fun c => { c with live := false }
     overfills s (spPa 0 0) = true ∧ (s.windowOwner (spPa 0 0)).isNone = true) ∧
    (barredFar.ready .c .none = true ∧ barPa barredFar = some (spPa 0 0) ∧ barredFar.barScope 0 = .cluster ∧
     barredFar.ctx.order.dropped = [] ∧ barredFar.portHolds (BitVec.allOnes 16) = true) ∧
    (let s := base.mapSys fun r => { r with barbase := 0 }
     s.ready .c .none = true ∧ barPa s = none) := by decide +kernel

theorem witness_BarrierFlips :
    (let d : Barrier := { expected := 2 ^ 63 - 1, arrived := 1, zeroed := 0, flags := 2, flips := 2 ^ 32 - 1 }
     d.expected < 2 ^ 63 ∧ d.flags < 8 ∧ d.overfill = false ∧ d.posted = true ∧ d.arrived + (2 ^ 63 - 2) = d.expected) ∧
    (let d : Barrier := { expected := 1, arrived := 1, zeroed := 0, flags := 3, flips := 0 }
     d.flags < 8 ∧ d.overfill = false ∧ d.posted = true ∧ d.expected < d.arrived + 1) ∧
    (let d : Barrier := { expected := 0, arrived := 0, zeroed := 0, flags := 0, flips := 0 }
     d.posted = false ∧ d.arrived < d.expected + 1 ∧ d.arrived = d.expected + 0) ∧
    (let d : Barrier := { expected := 0, arrived := 2, zeroed := 0, flags := 1, flips := 0 }
     d.overfill = false ∧ d.expected + 1 < d.arrived) := by decide

/-- The place of slot ring 0. -/
def ring0 : Nat := spPa 0 0x800

/-- `base` whose slot ring 0 has two slots of 128 bytes at the start of the window, and these four counts. -/
def ringed (res post acq rel : Nat) : State :=
  let m := base.mem.setLe ring0 8 (spAt 0)
  let m := (m.setLe (ring0 + 8) 1 7).setLe (ring0 + 9) 1 1
  let m := ((m.setLe (ring0 + 0x10) 4 res).setLe (ring0 + 0x14) 4 post).setLe (ring0 + 0x18) 4 acq
  { base with mem := m.setLe (ring0 + 0x1C) 4 rel }

/-- The ring of a state. -/
def theRing (s : State) : SlotRing := s.mem.slotRing ring0

/-- The instructions reach the ring, which keeps its limits and is bound to no doorbell. -/
def ringReady (s : State) : Bool :=
  s.ready .c .none && decide (s.descPlace (s.ctx.sys.slbase + BitVec.ofNat 64 (64 * 0)) 64 = some ring0) &&
  s.ringOk (theRing s) && !s.boundBell ring0

/-- A copy command of slot 0 of the ring: a kind, and whether its slot is still to be reserved. -/
def slotCopy (kind : CopyKind) (owes : Bool) : CopyCmd :=
  { base.blankCmd .ld .none kind .rs .rs 0 0 (0, 0) 0 .default 0 with seq := 1, ringAddr := ring0, owes := owes }

/-- A state with copy commands of the LD stream in flight. -/
def flying (l : List CopyCmd) (s : State) : State := s.mapCp .ld fun c => { c with issued := BitVec.ofNat 32 l.length, flight := l }

theorem witness_SlotInstructions :
    (ringReady (ringed 1 0 0 0) = true ∧ (theRing (ringed 1 0 0 0)).free ≠ 0 ∧ (ringed 1 0 0 0).slotOwed ring0 = false ∧
     (ringed 1 0 0 0).slotHeld ring0 0 true = false ∧ (theRing (ringed 1 0 0 0)).res ≠ (theRing (ringed 1 0 0 0)).post ∧
     (theRing (ringed 1 0 0 0)).filled = 0) ∧
    (ringReady (ringed 2 2 1 0) = true ∧ (theRing (ringed 2 2 1 0)).free = 0 ∧ (theRing (ringed 2 2 1 0)).filled ≠ 0 ∧
     (theRing (ringed 2 2 1 0)).acq ≠ (theRing (ringed 2 2 1 0)).rel ∧ (ringed 2 2 1 0).slotHeld ring0 0 false = false) ∧
    (ringReady (ringed 0 0 0 0) = true ∧ (theRing (ringed 0 0 0 0)).res = (theRing (ringed 0 0 0 0)).post ∧
     (theRing (ringed 0 0 0 0)).acq = (theRing (ringed 0 0 0 0)).rel ∧
     (match (ringed 0 0 0 0).bindBell ring0 (theRing (ringed 0 0 0 0)) with | .ok _ => true | _ => false) = true) ∧
    (let s := flying [slotCopy .slotIn true] (ringed 1 0 0 0)
     ringReady s = true ∧ s.slotOwed ring0 = true ∧ s.slotHeld ring0 0 true = true) ∧
    (let s := flying [slotCopy .slotOut false] (ringed 2 2 1 0)
     ringReady s = true ∧ s.slotHeld ring0 0 false = true) ∧
    (base.ready .c .none = true ∧ base.descPlace (base.ctx.sys.slbase + BitVec.ofNat 64 (64 * 0)) 64 = some ring0 ∧
     base.ringOk (theRing base) = false) ∧
    (let s := (ringed 1 0 0 0).mapMs fun m => { m with doorbells := [(0, 5, ring0, primedKey)] }
     s.ready .c .none = true ∧ s.ringOk (theRing s) = true ∧ s.boundBell ring0 = true) ∧
    (let s : State := { ringed 1 0 0 0 with mem := (ringed 1 0 0 0).mem.setLe (ring0 + 10) 2 0x8005 }
     let t := s.mapMs fun m => { m with doorbells := [(0, 5, 0, primedKey)] }
     t.ready .c .none = true ∧ t.ringOk (theRing t) = true ∧
     (match t.bindBell ring0 (theRing t) with | .error k => decide (k = 4) | _ => false) = true) ∧
    (let s := base.mapSys fun r => { r with slbase := 0 }
     s.ready .c .none = true ∧ s.descPlace (s.ctx.sys.slbase + BitVec.ofNat 64 (64 * 0)) 64 = none) := by decide +kernel

/-! ## Witnesses: collectives, signals, power, accumulators -/

/-- A group of partition 0 with id 1, complete on this package. -/
def group1 (size : Nat) (departed : List Nat) (folds : List FoldInst) : Group :=
  { part := 0, id := 1, size := size, first := true, departed := departed, told := departed, still := [], ended := []
    broken := false, toldStill := false, badSite := none, badShape := none, folds := folds, last := none }

/-- `base` as member 0 of a group. -/
def memberOf (g : Group) : State :=
  let l (p : Launch) : Launch := { p with group := 1, members := g.size, timeout := 1000000 }
  let s := (base.mapCtx fun c => { c with launch := l c.launch }).mapNode 0 0 fun n => { n with launch := l n.launch }
  { s with groups := [g] }

/-- `base` as the only member of group 1. -/
def member : State := memberOf (group1 1 [] [])

/-- A fold of the member at the pc, with what it answered. -/
def foldWith (res : Option FoldRes) : Fold :=
  { seq := 1, site := 0, pc := 0x10000, target := 0x10000, fall := 0x10004, guess := none, since := 0, coll := none, res := res }

/-- A fold that has returned true. -/
def returned : Fold := foldWith (some (.result true 0))

/-- A state whose member is in a fold. -/
def infold (f : Fold) (s : State) : State := s.mapColl fun q => { q with fold := some f }

/-- `member` with the fold that has returned. -/
def folded : State := infold returned member

theorem witness_CollectiveBranch :
    (base.ready .c .none = true ∧ base.ctx.launch.group = 0 ∧ base.ctx.coll.fold = none) ∧
    (member.ready .c .none = true ∧ member.ctx.launch.group ≠ 0 ∧ member.ctx.c.left = false ∧ member.ctx.coll.fold = none ∧
     (member.myGroup.any (·.broken)) = false ∧ member.ctx.launch.spec = false) ∧
    (let s := member.mapCtx fun c => { c with launch := { c.launch with spec := true } }
     s.ready .c .none = true ∧ s.ctx.launch.group ≠ 0 ∧ s.ctx.c.left = false ∧ s.ctx.coll.fold = none ∧
     (s.myGroup.any (·.broken)) = false ∧ s.ctx.launch.spec = true) ∧
    (folded.ready .c .none = true ∧ folded.ctx.launch.group ≠ 0 ∧ folded.ctx.c.left = false ∧ folded.ctx.coll.fold = some returned ∧
     returned.pc = folded.pcOf .c ∧ returned.res = some (.result true 0)) ∧
    (let f := foldWith none
     let s := infold f member
     s.ready .c .none = true ∧ s.ctx.launch.spec = false ∧ s.ctx.coll.fold = some f ∧ f.pc = s.pcOf .c ∧ f.res = none ∧ s.foldTrap = none) ∧
    (let f := foldWith (some (.trap 0x11 5))
     let s := infold f member
     s.ready .c .none = true ∧ s.ctx.coll.fold = some f ∧ f.coll = none ∧ s.foldTrap = some (0x11, 5)) := by decide +kernel

/-- A fold to which member 0 has contributed true. -/
def voted (res : Option (Bool × Nat)) : FoldInst :=
  { seq := 1, site := 0, hash := 0, votes := [(0, true)], atDie := [], far := [], sent := [], peers := [], result := res }

theorem witness_FoldResults :
    let g := group1 2 [] []
    let f := voted none
    f.result = none ∧ g.first = true ∧ f.covered g.departed < g.size ∧ g.size ≤ f.covered (group1 2 [1] []).departed ∧
    (group1 2 [1] []).badSite = none ∧ (group1 2 [1] []).badShape ≠ some f.seq ∧
    ({ g with badSite := some (f.seq, 4) } : Group).badSite = some (1, 4) ∧ ({ g with badShape := some f.seq } : Group).badShape = some f.seq ∧
    ({ g with first := false } : Group).first = false := by decide

/-- The 64 bytes of a layout of four INT32 elements on a mesh of `n` members, partial or whole, at an offset. -/
def layoutBytes (n sums off : Nat) : List Byte :=
  leBytes 8 0x0101 ++ (leBytes 4 n ++ leBytes 4 1 ++ leBytes 4 1 ++ leBytes 4 0) ++
  (leBytes 4 4 ++ leBytes 4 1 ++ leBytes 4 1 ++ leBytes 4 1) ++ leBytes 4 0 ++ leBytes 4 sums ++ leBytes 8 off ++ leBytes 8 0

/-- Member 0 of `n` with layouts at offsets 0x1000 and 0x1040 of its SP window. -/
def laidOutOf (n : Nat) : State :=
  let s := memberOf (group1 n [] [])
  { s with mem := (s.mem.setBytes (spPa 0 0x1000) (layoutBytes n 1 0x2000)).setBytes (spPa 0 0x1040) (layoutBytes n 0 0x3000) }
def laidOut : State := laidOutOf 1

/-- Whether the checks of an exchange between the layouts pass. -/
def exchangeChecks (s : State) (dst : Nat) : Bool := ((s.begun .c .none).xcollCheck 61 61 .addInt .int32 0 0x1000 dst).isOk

/-- The exchange of a member of `n` that passes them. -/
def exchangeOf (n : Nat) : Exchange :=
  match (laidOutOf n).xcollCheck 61 61 .addInt .int32 0 0x1000 0x1040 with
  | .ok x => x
  | .error _ => { seq := 0, site := 0, hash := 0, srcDesc := [], dstDesc := [], red := .none, ty := .int8, src := .rs, dst := .rs
                  barAddr := 0, step := 0, moving := false, since := 0, due := [], far := [], block := none, out := [] }
def exchange : Exchange := exchangeOf 1

theorem witness_CollectiveExchange :
    (folded.ready .c .none = true ∧ folded.ctx.coll.fold = some returned ∧ returned.pc = folded.pcOf .c ∧
     ((folded.begun .c .none).ctx.coll.exchanges.any fun x => decide (returned.coll = some x.seq) && (folded.begun .c .none).partnerGone x) = false) ∧
    (let f : Fold := { returned with coll := some exchange.seq }
     let s := infold f ((memberOf (group1 1 [0] [])).mapColl fun q => { q with exchanges := [exchange] })
     let u := s.begun .c .none
     s.ready .c .none = true ∧ s.ctx.coll.fold = some f ∧ f.pc = s.pcOf .c ∧ f.res = some (.result true 0) ∧
     (u.ctx.coll.exchanges.any fun x => decide (f.coll = some x.seq) && u.partnerGone x) = true) ∧
    (laidOut.ready .c .none = true ∧ laidOut.ctx.coll.fold = none ∧ laidOut.ctx.coll.exchanges.length < 4 ∧
     exchangeChecks laidOut 0x1040 = true ∧ (laidOut.myGroup.any (·.broken)) = false ∧ exchangeChecks laidOut 0x1080 = false) ∧
    (let s := laidOut.mapColl fun q => { q with exchanges := List.replicate 4 exchange }
     s.ready .c .none = true ∧ s.ctx.coll.fold = none ∧ 4 ≤ s.ctx.coll.exchanges.length) := by decide +kernel

theorem witness_LeaveQuerySignal :
    (base.ready .c .none = true ∧ base.ctx.launch.group = 0 ∧ base.fencedOff .fence (BitVec.allOnes 16) .system = true) ∧
    (member.ready .c .none = true ∧ member.ctx.launch.group ≠ 0 ∧ member.ctx.c.left = false ∧ member.ctx.coll.fold = none ∧
     member.myGroup = some (group1 1 [] [])) ∧
    (folded.ready .c .none = true ∧ folded.ctx.launch.group ≠ 0 ∧ folded.ctx.c.left = false ∧ folded.ctx.coll.fold = some returned) ∧
    ((infold (foldWith none) member).ready .c .none = true ∧ (infold (foldWith none) member).ctx.coll.fold = some (foldWith none)) ∧
    (let f := foldWith (some (.trap 0x11 5))
     (infold f member).ready .c .none = true ∧ (infold f member).ctx.coll.fold = some f ∧ f.res = some (.trap 0x11 5)) := by decide +kernel

theorem witness_RatioAndLocks :
    base.ready .c .none = true ∧ ((base.island 0).holders.contains base.ctx.key) = false ∧ (base.island 0).restUntil = none ∧
    (let s := base.mapIsland 0 fun i => { i with holders := [primedKey] }
     s.ready .c .none = true ∧ ((s.island 0).holders.contains s.ctx.key) = true) ∧
    (let s := base.mapIsland 0 fun i => { i with restUntil := some 5 }
     s.ready .c .none = true ∧ ((s.island 0).holders.contains s.ctx.key) = false ∧ (s.island 0).restUntil.isSome = true) := by decide +kernel

/-- A drain of a band that waits for its verdict. -/
def drainOf (band : Nat) : Drain :=
  { vd := 0, band := band, nb := 1, clear := false, forward := false, main := [⟨0, 8, 1⟩], shadow := [⟨0, 8, 1⟩], rest := []
    mainSig := 1, shadowSig := 1, mainFlags := 0, shadowFlags := 0, word := (0, .clean), flagsBefore := 0, pc := 0x10000, sy := .none, dep := .clean }

/-- A drain of band 0. -/
def drained : Drain := drainOf 0

/-- `regs l` with bands 0 and 31 owned, and a second resident task of the node in context 1, with a drain or none. -/
def owner (l : List (XReg × Nat)) (d : Option Drain) : State :=
  let s := (regs l).mapCore 0 fun c => { c with owner := [(0, 0), (31, 0)] }
  { s with others := [{ base.ctx with key := ⟨0, 1⟩, mx := { base.ctx.mx with drain := d } }] }

/-- The bands in x1 are owned by the context. -/
def allOwned (s : State) : Bool := decide (((s.x 1).setWidth 32) &&& ~~~(s.here.ownMask s.slotNo) = 0)

/-- The grantee that x2 names has a drain on the bands in x1. -/
def granteeDrains (s : State) : Option Bool :=
  (s.grantee ((s.x 2).toNat % 4)).map fun c => c.mx.drain.any fun d => decide (bandMask d.band d.nb &&& (s.x 1).setWidth 32 ≠ 0)

theorem witness_AccumulatorBands :
    (let s := regs [(1, 2 ^ 63 + 4), (2, 2 ^ 63 + 40), (3, 0xF0)]
     s.ready .c .none = true ∧ (s.x 1).getLsbD 63 = true ∧ 1 ≤ (s.x 1).toNat % 64 ∧
     (s.x 1).toNat % 64 ≤ s.ctx.launch.amBanks - popcount (s.here.ownMask s.slotNo) 32 ∧ s.here.freeMask &&& bandMask 0 4 = bandMask 0 4 ∧
     s.ctx.launch.amBanks - popcount (s.here.ownMask s.slotNo) 32 < (s.x 2).toNat % 64 ∧ (s.x 3).getLsbD 63 = false) ∧
    (let s := owner [(1, 2 ^ 31 + 1), (2, 1)] none
     s.ready .c .none = true ∧ s.tablesOk = true ∧ allOwned s = true ∧
     s.bandsBusy ((s.x 1).setWidth 32) = false ∧ s.grantee 2 = none ∧ granteeDrains s = some false ∧ (s.x 2).getLsbD 8 = false) ∧
    (let s := owner [(1, 1), (2, 0x101)] none
     s.ready .c .none = true ∧ s.tablesOk = true ∧ allOwned s = true ∧ granteeDrains s = some false ∧ (s.x 2).getLsbD 8 = true) ∧
    (let s := owner [(1, 1), (2, 0x101)] (some drained)
     s.ready .c .none = true ∧ s.tablesOk = true ∧ allOwned s = true ∧ granteeDrains s = some true ∧ (s.x 2).getLsbD 8 = true) ∧
    (let s := (owner [(1, 1)] none).mapMx fun m => { m with chain := some ⟨0, 1, 16⟩ }
     s.ready .c .none = true ∧ allOwned s = true ∧ s.bandsBusy ((s.x 1).setWidth 32) = true) ∧
    (let s := regs [(1, 2 ^ 31)]
     s.ready .c .none = true ∧ (((s.x 1).setWidth 32) &&& ~~~(s.here.ownMask s.slotNo)).getLsbD 31 = true) := by
  decide +kernel

theorem witness_AccumulatorAndVerificationReads :
    base.ready .c .none = true ∧ (base.x 1).toNat % 8 = 0 ∧ ((regs [(1, 3)]).x 1).toNat % 8 = 3 ∧ ((regs [(1, 4)]).x 1).toNat % 8 = 4 ∧
    reached base.ctx.sys.verdicts (base.ctx.c.vwait.getD base.ctx.sys.drains) = true ∧
    (let s := base.mapSys fun r => { r with drains := 1 }
     s.ready .c .none = true ∧ reached s.ctx.sys.verdicts (s.ctx.c.vwait.getD s.ctx.sys.drains) = false) := by decide +kernel

/-! ## Witnesses: the vector stream -/

/-- The descriptor of a vector view of `len` elements of a type code from window offset `at'` (R129). -/
def vec (ty len at' : Nat) : Nat := (len - 1) * 2 ^ 23 + ty * 2 ^ 18 + at'

/-- A state in which the vector stream is next, with a vector length and views set. -/
def views (vl : Nat) (l : List (VReg × Nat)) : State :=
  (on .vx).mapVx fun v => { v with vl := vl, v := l.foldl (fun (v : Vector Word 32) e => v.set e.1 (BitVec.ofNat 64 e.2)) v.v }

/-- An extension word whose vc is v3. -/
def ext : VExt := { pm := 0, pe := false, pz := false, vc := 3, rm := 0, nf := false, sat := false, bs := false, imm := 0 }

/-- Views v1 to v3 of a type code, two elements each, the last at the end of the register space. -/
def three (ty : Nat) : State := views 2 [(1, vec ty 2 0), (2, vec ty 2 512), (3, vec ty 2 (262144 - 16))]

theorem witness_ScaleCodeValues : (7 : Nat) < 8 ∧ (31 : Nat) < 32 ∧ (0x3F : Nat) < 0x40 := by decide

theorem witness_VectorIntegers :
    let s := three 14
    s.ready .vx .none = true ∧ s.fine [(1, fun q => isInt q && decide (q = .int64)), (2, fun q => isInt q && decide (q = .int64)), (3, isInt)] := by
  unfold State.fine; decide +kernel

theorem witness_VectorBitForms :
    let s := three 3
    s.ready .vx .none = true ∧ s.fine [(1, is32), (2, is32), (3, isInt)] ∧ s.fine [(1, fun q => isInt q && decide (q = .int32))] ∧
    (0 : Nat) + 32 ≤ 32 := by
  unfold State.fine; decide +kernel

theorem witness_VectorFloats :
    let s := three 11
    s.ready .vx .none = true ∧ s.fine [(1, isFloat), (2, isFloat), (3, isFloat)] ∧ s.fine [(1, anyType), (2, anyType)] := by
  unfold State.fine; decide +kernel

theorem witness_VectorCompares :
    (three 6).ready .vx .none = true ∧ (three 6).fine [(1, isFloat), (2, isFloat)] ∧ (three 0).ready .vx .none = true ∧
    (three 0).fine [(1, fun q => isInt q && decide (q = .int8)), (2, fun q => isInt q && decide (q = .int8))] := by
  unfold State.fine; decide +kernel

theorem witness_VectorMoves :
    let s := three 2
    let size (q : ElemTy) : Bool := sameSize (s.view 1).size q
    s.ready .vx .none = true ∧ s.fine [(1, anyType), (2, size), (3, size), (1, isInt), (3, isInt)] ∧
    s.viewFault 2 size 1 [0] = none ∧ s.viewFault 2 size 0 (s.permIndices none 2 3) = none ∧
    s.viewFault 2 size (s.actives none).length (List.range (s.actives none).length) = none ∧
    s.viewFault 2 size (s.vl - 1) (List.range (s.vl - 1)) = none := by
  unfold State.fine; decide +kernel

theorem witness_VectorReductions :
    (let s := three 3
     s.ready .vx .none = true ∧ s.viewFault 1 isInt 1 [0] = none ∧ s.fine [(2, isInt)] ∧ s.actives none ≠ [] ∧
     s.viewFault 1 (fun q => isInt q && decide (q = .int32)) 1 [0] = none ∧ s.fine [(2, fun q => isInt q && decide (q = .int32))]) ∧
    (let s := views 0 [(1, vec 3 1 0), (2, vec 3 1 4)]
     s.ready .vx .none = true ∧ s.actives none = [] ∧ s.viewFault 1 (fun q => isInt q && decide (q = .int32)) 1 [0] = none) ∧
    (let s := three 10
     s.ready .vx .none = true ∧ s.viewFault 1 isFloat 1 [0] = none ∧ s.viewFault 1 (fun q => decide (q = .bf16)) 1 [0] = none ∧
     s.fine [(2, isSumTy), (2, isFloat), (1, isFloat)]) := by
  unfold State.fine; decide +kernel

theorem witness_Quantisation :
    (let s := views 192 [(1, vec 13 192 0), (2, vec 11 192 1024), (3, vec 10 1 4096)]
     s.ready .vx .none = true ∧ s.viewFault 1 (fun q => decide (q = .qs4)) s.vl [] = none ∧ s.ctx.mx.opRows = [] ∧
     (s.view 1).base + 128 * ((s.vl + 191) / 192) ≤ s.ctx.win.rsSize ∧ s.fine [(2, isSumTy)] ∧
     s.viewFault 3 (fun q => decide (q = .bf16)) 1 [0] = none ∧ s.fine [(2, fun q => anyType q && decide (q ≠ .e3m5))] ∧
     ((s.begun .vx .none).rsWriteAll .vx []).isSome = true) ∧
    (let s := views 1 [(1, vec 11 1 1024), (2, vec 13 192 0)]
     let good : State := { s with mem := s.mem.setLe (s.rsAddr 124) 4 (crc32c (List.replicate 124 0)) }
     good.ready .vx .none = true ∧ good.actives none = [0] ∧ sectorOk (good.rsGet 0 128) = true ∧
     s.ready .vx .none = true ∧ s.actives none = [0] ∧ sectorOk (s.rsGet 0 128) = false) := by
  unfold State.fine; decide +kernel

theorem witness_VectorMemory :
    (let s := (three 3).setVs 1 (BitVec.ofNat 64 (spAt (983040 - 8)))
     s.ready .vx .none = true ∧ s.fine [(1, spType false)] ∧ (s.spBaseAddr 1 none).toNat % 4 = 0 ∧
     (match s.spElems (s.spBaseAddr 1 none) (s.view 1) id (s.actives none) with
      | .ok l => !l.any fun q => s.badAt q.pa 4
      | _ => false) = true ∧
     s.fine [(1, spType true), (2, isInt)] ∧
     (match s.spElems (s.spBaseAddr 1 none) (s.view 1) (fun e => s.elem (s.view 2) e) (s.actives none) with
      | .ok l => !l.any fun q => s.badAt q.pa 4
      | _ => false) = true ∧
     s.fine [(1, sliceType), (2, isInt)] ∧
     ∀ e ∈ s.actives none, s.elem (s.view 2) e % 4 = 0 ∧ s.elem (s.view 2) e < 4 * (s.ctx.win.rsSize / 512)) ∧
    (let s := (three 3).setVs 1 (BitVec.ofNat 64 (spAt 983040))
     s.ready .vx .none = true ∧
     (match s.spElems (s.spBaseAddr 1 none) (s.view 1) id (s.actives none) with
      | .error _ => true
      | _ => false) = true) ∧
    ((three 3).setVs 1 2).ready .vx .none = true ∧ (((three 3).setVs 1 2).spBaseAddr 1 none).toNat % 4 ≠ 0 := by
  unfold State.fine; decide +kernel

theorem witness_ElementWritesLand :
    let s := three 6
    s.ctx.ver = none ∧ s.ctx.spec = none ∧ s.ctx.mx.opRows = [] ∧ s.tablesOk = true ∧ (s.view 1).tile = false ∧ (s.view 1).ty ≠ .qs4 ∧
    (s.view 1).ty ≠ .invalid ∧ ([(0, 15), (1, 1)] : List (Nat × Nat)).map (·.1) = [0, 1] ∧ [0, 1].Nodup ∧
    (State.writeBits .vx s ([(0, 15), (1, 1)].map fun e => (s.view 1).put e.1 e.2)).isSome = true := by decide +kernel

/-! ## Witnesses: engine control, copies, the matrix stream -/

/-- A state with stream `t` next, `w` and `w'` at the heads of every queue. -/
def queued (t : Stream) (w w' : Nat) : State :=
  let q (n : Nat) : Queue := { slots := BitVec.ofNat 64 w :: BitVec.ofNat 64 w' :: List.replicate (n - 2) 0, head := 0, count := 2, deps := [] }
  (on t).mapCtx fun c => { c with queues := #v[q 32, q 16, q 16, q 16] }

/-- Core 0 owns every band for context 0. -/
def owned (s : State) : State := s.mapCore 0 fun c => { c with owner := (List.range 32).map fun b => (b, 0) }

/-- A copy command that is done. -/
def copied : CopyCmd :=
  { base.blankCmd .ld .none (.fill 0) .rs .rs 0 0 (0, 0) 0 .default 0 with seq := 1, done := true }

/-- The queues of a copy stream hold what a command of it pops. -/
def copyReady (s : State) (c : CopyStream) : Bool :=
  decide (s.copySide = c) && s.ready c.stream .none && decide (s.queueDep c.queue = .clean) && decide (s.queueDep2 c.queue = .clean)

theorem witness_EngineControlForms :
    (let s := queued .vx 1 2
     s.ready .vx .none = true ∧ (s.ctx.queues[2]).peek = some 1 ∧ s.queueDep 2 = .clean ∧ (on .vx).ready .vx .none = true ∧
     (on .vx).ctx.queues[2].count = 0 ∧ (on .vx).queueDep 2 = .clean ∧ (View.ofWord (BitVec.ofNat 64 (vec 14 1024 0))).valid = true ∧
     (View.ofWord (BitVec.ofNat 64 (vec 15 1 0))).valid = false) ∧
    (let s := views 0 [(1, vec 1 128 (262144 - 128))]
     s.ready .vx .none = true ∧ s.viewFault 1 isInt 128 (List.range 128) = none) ∧
    (let s := owned (on .mx)
     s.ready .mx .none = true ∧ s.mxReady = true ∧ s.bandFault 28 4 false = none ∧
     (s.ctx.mx.drain.any fun d => !d.forward || !d.rest.isEmpty) = false) ∧
    (let s := (on .mx).mapMx fun m => { m with drain := some drained, chain := some ⟨30, 2, 16⟩ }
     s.ready .mx .none = true ∧ (s.ctx.mx.drain.any fun d => !d.forward || !d.rest.isEmpty) = true) ∧
    ((on .mx).ready .mx .none = true ∧ (on .mx).mxReady = true ∧ (on .mx).bandFault 28 4 false = some 28) ∧
    (let s := queued .ld (2 ^ 50 - 1) 2
     copyReady s .ld = true ∧ (s.cp .ld).flight = [] ∧ (s.cp .ld).doneseq = (s.cp .ld).issued ∧
     s.ctx.queues[CopyStream.ld.queue].peek = some (2 ^ 50 - 1) ∧ s.ctx.queues[CopyStream.ld.queue].peek2 = some 2 ∧
     (2 ^ 50 - 1 : Word).toNat < 2 ^ 50) ∧
    (let s := (on .st).mapCp .st fun c => { c with issued := 1, flight := [{ copied with done := false }] }
     copyReady s .st = true ∧ (s.cp .st).flight ≠ [] ∧ (s.cp .st).doneseq ≠ (s.cp .st).issued ∧
     s.ctx.queues[CopyStream.st.queue].peek = none ∧ s.ctx.queues[CopyStream.st.queue].peek2 = none) := by
  decide +kernel

/-- `queued .ld` with slot ring 0 at the start of the window, and these four counts. -/
def copySlots (res post acq rel : Nat) : State := { queued .ld 7 8 with mem := (ringed res post acq rel).mem }

/-- The state in which a copy instruction's checks are made. -/
def lent (s : State) : State := (s.begun .ld .none).lend .ld (s.popList .ld .none) []

/-- The checks of an `XCPY` from handle 61, of an `XFIL`, of an `XGTH` by indices at handle 61, with destination `hd`. -/
def cpyOk (s : State) (hd : HReg) : Bool := ((lent s).cpyChecked .ld .none hd 0 61 1 0 0 .none 0 .default false).isOk
def filOk (s : State) (hd : HReg) (b : BReg) : Bool :=
  let u := lent s
  (u.checkCopy (u.blankCmd .ld .none (.fill 0) (u.bound hd) .rs (s.cp .ld).o[(0 : OReg)] 0 (s.cp .ld).sh[(0 : ShReg)] 0 .default hd.val)
    hd.val 0 b).isOk
/-- What an `XGTH` of that kind finds of its index bytes: none parks, they are read or waited for, and the checks' answer. -/
def gthFinds (s : State) (hd : HReg) : Option (Option Bool) :=
  let u := lent s
  let l := u.indexBytes .ld hd 0 61 1 61 0
  if l.any fun p => u.mustPark p 1 then none
  else
    match u.indexReady .ld (u.bound 61) l 0 with
    | .error .wait => some none
    | .error _ => none
    | .ok v => some (some (v.gthChecked .ld .none hd 0 61 1 0 61 0 0 .default).isOk)
def gthKey (s : State) (hd : HReg) : Bool :=
  match (lent s).gthChecked .ld .none hd 0 61 1 0 61 0 0 .default with
  | .ok q => q.2.places.all fun p => decide (p.key = 0)
  | .error _ => false

/-- What the names of a copy command's operand at offset o0 of a handle are found to be. -/
def names (s : State) (hd : HReg) (write : Bool) : Bool :=
  ((lent s).nameFault [{ h := hd, off := (s.cp .ld).o[(0 : OReg)], write := write }]).isNone

/-- The checks of the slot forms of ring 0 with handle `hd`. -/
def slotOk (s : State) (hd : HReg) (into : Bool) : Bool :=
  let u := lent s
  let r := theRing s
  if into then (u.checkCopy (u.slotCmd .ld .none .slotIn hd (s.cp .ld).o[(0 : OReg)] r ring0 r.res 0 .default) 0 hd.val 0).isOk
  else (u.checkCopy (u.slotCmd .ld .none .slotOut hd (s.cp .ld).o[(0 : OReg)] r ring0 r.acq 0 .default) hd.val hd.val 0).isOk

/-- A slot form reaches the ring. -/
def slotReady (s : State) : Bool :=
  copyReady s .ld && decide (s.descPlace ((lent s).slotAddr 0) 64 = some ring0) && s.ringOk (theRing s) && !s.boundBell ring0

/-- A state whose offset register o0 is beyond every operand. -/
def beyond (s : State) : State := s.mapCp .ld fun c => { c with o := c.o.set 0 (2 ^ 40) }

theorem witness_CopyCommandsIssue :
    (let s := queued .ld 7 8
     copyReady s .ld = true ∧ (s.str .ld).ref = none ∧ s.ctx.queues[CopyStream.ld.queue].peek = some 7 ∧ (s.cp .ld).busy = false ∧
     cpyOk s 60 = true ∧ cpyOk s 59 = false ∧ names s 60 true = true ∧ names s 59 true = false ∧ filOk s 60 0 = true ∧
     filOk (beyond s) 60 0 = false ∧ names (beyond s) 60 true = true ∧ gthFinds s 60 = some (some true) ∧ gthKey s 60 = true ∧
     gthFinds s 59 = some (some false) ∧ s.ms.red = [] ∧ s.ms.sealed = [] ∧ s.ranEarly .ld = false ∧ s.copySide = .ld) ∧
    (let s := (queued .ld 7 8).mapCp .ld fun c => { c with indexDue := some (0x10000, [1]) }
     copyReady s .ld = true ∧ s.ranEarly .ld = false ∧ gthFinds s 60 = some none) ∧
    (let s := (on .ld).mapCp .ld fun c => { c with early := [(1, 0x10000)] }
     copyReady s .ld = true ∧ s.ranEarly .ld = true) ∧
    (let s := on .ld
     copyReady s .ld = true ∧ cpyOk s 60 = true ∧ (s.str .ld).ref = none ∧ s.ctx.queues[CopyStream.ld.queue].peek = none) ∧
    (let s := flying [{ copied with done := false }] (on .ld)
     copyReady s .ld = true ∧ cpyOk s 59 = false ∧ gthFinds s 59 = some (some false) ∧ (s.cp .ld).busy = true) ∧
    (let s := copySlots 0 0 0 0
     slotReady s = true ∧ (theRing s).free ≠ 0 ∧ s.slotOwed ring0 = false ∧ names s 60 false = true ∧ names s 59 false = false ∧
     slotOk s 60 true = true ∧ slotOk (beyond s) 60 true = false ∧ slotReady (beyond s) = true ∧ names (beyond s) 60 false = true ∧
     (theRing s).filled = 0) ∧
    (let s := copySlots 2 2 1 0
     slotReady s = true ∧ (theRing s).filled ≠ 0 ∧ s.slotOwed ring0 = false ∧ names s 60 true = true ∧ names s 59 true = false ∧
     slotOk s 60 false = true ∧ slotOk (beyond s) 60 false = false ∧ slotReady (beyond s) = true ∧ (theRing s).free = 0) := by
  decide +kernel

/-- The descriptor of a tile view of `rows` by `cols` elements of a type code from window offset `at'` (R130). -/
def tile (ty rows cols pitch at' : Nat) : Nat :=
  pitch / 16 * 2 ^ 35 + (cols - 1) * 2 ^ 29 + (rows - 1) * 2 ^ 23 + 2 ^ 22 + ty * 2 ^ 18 + at'

/-- `queued .mx` with a format word, every band owned, views, and a chain of two bands and 16 columns from band 30. -/
def tiles (fmt : Nat) (l : List (VReg × Nat)) : State :=
  ((owned (queued .mx fmt 0)).mapVx fun v =>
    { v with v := l.foldl (fun (v : Vector Word 32) e => v.set e.1 (BitVec.ofNat 64 e.2)) v.v }).mapMx
      fun m => { m with chain := some ⟨30, 2, 16⟩ }

/-- The conditions of an adding command on stores, chain and queue. -/
def adds (s : State) (cmd : Nat) (k : BandKind) : Bool :=
  s.ready .mx .none && s.tablesOk && s.here.main.wf && s.here.shadow.wf && s.mxReady && decide (s.queueDep 0 = .clean) &&
  decide (s.ctx.mx.chain = some ⟨30, 2, 16⟩) && decide (s.bandFault 30 2 false = none) &&
  ((s.ctx.queues[0]).peek).any fun w => decide ((Fmt.ofWord w).adding cmd = some k) &&
    !s.here.am.clash (rangeBands 30 2) k (Fmt.ofWord w).anchor

/-- The bytes of an operand that is read lie in the window and are whole. -/
def usable (s : State) (v : View) (l : List (Nat × Nat)) : Bool := s.inWindow l && decide (s.badOperand ⟨v, l⟩ = none)

/-- A tile operand of a type, of which some bytes are read. -/
def partTile (s : State) (v : View) (t : ElemTy) (l : List (Nat × Nat)) : Bool := v.tile && decide (v.ty = t) && usable s v l
def legalTile (s : State) (v : View) (t : ElemTy) : Bool := partTile s v t v.ranges

/-- An index view for rows below `top`, and the bytes of a tile that it names. -/
def legalIndex (s : State) (v : View) (top : Nat) : Bool :=
  !v.tile && isInt v.ty && decide (v.len ≤ 32) && usable s v v.ranges && (List.range v.len).all fun e => decide (v.index s.rd e < top)
def rowsOf (s : State) (v i : View) : List (Nat × Nat) := v.rowRanges ((List.range i.len).map (i.index s.rd)).eraseDups

theorem witness_MatrixAdds :
    (let s := tiles 0x77 [(1, tile 7 32 4 16 0), (2, tile 7 4 16 16 1024)]
     adds s 0 .narrow = true ∧ legalTile s (s.view 1) .e4m3 = true ∧ legalTile s (s.view 2) .e4m3 = true ∧
     (s.view 1).width = (s.view 2).rows ∧ (s.view 1).rows ≤ 16 * 2 ∧ (s.view 2).width ≤ 16 ∧
     s.ctx.mx.spanFull ((grid 32 16).map fun q => (Chain.key ⟨30, 2, 16⟩ q.1 q.2, 4)) = false) ∧
    (let s := tiles 0x177 [(1, vec 1 32 0), (2, tile 7 4 16 16 1024), (3, tile 7 2 4 16 2048)]
     adds s 1 .narrow = true ∧ partTile s (s.view 3) .e4m3 (rowsOf s (s.view 3) (s.view 1)) = true ∧
     legalTile s (s.view 2) .e4m3 = true ∧ legalIndex s (s.view 1) (s.view 3).rows = true ∧
     (s.view 2).rows = (s.view 3).width ∧ (s.view 2).width ≤ 16) ∧
    (let s := tiles 0x2AA [(1, tile 10 16 16 32 0), (2, vec 1 32 1024)]
     adds s 2 .wide = true ∧ legalTile s (s.view 1) .bf16 = true ∧ (s.view 1).width ≤ 16 ∧ (s.view 1).rows ≤ 16 ∧
     partTile s (s.view 1) .bf16 (rowsOf s (s.view 1) (s.view 2)) = true ∧ legalIndex s (s.view 2) (s.view 1).rows = true) := by
  decide +kernel

/-- Core 0 whose stores disagree in slot (0, 0) of a band. -/
def disagreeing (band : Nat) (s : State) : State := s.mapCore 0 fun c => { c with main := c.main.setSlot (1024 * band) { Slot.zero with s := 1 } }

/-- The bands compared at `MLDA` of v1 to two bands from 30, and whether they then agree. -/
def loadAgrees (s : State) : Bool :=
  let f := Fmt.ofWord (((s.ctx.queues[0]).peek).getD 0)
  let load (st : Store) : Store := st.loadTile (s.view 1) s.rd 30 2 .wide f.anchor
  ({ s.here with main := load s.here.main, shadow := load s.here.shadow } : Core).agreeAll (bandsOf s.ctx.mx.spanBands ++ rangeBands 30 2)

/-- The bands of the span beside bands 30 and 31. -/
def besides (s : State) : List Nat := (bandsOf s.ctx.mx.spanBands).filter fun b => decide (b < 30 ∨ 32 ≤ b)

theorem witness_MatrixZeroAndLoad :
    let s := tiles 0x4AA [(1, tile 10 4 8 16 0)]
    let plain (s : State) : Bool :=
      s.ready .mx .none && s.mxReady && s.tablesOk && s.here.main.wf && s.here.shadow.wf && decide (s.bandFault 30 2 false = none) &&
      decide (s.queueDep 0 = .clean) &&
      ((s.ctx.queues[0]).peek.any fun w => decide ((Fmt.ofWord w).loading = some .wide) && decide ((Fmt.ofWord w).a = .bf16) &&
        !s.here.am.clash (rangeBands 30 2) .wide (Fmt.ofWord w).anchor) && legalTile s (s.view 1) .bf16 &&
      decide ((s.view 1).rows ≤ 16 * 2) && decide ((s.view 1).width ≤ 64)
    (plain s = true ∧ s.here.agreeAll (besides s) = true ∧ loadAgrees s = true) ∧
    (let t := disagreeing 5 (s.mapMx fun m => { m with spanBands := bandMask 5 1 })
     plain t = true ∧ t.here.agreeAll (besides t) = false ∧ loadAgrees t = false) := by
  decide +kernel

/-- The conditions of `MDRN` of two bands from 30 into v1. -/
def drains (s : State) : Bool :=
  s.ready .mx .none && s.mxReady && decide (s.queueDep 0 = .clean) && decide (s.bandFault 30 2 true = none) &&
  s.inWindow (s.view 1).ranges && (s.view 1).tile && decide ((s.view 1).ty = .bf16) && decide ((s.view 1).rows ≤ 32) &&
  decide ((s.view 1).cols ≤ 64) && s.ctx.mx.opRows.isEmpty &&
  ((s.ctx.queues[0]).peek).any fun w => (Fmt.ofWord w).draining && decide ((Fmt.ofWord w).d = .bf16)

/-- Core 0 with slot (0, 0) of band 30 unreadable in the stores named. -/
def unreadable (main shadow : Bool) (s : State) : State :=
  s.mapCore 0 fun c => { c with main := c.main.setSlot 30720 { Slot.zero with bad := main }
                                shadow := c.shadow.setSlot 30720 { Slot.zero with bad := shadow } }

theorem witness_MatrixDrain :
    let s := tiles 0xA300 [(1, tile 10 32 64 128 0)]
    let l := s.drainBands 30 2
    let u := unreadable true true s
    let m := unreadable false true s
    let one := s.mapCore 0 fun c => { c with mainFailed := true }
    let fwd := s.mapCtx fun c => { c with launch := { c.launch with forward := true } }
    (drains u = true ∧ u.here.lost l = some 30720) ∧
    (drains m = true ∧ m.here.lost l = none ∧ m.here.mends l = true ∧ m.ctx.launch.forward = false) ∧
    (let g := unreadable false true fwd
     drains g = true ∧ g.here.lost l = none ∧ g.here.mends l = true ∧ g.ctx.launch.forward = true) ∧
    (drains one = true ∧ one.here.oneArray = true ∧ one.here.lost l = none) ∧
    (drains s = true ∧ s.here.oneArray = false ∧ s.here.lost l = none ∧ s.here.mends l = false ∧ s.ctx.launch.forward = false) ∧
    (drains fwd = true ∧ fwd.here.oneArray = false ∧ fwd.here.lost l = none ∧ fwd.here.mends l = false ∧ fwd.ctx.launch.forward = true) := by
  decide +kernel

theorem witness_EngineFaults :
    (let s := three 3
     let same (q : ElemTy) : Bool := isInt q && decide (q = (s.view 1).ty)
     s.ready .vx .none = true ∧ s.viewFault 1 isFloat s.vl s.named = some (viewVal 1 2) ∧
     s.viewFault 4 same s.vl s.named = some (viewVal 4 2)) ∧
    ((on .mx).ready .mx .none = true ∧ (on .mx).mxReady = true ∧ (on .mx).ctx.queues[0].count = 0 ∧ (on .mx).queueDep 0 = .clean) ∧
    (let s := queued .mx 0x77 0
     s.ready .mx .none = true ∧ s.mxReady = true ∧ (s.ctx.queues[0]).peek = some 0x77 ∧ s.queueDep 0 = .clean ∧
     s.ctx.mx.chain = none ∧ s.bandFault 31 1 false = some 31 ∧ (owned s).ready .mx .none = true ∧ (owned s).mxReady = true ∧
     (owned s).bandFault 31 1 true = none ∧ (Fmt.ofWord 0x77).draining = false) := by
  decide +kernel

/-- A state in which scalar register 3 disagrees with its residue. -/
def upsetX (s : State) : State := s.mapC fun c => { c with badX := 8 }

/-- A state in which the word at a window offset of register space disagrees with its residue. -/
def upsetWord (o : Nat) (s : State) : State := s.mapMs fun m => { m with badWords := [s.rsAddr o] }

theorem witness_EngineFaults_residue :
    (let s := upsetX base
     s.mayIssue .c .none = true ∧ s.ctx.ver = none ∧ s.ctx.spec = none ∧ (s.popped .c .none).2 = .clean ∧
     s.ctx.c.badX.getLsbD 3 = true) ∧
    (let s := upsetWord 512 (three 11)
     s.mayIssue .vx .none = true ∧ s.ctx.ver = none ∧ s.ctx.spec = none ∧ (s.popped .vx .none).2 = .clean ∧
     ((s.elemsAt 2 (s.actives none)).findSome? fun q => s.badWord q.1 q.2) = some 512) := by decide +kernel

/-! ## Witnesses: rings and functions -/

/-- A packet with these fields: offset, value. -/
def packet (l : List (Nat × Nat)) : Packet := BitVec.ofNat 1024 (l.foldl (fun n e => n + e.2 * 2 ^ (8 * e.1)) 0)

/-- Ring 0 of partition 0, and of the management function. -/
def ring (pf0 : Bool) : RingId := ⟨if pf0 then 0 else 1, 0⟩

/-- `s` in which a ring of 16 slots at 0x20000 offers a packet as its first. -/
def offered (s : State) (r : RingId) (k : Packet) : State :=
  let s := s.mapRing r fun g => { g with base := 0x20000, en := true, logsize := 4, phase := true, awake := true }
  { s with mem := s.mem.setLe 0x20000 128 k.toNat }
def offering (r : RingId) (k : Packet) : State := offered base r k

/-- What `PacketSteps` calls u. -/
def taken (s : State) (r : RingId) (k : Packet) : State := (((offered s r k).slotBytes r).2).mapRing r Ring.consume

/-- The packet is offered, of a type, and no refusal stands in its ring's error register. -/
def comes (s : State) (r : RingId) (k : Packet) (ty : Nat) : Bool :=
  (offered s r k).offers r k && decide (typeOf k = ty) && decide (((taken s r k).ring r).err = 0) &&
  decide (cplForm (BitVec.ofNat 64 (Machine.fld k 0x70 8)) ≠ some .write)

/-- A `LAUNCH` of a node: `n` instances in one team, a save area and, with `dep`, one dependence. -/
def launch (node n dep : Nat) : Packet :=
  packet [(0, 1), (1, 1), (4, n), (8, n), (0x0C, node), (0x10, 0x10000), (0x34, dep), (0x48, 0x4000)]

/-- Its limits are kept; whether its node is live, and whether its team fits. -/
def launchGoes (k : Packet) : Option (Bool × Bool) :=
  let u := taken base (ring false) k
  let l := Launch.ofPacket k
  match u.fnPart (ring false).fn with
  | none => none
  | some q => if firstBad (u.launchBad q.p k) = none then some ((u.node q.p l.node).isSome, decide (u.teamFit q l = none)) else none

/-- A `SIGNAL` of one to a node. -/
def signal (node : Nat) : Packet := packet [(0, 1), (1, 2), (4, 1), (0x0C, node)]

/-- The end of a packet keeps its limits. -/
def tailOk (k : Packet) : Bool :=
  decide (cplForm (BitVec.ofNat 64 (Machine.fld k 0x70 8)) ≠ none) && decide (Machine.fld k 0x78 4 / 2 ^ 16 ≠ 0xFFFF) && decide (Machine.fld k 0x7C 4 = 0)

/-- A `SIGNAL` keeps its limits. -/
def signalOk (s : State) (k : Packet) : Bool :=
  comes s (ring false) k 2 && ((taken s (ring false) k).fnPart (ring false).fn).isSome && decide (Machine.fld k 0 1 / 2 = 0) &&
  decide (Machine.fld k 2 2 = 0) && decide (Machine.fld k 4 4 ≠ 0) && decide (Machine.fld k 8 4 = 0) &&
  decide (Machine.fld k 0x10 0x60 = 0) && tailOk k

/-- `base` whose node waits for `n` dependences. -/
def pendingOn (n : Nat) : State := base.mapNode 0 0 fun m => { m with admitted := false, pending := n }

theorem witness_PacketSteps :
    (let r := ring false
     comes base r (launch 5 1 0) 1 = true ∧ launchGoes (launch 5 1 0) = some (false, true) ∧ launchGoes (launch 5 1 1) = some (false, true) ∧
     (taken base r (launch 5 1 0)).net.absent = [] ∧ comes base r (launch 5 0 0) 1 = true ∧ launchGoes (launch 5 0 0) = none ∧
     comes base r (launch 0 1 0) 1 = true ∧ launchGoes (launch 0 1 0) = some (true, true) ∧
     comes base r (launch 5 64 0) 1 = true ∧ launchGoes (launch 5 64 0) = some (false, false)) ∧
    (signalOk base (signal 7) = true ∧ ((taken base (ring false) (signal 7)).node 0 7).isNone = true ∧
     ((taken base (ring false) (signal 7)).part 0).any (fun q => decide (q.credits.length < 1024)) = true) ∧
    (signalOk (pendingOn 2) (signal 0) = true ∧
     ((taken (pendingOn 2) (ring false) (signal 0)).node 0 0).any (fun n => !n.admitted && decide (1 < n.pending)) = true) ∧
    (signalOk (pendingOn 1) (signal 0) = true ∧
     ((taken (pendingOn 1) (ring false) (signal 0)).node 0 0).any (fun n => !n.admitted && decide (n.pending ≤ 1)) = true) ∧
    (let k := packet [(0, 1), (1, 4), (2, 23), (3, 15), (0x78, 0xFFFEFFFF)]
     comes base (ring false) k 4 = true ∧ Machine.fld k 0 1 / 2 = 0 ∧ Machine.fld k 2 1 ≤ 23 ∧ Machine.fld k 3 1 < 16 ∧
     Machine.fld k 4 0x6C = 0 ∧ Machine.fld k 0x70 8 = 0 ∧ tailOk k = true) ∧
    (let k := packet [(0, 3), (1, 4)]
     comes base (ring false) k 4 = true ∧ Machine.fld k 0 1 / 2 ≠ 0) := by
  decide +kernel

/-- PARTITION-CONFIG for partition `p`, operation `op`. -/
def config (op p : Nat) (l : List (Nat × Nat)) : Packet := packet ([(0, 1), (1, 3), (4, op), (5, p)] ++ l)

/-- It is offered, its header is well-formed, and its limits are kept; whether it can complete. -/
def configures (s : State) (pf0 : Bool) (k : Packet) : Option Bool :=
  let r := ring pf0
  let u := taken s r k
  if comes s r k 3 && decide (Machine.fld k 0 1 / 2 = 0) && decide (lowestBad (u.configBad k) = none) then some ((u.beginConfig k).configReady k)
  else none

/-- A package without tasks and nodes. -/
def empty : State := { base with nodes := [], ctx := .idle primedKey }

theorem witness_PacketSteps_config :
    configures base true (config 1 1 [(8, 2), (0x16, 1), (0x18, 1), (0x1A, 1), (0x20, 2 ^ 30), (0x28, 2 ^ 30), (0x30, 1)]) = some true ∧
    configures base true (config 2 0 [(8, 15), (0x0C, 1)]) = some true ∧ configures base true (config 4 0 []) = some true ∧
    configures base true (config 5 0 [(8, 0x5000), (0x10, 4096)]) = some true ∧ configures base true (config 6 0 [(8, 1800)]) = some true ∧
    configures base true (config 6 0 [(8, 5000)]) = some true ∧ configures empty true (config 3 0 []) = some true ∧
    (configures base true (config 6 0 [(8, 1799)]) = none ∧ comes base (ring true) (config 6 0 [(8, 1799)]) 3 = true) ∧
    (comes base (ring false) (config 6 0 [(8, 1800)]) 3 = true ∧ (ring false).fn.val ≠ 0) ∧
    configures (base.mapCtx fun c => { c with handles := c.handles.set 0 (some
      { base := 0x5000, extent := 4096, rights := .rw, zero := false, runs := [], pins := [(0x5000, 4096)], serial := 1 }) })
      true (config 5 0 [(8, 0x5000), (0x10, 4096)]) = some false ∧
    (partOf (config 3 0 []) = some 0 ∧ opOf (config 3 0 []) = 3 ∧ (base.part 0).isSome = true) := by
  decide +kernel

/-- `base` with a ring of partition 0 set to 2^n slots, enabled or not. -/
def ringSet (n : Nat) (en : Bool) : State := base.mapRing (ring false) fun g => { g with logsize := n, en := en, base := 0x20000 }

/-- What the fetcher finds at an enabled ring with an address and a phase: whether it may read, and the phase there, if it can. -/
def bells (at' : Word) (phase : Bool) : Option (Option Bool) :=
  let w := (ringSet 4 true).mapRing (ring false) fun g => { g with awake := true, base := at', phase := phase }
  if w.fetching (ring false) then
    some (match w.slotBytes (ring false) with
      | (.ok l, x) => some (decide ((x.ring (ring false)).phase = decide (leValue l % 2 = 1)))
      | _ => none)
  else none

/-- `ringed 0 p 0 0` bound to doorbell 4095. -/
def bellBound (p : Nat) : State := (ringed p p 0 0).mapMs fun m => { m with doorbells := [(0, 4095, ring0, primedKey)] }

/-- The slots free in it. -/
def bellRoom (s : State) : Nat := (theRing s).count - diff32 (theRing s).post (theRing s).rel

theorem witness_FunctionSteps :
    ((ringSet 4 false).ringThere (ring false) = true ∧ ((ringSet 4 false).ring (ring false)).en = false ∧
     ((ringSet 4 false).ring (ring false)).logsize = 4 ∧ ((ringSet 17 false).ring (ring false)).logsize = 17 ∧
     (ringSet 17 false).ringThere (ring false) = true ∧ ((ringSet 17 false).ring (ring false)).en = false ∧
     (ringSet 4 true).ringThere (ring false) = true ∧ ((ringSet 4 true).ring (ring false)).en = true) ∧
    (bells 0x20000 false = some (some true) ∧ bells 0x20000 true = some (some false) ∧ bells (2 ^ 40) true = some none) ∧
    ((base.fnPart (ring false).fn).isSome = true ∧ base.ringThere (ring false) = true ∧ ((base.ring (ring false)).en = false) ∧
     ((pendingOn 2).node 0 0).any (fun n => !n.admitted && decide (1 < n.pending)) = true ∧ (base.node 0 1).isNone = true) ∧
    (let s := bellBound 0
     (s.ms.doorbells.find? fun d => decide (d.1 = 0) && decide (d.2.1 = 4095)) = some (0, 4095, ring0, primedKey) ∧ 1 ≤ bellRoom s ∧
     (((s.setCount ring0 0x14 1).setCount ring0 0x10 1).bellOwner ring0).isSome = true ∧ bellRoom (bellBound 2) = 0 ∧ 0 < bellRoom (bellBound 1) ∧ bellRoom (bellBound 1) < 2) ∧
    (base.fnPart (ring false).fn).any (fun q => decide (2 ^ 30 - 513 + 513 ≤ q.hbmSize * 2 ^ 30)) = true ∧ base.ms.red = [] ∧
    (64 : Nat) < 65 ∧ (base.part 0).isSome = true ∧ State.reset.mg.booted = false ∧ base.mg.booted = true ∧
    (base.mapMg fun m => { m with trained := true }).mg.trained = true ∧ base.groups = [] := by
  decide +kernel

/-! ## Witnesses: scheduling, memory, groups, management -/

/-- `base` whose node's only member has ended. -/
def ended : State := base.mapNode 0 0 fun n => { n with teams := [{ Team.fresh 1 with members := [.ended] }] }

/-- A package whose one node has a waiting team, at a time, at a priority, with levels gained. -/
def waiting (at' priority aged : Nat) : State :=
  { empty with
      nodes := [{ primedNode with
        launch := { primedLaunch with priority := priority }, teams := [{ Team.fresh 1 with queued := true, aged := aged }] }]
      nstime := at' }

/-- The conditions on its team's aging. -/
def ages (s : State) : Option (Bool × Bool × Bool) :=
  (s.node 0 0).bind fun n => (n.teams[0]?).bind fun t =>
    if t.queued then some (decide (n.launch.priority + t.aged < 19), decide (t.aged < 4), decide (t.since + 10000000 * (t.aged + 1) ≤ s.nstime)) else none

/-- A one-member team that has not run is placed on a context. -/
def places (s : State) (k : CtxKey) : Bool :=
  let u := s.ageAll.decidePreempt
  (u.partOfCore k.core.val).any fun q =>
    match (u.scanPart q [k]).1 with
    | none => false
    | some (w, allowed) =>
      match u.plan w.node w.ix w.team allowed (some [k]) with
      | some [(j, _)] => j.keep.isNone
      | _ => false

/-- `base` with time slices, at a time, with or without another team of the same level waiting. -/
def sliced (at' : Nat) (rival : Bool) : State :=
  let s := base.mapNode 0 0 fun n => { n with launch := { n.launch with slice := true } }
  { s with
      nodes := s.nodes ++ if rival then [{ primedNode with id := 1, teams := [{ Team.fresh 1 with queued := true }] }] else []
      nstime := at' }

/-- Whether its slice is over, all its members idle, and the other team would replace it. -/
def sliceOf (s : State) : Option (Bool × Bool × Bool) :=
  let u := s.ageAll
  match u.node 0 0, u.team 0 0 0, u.residentTeam 0 0 0 with
  | some n, some t, some r =>
    if n.launch.slice ∧ t.preempt = none then some (decide (t.sliceAt + u.quantum 0 ≤ s.nstime), u.allIdle t, u.outbid r) else none
  | _, _, _ => none

/-- `base` with small windows, whose team's pre-emption was decided at 0, at a time. -/
def leaving (at' : Nat) : State :=
  let s := base.mapCtx fun c => { c with
    win := ⟨0, 0, 0, 0, 0, 32768⟩, launch := { c.launch with rsBytes := 0, spBytes := 0, saveArea := 0x100000 } }
  { s.mapTeam 0 0 0 fun t => { t with preempt := some 0 } with nstime := at' }

theorem witness_SchedulingSteps :
    ((ended.node 0 0).any (·.done) = true ∧ ended.partPerformed 0 = true ∧ ended.groups = []) ∧
    (ages (waiting 10000000 0 0) = some (true, true, true) ∧ ages (waiting 9999999 0 0) = some (true, true, false) ∧
     ages (waiting 10000000 19 0) = some (false, true, true) ∧ ages (waiting 50000000 0 4) = some (true, false, true)) ∧
    places (waiting 0 0 0) ⟨7, 3⟩ = true ∧
    (sliceOf (sliced 4000000 true) = some (true, false, true) ∧ sliceOf (sliced 4000000 false) = some (true, false, false) ∧
     sliceOf (sliced 3999999 true) = some (false, false, true) ∧
     sliceOf ((sliced 3999999 true).mapC fun c => { c with yielding := true }) = some (false, true, true)) ∧
    ((base.team 0 0 0).any (fun t => t.preempt.isNone) = true ∧ ((leaving 19999).team 0 0 0).any (fun t => decide (t.preempt = some 0)) = true) ∧
    (let s := leaving 20000
     let w := (s.mapTeam 0 0 0 fun t => { t with stopping := true }).on primedKey State.quiesce
     s.ctx.key = primedKey ∧ s.ctx.live = true ∧ s.others = [] ∧ (s.team 0 0 0).any (fun t => s.saveDue t && decide (t.keys = [primedKey])) = true ∧
     w.readyToSave primedKey = true ∧
     (w.focus primedKey).any (fun v => match v.writables v.ctx.ident.part v.saveImage with | .ok _ => true | _ => false) = true) := by
  decide +kernel

theorem witness_SchedulingSteps_power :
    (let s : State := { base with nstime := 1000000 }
     s.nstime < s.mg.leaseUntil ∧ s.mg.leaseUntil ≤ s.nstime + 4000000 ∧ s.mg.deadDies.contains s.mg.lease = false) ∧
    (let s : State := { base with nstime := 5000000, mg := { base.mg with deadDies := [0] } }
     s.mg.leaseUntil ≤ s.nstime ∧ s.mg.deadDies.contains 1 = false ∧ ∀ e < 1, s.mg.deadDies.contains e = true) ∧
    (let s := base.trigger 0
     s.evalReady 0 = true ∧ s.mg.pendingVersions[2] = none ∧ s.pw.shed = false ∧
     (match s.residents with
      | [r] => decide (r.part = 0) && (grantsFrom r.floor).any fun h => s.fits ((s.bounds 0).raise r h)
      | _ => false) = true) ∧ base.evalReady 0 = false ∧
    (let s (t : Nat) : State := { base.mapIsland 95 fun i => { i with lock := some 7, restUntil := some 9 } with nstime := t }
     ((s 0).island 95).lock = some 7 ∧ Table.wf Island.init (s 0).pw.islands = true ∧ 7 + 1000000 ≤ (s 1000007).nstime ∧
     (s 1000006).nstime < 7 + 1000000 ∧ ((s 9).island 95).restUntil = some 9 ∧ 9 ≤ (s 9).nstime) ∧
    (let s : State := { base with nstime := 1000000 }
     let t := s.starveFor 0 5
     s.refillDue 5 = true ∧ (s.parts.map (·.p)).Nodup ∧ Table.wf Bucket.zero s.pw.buckets = true ∧ (s.bucket 0 5).starved = false ∧
     t.refillDue 5 = true ∧ (t.parts.map (·.p)).Nodup ∧ Table.wf Bucket.zero t.pw.buckets = true ∧
     (t.parts.filter fun q => (t.bucket q.p 5).starved).length = 1 ∧ base.refillDue 5 = false) ∧
    (let s := (base.mapC fun c => { c with trapvec := 4 }).mapCtx fun c => { c with pend := [⟨1, 2, 3⟩] }
     s.ctx.key = primedKey ∧ s.ctx.live = true ∧ s.trapDue = true ∧ s.handler ≠ 0 ∧ s.ctx.pend = ⟨1, 2, 3⟩ :: []) := by
  decide +kernel

/-- A copy command that fills two bytes, and one that copies them. -/
def fills : CopyCmd := { copied with done := false, kind := .fill 0xAB, run := 2, rows := 1 }
def copies : CopyCmd := { fills with kind := .copy .none none false, srcOff := 1024 }

/-- What holds a command back. -/
def owesNothing (s : State) (q : CopyCmd) : Bool :=
  decide (s.command .ld 1 = some q) && decide (q.dep = .clean) && !q.owes && !q.heldBytes && !q.due.any (0 < ·)

/-- The bytes of a faulted command's destination can be written. -/
def mayFault (s : State) (q : CopyCmd) : Bool :=
  let b := s.freeBytes (s.dstPlaces q).length
  s.mayFault .ld q && (b.2.putPlaces q (s.dstPlaces q) b.1).isSome

theorem witness_MemorySteps_copies :
    (base.ctx.key = primedKey ∧ base.ctx.live = true ∧ base.command .ld 1 = none) ∧
    (let s := flying [fills] base
     owesNothing s fills = true ∧ s.copyGoes fills = true ∧ s.copyParked fills = false ∧
     (match s.moved .ld fills with
      | some (d, u) => !fills.mismatch d && decide ((u.cp .ld).flight = [fills]) && decide ((u.cp .ld).doneseq + 1 = 1)
      | none => false) = true ∧ s.ms.parked = []) ∧
    (let s := (flying [copies] base).mapMs fun m => { m with poisoned := [(base.rsAddr 1024) / 128] }
     owesNothing s copies = true ∧ s.copyGoes copies = false ∧ mayFault s copies = true ∧ (s.strictPoison copies).isSome = true ∧
     copies.hasSource = true) ∧
    (let q := { copies with seq := 2 }
     let s := flying [{ fills with seq := 1 }, q] base
     s.command .ld 2 = some q ∧ s.mayFault .ld q = false) := by
  decide +kernel

/-- `base` with a drain that waits for its verdict, or for Nougat. -/
def draining (d : Drain) (dispute : Option Dispute) : State :=
  (base.mapMx fun m => { m with drain := some d, dispute := dispute }).mapMg fun m => { m with nougat := [primedKey] }

/-- The drain of a one-element tile whose results differ. -/
def differs : Drain := { drained with vd := BitVec.ofNat 64 (tile 1 1 1 16 0), shadow := [⟨0, 8, 2⟩], shadowSig := 2 }

/-- The conditions of a ruling on it. -/
def ruled (s : State) : Bool :=
  s.nougatTurn && s.ctx.mx.opRows.isEmpty && s.tablesOk && s.ctx.ver.isNone && s.ctx.spec.isNone &&
  s.ctx.mx.drain.any (fun d => !d.forward) && decide (s.ctx.mx.dispute = some .drain)

theorem witness_MemorySteps_drains :
    (let s := draining drained none
     s.ctx.mx.drain = some drained ∧ s.ctx.mx.dispute = none ∧ s.agrees drained = true ∧
     drained.forward = false ∧ s.ctx.mx.opRows = [] ∧ s.ctx.ver = none ∧ s.ctx.spec = none) ∧
    (let d := { drained with forward := true }
     let s := draining d none
     s.ctx.mx.drain = some d ∧ s.ctx.mx.dispute = none ∧ s.agrees d = true ∧ d.forward = true ∧ d.rest = []) ∧
    ((draining differs none).ctx.mx.drain = some differs ∧ (draining differs none).ctx.mx.dispute = none ∧
     (draining differs none).agrees differs = false) ∧
    (ruled (draining drained (some .drain)) = true ∧ (draining drained (some .drain)).ruling = .agree) ∧
    (let s := disagreeing 0 (owned (draining differs (some .drain)))
     ruled s = true ∧ s.ruling = .faulty false) ∧
    (let s := (draining differs (some .drain)).mapMg fun m => { m with nougatBad := [0] }
     ruled s = true ∧ s.ruling = .failed) ∧
    base.nougatTurn = false := by
  decide +kernel

/-- `base` with it parked. -/
def parkedOn (kind : ReqKind) : State := base.mapMs fun m => { m with parked := [asks kind] }

/-- The one request of the fault queue that it is in. -/
def alone (s : State) (kind : ReqKind) : Bool := decide (s.queueAt (asks kind).die (asks kind).slice = [asks kind])

/-- A packet of a copy command that adds, and the command. -/
def adding : CopyCmd := { copies with kind := .copy .addInt none false, esz := 4, run := 4 }
def addPacket : RedPacket :=
  { collective := 0, step := (adding.tag primedKey .ld).1, source := (adding.tag primedKey .ld).2, red := .addInt, esz := 4
    cells := (List.range 4).map fun i => (base.rsAddr i, BitVec.ofNat 8 i) }

/-- Member 0 of `n` with its exchange moving, and a packet that member 1 of another package sends. -/
def movesOf (n : Nat) : State := (laidOutOf n).mapColl fun q => { q with exchanges := [{ exchangeOf n with moving := true }] }
def moves : State := movesOf 1
def sumPacket : RedPacket :=
  { collective := 1, step := (exchangeOf 2).step, source := 1, red := .addInt, esz := 4
    cells := (List.range 4).map fun i => (spPa 0 0x3000 + i, 0) }

theorem witness_MemorySteps_homes :
    base.pendingAt 9 = false ∧ (base.mapMs fun m => { m with pending := [9] }).pendingAt 9 = true ∧
    (let m : Marker := { serial := 3, core := 0, wide := true, cls := 15, die := 5, slice := 15 }
     m ∈ (base.mapMs fun q => { q with markers := [m] }).ms.markers ∧ base.markerDue m = true) ∧
    base.queueAt 5 15 = [] ∧ base.lapsedAt 5 15 = [] ∧
    (let k : ReqKind := .store [(0x10000, 7)]
     let s := parkedOn k
     alone s k = true ∧ s.stillBad (asks k) = false ∧ s.noRoom (asks k) = false ∧
     alone (poisoned true s) k = true ∧ (poisoned true s).stillBad (asks k) = true ∧
     (({ s with nstime := 1000001 } : State).lapsedAt (asks k).die (asks k).slice) = [asks k] ∧ k.posted = true ∧ (asks k).gone = false ∧ (asks k).key = s.ctx.key) ∧
    (let k : ReqKind := .load 8 false
     alone (parkedOn k) k = true ∧ (parkedOn k).stillBad (asks k) = false ∧ (parkedOn k).noRoom (asks k) = false ∧ (asks k).gone = false ∧
     (asks k).key = primedKey ∧ base.ctx.key = primedKey ∧ base.ctx.live = true) ∧
    (base.canRetire 5 15 0 = true ∧ base.canRetire 5 15 15 = false) ∧
    (addPacket.cells ≠ [] ∧ addPacket.collective = 0 ∧ base.packetCommand addPacket = none) ∧
    (let s := flying [adding] base
     let t := s.mapMs fun m => { m with dups := (s.units adding).map fun u => s.copyEntry adding .ld addPacket.addr u.packet }
     t.packetCommand addPacket = some (primedKey, .ld, adding) ∧
     (t.units adding).any (fun u => decide (u.dst.map (·.pa) = addPacket.cells.map (·.1))) = true ∧
     ∀ u ∈ t.units adding, t.came (t.copyEntry adding .ld addPacket.addr u.packet) = true) ∧
    (let s := movesOf 2
     let e := s.dupEntry 1 sumPacket.step 1 sumPacket.addr
     sumPacket.cells ≠ [] ∧ sumPacket.collective ≠ 0 ∧ s.came e = false ∧ tableFull s.ms.dups e = false ∧
     (s.packetMember sumPacket).any (fun q => decide (q.1 = primedKey)) = true ∧
     (s.mapMs fun m => { m with dups := [e] }).came e = true) ∧
    (base.unitOf 0x10000).2 < 6 ∧ (255 : BitVec 8) ≠ 0 := by
  decide +kernel

/-- A package in which a group stands alone, with what waits at die 5 for its fold. -/
def atDie5 (g : Group) (v : Vote) : State := { base with groups := [{ g with folds := [{ voted none with atDie := [v] }] }] }

/-- A vote of member 1 at die 5. -/
def vote (site : Site) : Vote := { member := 1, die := 5, val := true, site := site, hash := 0 }

/-- The member in its fold, whose package knows the fold with a result or none, after some time. -/
def waitsFor (res : Option (Bool × Nat)) (t : Nat) : State :=
  { infold (foldWith none) (memberOf (group1 2 [] [voted res])) with nstime := t }

/-- It has speculated with a guess. -/
def speculates (guess : Bool) : State :=
  let f : Fold := { foldWith none with guess := some guess }
  let s := infold f (waitsFor (some (true, 0)) 0)
  s.mapCtx fun c => { c with spec := some Epoch.fresh }

/-- The exchange's mover. -/
def mover : Mover := { key := primedKey, part := 0, ix := 0, x := { exchange with moving := true } }

theorem witness_GroupSteps :
    base.mg.pkgid = 0xFFFF ∧ base.votesAt 5 = [] ∧
    (let g := group1 2 [] []
     (atDie5 g (vote 0)).votesAt 5 = [(0, 1, 1, vote 0)] ∧ g.first = true ∧ (voted none).result = none ∧ (voted none).site = (vote 0).site ∧
     (voted none).hash = (vote 0).hash ∧
     g.badShape = none ∧ (let v := { vote 0 with hash := 9 }
       (atDie5 g v).votesAt 5 = [(0, 1, 1, v)] ∧ (voted none).site = v.site ∧ (voted none).hash ≠ v.hash) ∧
     (atDie5 g (vote 4)).votesAt 5 = [(0, 1, 1, vote 4)] ∧ (voted none).site ≠ (vote 4).site ∧ (voted none).votes ≠ [] ∧ g.badSite = none) := by
  decide +kernel

theorem witness_GroupSteps_members :
    (base.groups.all (fun g => decide (g.id ≠ 1)) = true ∧
     (let g := group1 2 [] [voted none]
      g.id = 1 ∧ (1 : BitVec 16) ≠ 0 ∧ 1 < g.size ∧ g.departed.contains 1 = false ∧ g.first = true ∧ (voted none).result = none ∧
      g.badSite = none ∧ g.badShape = none ∧ g.size ≤ (voted none).covered (1 :: g.departed)) ∧ (group1 2 [] []).folds = []) ∧
    (member.ctx.key = primedKey ∧ member.ctx.live = true ∧ member.foldReady = none ∧ member.foldLapsed = none ∧ member.exchangeLapsed = none) ∧
    ((waitsFor (some (true, 0)) 0).foldReady = some (foldWith none, true, 0) ∧ (waitsFor (some (true, 0)) 0).ctx.spec = none) ∧
    ((speculates true).foldReady = some ({ foldWith none with guess := some true }, true, 0) ∧ (speculates true).ctx.spec.isSome = true) ∧
    ((speculates false).foldReady = some ({ foldWith none with guess := some false }, true, 0) ∧ (speculates false).ctx.spec.isSome = true) ∧
    ((waitsFor none 1000000000000).foldLapsed = some (foldWith none) ∧ (waitsFor none 1000000000000).ctx.spec = none) := by
  decide +kernel

theorem witness_GroupSteps_exchanges :
    base.moverList 1 1 = [] ∧
    (moves.moverList 1 1 = [mover] ∧ (∀ g ∈ moves.groups, g.ended = []) ∧ moves.exchangeFailure mover = none ∧
     mover.x.mates mover.ix = [mover.ix] ∧ moves.memberHere mover.part 1 mover.ix = true ∧ moves.strictSource mover = none ∧
     mover.x.block = none ∧ mover.x.due.any (0 < ·) = false ∧ moves.moverParked mover = false ∧
     (moves.contexts.map (·.key)).Nodup ∧
     (let u := moves.on mover.key fun t => t.sendBlock mover
      (u.moverNow 1 1 mover).any (fun m' => (u.focus mover.key).any fun w => (w.doExchange m').isSome) = true)) ∧
    (let s : State := { moves with groups := [group1 1 [0] []] }
     s.moverList 1 1 = [mover] ∧ (s.exchangeFailure mover).isSome = true) ∧
    (let s := moves.mapMs fun m => { m with poisoned := [spPa 0 0x2000 / 128] }
     s.moverList 1 1 = [mover] ∧ s.exchangeFailure mover = none ∧ mover.x.block = none ∧ (s.strictSource mover).isSome = true) ∧
    ((moves.ctx.coll.exchanges.find? (·.moving)).any (fun x => decide (x.hash ≠ x.hash + 1)) = true ∧ moves.groups = [group1 1 [] []] ∧
     moves.ctx.memberIx < 1 ∧ moves.others = [] ∧ moves.ctx.coll.fold = none ∧ moves.ctx.pend.length < 8) := by
  decide +kernel

/-- A direction of a link, and `base` with it changed. -/
def someLink : LinkDir := ⟨6, true⟩
def linked (f : LinkSt → LinkSt) : State := base.mapLink someLink f

/-- A flit of 64 bytes. -/
def flit (ordered : Bool) : Transit := ⟨ordered, List.replicate 64 7, none⟩

/-- A package with an id, a group and a route to a peer, to which a packet has been sent at time 0 and from which one has come. -/
def peered (t : Nat) : State :=
  let s := base.mapPeer 7 fun q => { q with nextSend := 1, nextRecv := 1, unacked := [(0, 0, .departed 1 0 false)] }
  { s with nstime := t, mg := { s.mg with pkgid := 0, routes := [⟨7, 3⟩] }, groups := [group1 2 [] []] }

theorem witness_ManagementSteps_links :
    (let s := linked fun f => { f with nextSend := 4095, nextRecv := 4095 }
     let f := s.link someLink
     f.up = true ∧ s.linkFlows someLink = true ∧ f.nextSend = 4095 ∧ f.nextRecv = 4095 ∧ f.wanted = [] ∧ f.early = [] ∧ f.heldFlits = [] ∧
     f.replay = [] ∧ (flit true).payload.length = 64) ∧
    (let f := (linked id).link someLink
     f.got 4 = false ∧ flitGood ⟨4, (flit true).payload, flitCrc 4 (flit true).payload + 1⟩ = false ∧ f.wanted = []) ∧
    (let f := (linked fun f => { f with wanted := [(4, 1)], replay := [(4, flit true)] }).link someLink
     f.up = true ∧ (f.wanted.any fun w => decide (w.1 = 4)) = true ∧ (f.replay.any fun e => decide (e.1 = 4)) = true ∧ 2 ≤ f.spares ∧
     f.unsent (dieTo someLink) = [{ flit true with dest := some 5 }]) ∧
    (((linked id).mapLink ⟨6, true⟩ LinkSt.down).mapLink ⟨6, false⟩ LinkSt.down).firstHop (dieFrom someLink) 5 = some ⟨1, false⟩ := by
  decide +kernel

theorem witness_ManagementSteps_scaleout :
    base.mg.pkgid = 0xFFFF ∧
    ((peered 0).mg.pkgid ≠ 0xFFFF ∧ (1 : BitVec 32) = ((peered 0).peer 7).nextRecv ∧ (0 : BitVec 32) ≠ ((peered 0).peer 7).nextRecv ∧
     reached ((peered 0).peer 7).nextRecv (0 + 1) = true ∧ (peered 0).groups = [group1 2 [] []] ∧ (group1 2 [] []).id ≠ 0 ∧
     1 < (group1 2 [] []).size ∧ (∀ g ∈ (peered 0).groups, g.id ≠ 2) ∧ (peered 0).net.absent = []) ∧
    (peered 20000).resendDue 7 0 = true ∧ (peered 20000).routeTo 7 = some 3 ∧ (peered 20000).mg.deadDies.contains 1 = false ∧
    (0, 0, .departed 1 0 false) ∈ ((peered 20000).peer 7).unacked := by
  decide +kernel

theorem witness_ManagementSteps :
    Table.wf 0 base.mg.temps = true ∧ Table.wf 0 base.mg.volts = true ∧ (115 : Int) ≤ 115 ∧
    (base.mapMg fun m => { m with temps := Table.set 0 m.temps 3 114 }).hottest 0 < 115 ∧ (1800 : Nat) ≤ 1800 ∧ (5000 : Nat) ≤ 5000 ∧
    base.mg.update = .idle ∧ (∀ u, (base.mapMg fun m => { m with update := u }).mg.update = u) ∧
    10 ≤ (base.mapMg fun m => { m with missed := 10 }).mg.missed ∧ base.mg.missed < 10 ∧ base.mg.frozen = false ∧
    (base.mapMg fun m => { m with frozen := true }).mg.frozen = true ∧ State.reset.parts = [] ∧ base.parts ≠ [] := by
  refine ⟨by decide +kernel, by decide +kernel, by decide, by decide +kernel, by decide, by decide, by decide +kernel, fun _ => rfl,
    by decide +kernel, by decide +kernel, by decide +kernel, by decide +kernel, by decide +kernel, by decide +kernel⟩

/-! ## Witnesses: encoding, steps, invariant -/

/-- Fields of E1 at their greatest. -/
def wide : VExt := { pm := 15, pe := true, pz := true, vc := 31, rm := 7, nf := true, sat := true, bs := true, imm := 0x7FF }

theorem witness_DecodeOfEncode :
    (Instr.addi ⟨true, true, true, true⟩ 63 63 0x80).wellFormed = true ∧ (Instr.addi ⟨true, true, true, true⟩ 63 63 0x80).home = some .c ∧
    (Instr.xnop .none).wellFormed = true ∧ (Instr.xnop .none).home = some .ld ∧
    (Instr.mchb .none 31 1 63).wellFormed = true ∧ (Instr.mchb .none 31 1 63).home = some .mx ∧
    (Instr.vnop .none).wellFormed = true ∧ (Instr.vnop .none).home = some .vx := by decide +kernel

/-- A primed state whose next instruction has these words. -/
def running (t : Stream) (w : List Nat) : State := State.prime .reset t (w.map (leBytes 4)).flatten

/-- Word `n` of the instruction of stream `t` is read, and is `w`. -/
def gets (t : Stream) (s : State) (n w : Nat) : Bool :=
  match s.fetchWord t (BitVec.ofNat 64 (0x10000 + 4 * n)) with
  | .got v _ => decide (v = w)
  | _ => false

/-- The unit's next slot goes to stream `t` of the primed context, and the state in which it fetches meets a condition. -/
def issues (s : State) (t : Stream) (f : State → Bool) : Bool :=
  let n := ({ s with agenda := [] } : State).noteUnit exec 0 t
  decide (s.agenda = [.run primedKey t]) && !s.mg.frozen && !s.mg.poweredOff && decide ((n.order 0 t).head? = some primedKey) &&
  (n.focus primedKey).any fun v =>
    let u : State := { v with stream := t }
    u.mayRun t && !u.trapDue && f (u.prune t (v.pcOf t))

theorem witness_StepRunsTheDecodedInstruction :
    issues (running .c [0x01A00600]) .c (fun u =>
      gets .c u 0 0x01A00600 && decide (Sys2Proof.fld 0x01A00600 26 2 = 0) && (decode .c 0x01A00600 0 0).isOk) = true ∧
    issues (running .c [0x04F14078, 0x00123456]) .c (fun u =>
      gets .c u 0 0x04F14078 && gets .c u 1 0x00123456 && decide (Sys2Proof.fld 0x04F14078 26 2 = 1) && (decode .c 0x04F14078 0x00123456 0).isOk) = true ∧
    issues (running .c [0x08F30010, 0x08765432, 0x0FEDCBA9]) .c (fun u =>
      gets .c u 0 0x08F30010 && gets .c u 1 0x08765432 && gets .c u 2 0x0FEDCBA9 && decide (Sys2Proof.fld 0x08F30010 26 2 = 2) &&
        (decode .c 0x08F30010 0x08765432 0x0FEDCBA9).isOk) = true ∧
    issues (running .vx [0xF0000000]) .vx (fun u => gets .vx u 0 0xF0000000 && (decode .vx 0xF0000000 0 0).isOk) = true ∧
    ((running .c []).users 0).length < 2 ∧
    issues (running .c [0x01A00600]) .c (fun u =>
      match u.fetchPlace (u.pcOf .c) with
      | (.ok p, x) => ((x.core x.coreNo).icache.find? fun e => e.1 = p.pa).isNone && (x.fetchedAt .c (u.pcOf .c)).isNone &&
          !x.fetchSent .c (u.pcOf .c) && x.hasTokens p.pa 4 && !x.mustPark p 4 &&
          !x.poisonedAt p.pa 4 && x.ms.red.isEmpty && x.ms.replicas.isEmpty && x.ms.sealed.isEmpty && decide (p.key = 0)
      | _ => false) = true := by
  decide +kernel

theorem witness_TablesStayCanonical :
    base.tablesOk = true ∧ (match step (running .c [0x01A00600]) with | .next t => t.tablesOk | _ => false) = true := by
  decide +kernel

/-! ## Decoding: what is refused (R24, R25) -/

/-- The decoder's subcode and word. -/
def refusedAs (t : Stream) (l : List Nat) : Option Bad :=
  match decodeList t l with
  | .ok _ => none
  | .error b => some b

theorem test_decode_refuses :
    refusedAs .c [0x0C000000] = some ⟨.lenbad, 0⟩ ∧ refusedAs .c [0x04200000, 0] = some ⟨.lenbad, 0⟩ ∧
    refusedAs .c [0x03900000] = some ⟨.opcode, 0⟩ ∧ refusedAs .mx [0x00900000] = some ⟨.opcode, 0⟩ ∧
    refusedAs .ld [0x00700000] = some ⟨.opcode, 0⟩ ∧ refusedAs .c [0x00400003] = some ⟨.func, 0⟩ ∧
    refusedAs .ld [0x00000004] = some ⟨.func, 0⟩ ∧ refusedAs .mx [0x00000002] = some ⟨.func, 0⟩ ∧
    refusedAs .ld [0x1421FD23, 0x11481000] = some ⟨.extsync, 1⟩ ∧ refusedAs .c [0x00700004] = some ⟨.mbz, 0⟩ ∧
    refusedAs .c [0x01106000] = some ⟨.operand, 0⟩ ∧ refusedAs .mx [0x00100000] = some ⟨.operand, 0⟩ ∧
    refusedAs .c [0x06D00A04, 0x0B800000] = some ⟨.func, 0⟩ ∧ refusedAs .ld [0x0421FD23, 0x01490000 + 6 * 0x8000] = some ⟨.operand, 1⟩ := by
  decide +kernel

/-! ## Well-formed instructions: each check refuses a term -/

theorem test_wellFormed_needs_a_stream : (Instr.logMirror).wellFormed = false := by decide +kernel
theorem test_wellFormed_checks_operands :
    (Instr.wfe .none 0).wellFormed = false ∧ (Instr.shli .none 1 2 64).wellFormed = false ∧ (Instr.mchb .none 30 3 0).wellFormed = false ∧
    (Instr.mzro .none 0 5).wellFormed = false ∧ (Instr.wfe .none 1).wellFormed = true ∧ (Instr.shli .none 1 2 63).wellFormed = true := by
  decide +kernel
theorem test_wellFormed_checks_unused_fields :
    (Instr.fadd .none 1 2 3 (some { pm := 1, pe := false, pz := false, vc := 0, rm := 0, nf := false, sat := false, bs := false, imm := 0 })).wellFormed = false ∧
    (Instr.iadd .none 1 2 3 (some { pm := 0, pe := false, pz := false, vc := 0, rm := 1, nf := false, sat := false, bs := false, imm := 0 })).wellFormed = false ∧
    (Instr.fadd .none 1 2 9 (some { pm := 0, pe := false, pz := false, vc := 0, rm := 0, nf := false, sat := false, bs := true, imm := 0 })).wellFormed = false ∧
    (Instr.fadd .none 1 2 7 (some { pm := 0, pe := false, pz := false, vc := 0, rm := 0, nf := false, sat := false, bs := true, imm := 0 })).wellFormed = true := by
  decide +kernel

/-! ## One instruction each, against results worked out by hand from the tables of its rule -/

/-- What holds after an instruction. -/
def after (s : State) (i : Instr) (f : State → Bool) : Bool :=
  match exec i s with
  | .next t => f t
  | _ => false

/-- An instruction leaves `v` in x5. -/
def gives5 (l : List (XReg × Nat)) (i : Instr) (v : Nat) : Bool := after (regs l) i fun t => decide (t.x 5 = BitVec.ofNat 64 v)

theorem test_add_wraps : gives5 [(1, 2 ^ 64 - 1), (2, 2)] (.add .none 5 1 2) 1 = true := by decide +kernel
theorem test_sub_order : gives5 [(1, 3), (2, 5)] (.sub .none 5 1 2) (2 ^ 64 - 2) = true := by decide +kernel
theorem test_x0_discards : after (regs [(1, 9)]) (.mov .none 0 1) (fun t => decide (t.x 0 = 0) && decide (t.pcOf .c = 0x10004)) = true := by
  decide +kernel
theorem test_sra_takes_six_bits : gives5 [(1, 2 ^ 63), (2, 65)] (.sra .none 5 1 2) (2 ^ 63 + 2 ^ 62) = true := by decide +kernel
theorem test_mulh_signed : gives5 [(1, 2 ^ 64 - 1), (2, 2)] (.mulh .none 5 1 2) (2 ^ 64 - 1) = true := by decide +kernel
theorem test_mulhu_unsigned : gives5 [(1, 2 ^ 64 - 1), (2, 2)] (.mulhu .none 5 1 2) 1 = true := by decide +kernel
theorem test_div_truncates : gives5 [(1, 2 ^ 64 - 7), (2, 2)] (.div .none 5 1 2) (2 ^ 64 - 3) = true := by decide +kernel
theorem test_div_corners :
    gives5 [(1, 2 ^ 63), (2, 2 ^ 64 - 1)] (.div .none 5 1 2) (2 ^ 63) = true ∧ gives5 [(1, 7)] (.div .none 5 1 2) (2 ^ 64 - 1) = true := by
  decide +kernel
theorem test_rem_sign_and_zero :
    gives5 [(1, 2 ^ 64 - 7), (2, 2)] (.rem .none 5 1 2) (2 ^ 64 - 1) = true ∧ gives5 [(1, 7)] (.rem .none 5 1 2) 7 = true := by decide +kernel
theorem test_clz_ctz : gives5 [] (.clz .none 5 1) 64 = true ∧ gives5 [(1, 8)] (.ctz .none 5 1) 3 = true := by decide +kernel
theorem test_addi_extends : gives5 [(1, 5)] (.addi .none 5 1 0xFE) 3 = true := by decide +kernel
theorem test_cmp_fills_the_predicate :
    after (regs [(1, 2 ^ 64 - 1)]) (.cmp .none 3 .lt 1 2) (fun t => decide (t.ctx.p[3] = BitVec.ofNat 1024 (2 ^ 1024 - 1))) = true := by decide +kernel
theorem test_branch_back : after base (.br .none 0x7FFE) (fun t => decide (t.pcOf .c = 0xFFF8)) = true := by decide +kernel
theorem test_call_pushes : after base (.call .none 4) (fun t => decide (t.pcOf .c = 0x10010) && decide (t.ctx.c.stack = [0x10004])) = true := by
  decide +kernel
theorem test_store_is_little_endian :
    after (regs [(1, spAt 8), (2, 0x11223344)]) (.st .none 2 1 0 .default .w)
      (fun t => decide (t.mem.getBytes (spPa 0 8) 4 = [0x44, 0x33, 0x22, 0x11])) = true := by decide +kernel
theorem test_lds_extends :
    after { regs [(1, spAt 0)] with mem := base.mem.setLe (spPa 0 0) 1 0x80 } (.lds .none 5 1 0 .default .b)
      (fun t => decide (t.x 5 = BitVec.ofNat 64 (2 ^ 64 - 128))) = true := by decide +kernel
theorem test_amo_returns_the_old_value :
    after { regs [(1, spAt 0), (2, 5)] with mem := base.mem.setLe (spPa 0 0) 4 0xFFFFFFFE } (.amo .none .add false 0 .core true false false 5 1 2)
      (fun t => decide (t.x 5 = 0xFFFFFFFE) && decide (t.mem.getLe (spPa 0 0) 4 = 3)) = true := by decide +kernel
theorem test_misaligned_load_traps :
    after ((regs [(1, spAt 2)]).mapC fun c => { c with trapvec := 0x20000 }) (.ld .none 5 1 0 .default .w)
      (fun t => decide (t.ctx.c.trapval = BitVec.ofNat 64 (spAt 2)) && decide (t.pcOf .c = 0x20000) && decide (t.x 5 = 0)) = true := by
  decide +kernel
theorem test_trap_enters_the_handler :
    after (base.mapC fun c => { c with trapvec := 0x20000 }) (.trap .none 0x123)
      (fun t => decide (t.pcOf .c = 0x20000) && decide (t.ctx.c.trappc = 0x10000) && decide (t.ctx.c.trapval = 0x123)) = true := by decide +kernel
theorem test_mfsr_evtmask : after base (.mfsr .none 5 0x012) (fun t => decide (t.x 5 = 0x3F)) = true := by decide +kernel
theorem test_barrier_flips :
    after ((barred 0 7 0).setX 1 7) (.bexp .none 0 1)
      (fun t => let d := t.mem.barrier (spPa 0 0); decide (d.flips = 1) && decide (d.arrived = 0) && d.flags.testBit 0) = true := by decide +kernel
/-- R210: the instruction is stopped with no effect, TRAPVAL names the register, and the core is marked. -/
theorem test_residue_stops_the_add :
    after ((upsetX (regs [(3, 9)])).mapC fun c => { c with trapvec := 0x20000 }) (.add .none 3 1 3)
      (fun u => decide (u.x 3 = 9) && decide (u.ctx.c.trapval = 0x8000000000000003) && decide (u.ctx.c.trapcause &&& 0xFF = 0x0D) &&
        u.here.degraded) = true := by decide +kernel

/-- R206: a slot that neither store can read is POISON at the drain, with TRAPVAL band 30, row 0, column 0. -/
theorem test_drain_of_a_lost_slot :
    after (unreadable true true (tiles 0xA300 [(1, tile 10 32 64 128 0)])) (.mdrn .none 1 30 2 false)
      (fun u => decide (((u.str .mx).fault.map fun f => (f.1, f.2.1)) = some (0x0C, 30))) = true := by decide +kernel

theorem test_fadd_rounds_once :
    after { views 1 [(1, vec 11 1 0), (2, vec 11 1 4), (3, vec 11 1 8)] with mem := (base.mem.setLe (base.rsAddr 4) 4 0x3F800000).setLe (base.rsAddr 8) 4 0x40000000 }
      (.fadd .none 1 2 3 none) (fun t => decide (t.mem.getLe (t.rsAddr 0) 4 = 0x40400000)) = true := by decide +kernel
theorem test_iadds_clamps :
    after { views 1 [(1, vec 0 1 0), (2, vec 0 1 4), (3, vec 0 1 8)] with mem := (base.mem.setLe (base.rsAddr 4) 1 100).setLe (base.rsAddr 8) 1 100 }
      (.iadds .none 1 2 3 none) (fun t => decide (t.mem.getLe (t.rsAddr 0) 1 = 127)) = true := by decide +kernel
theorem test_mma_adds_the_product :
    after { tiles 0 [(1, tile 0 1 1 16 0), (2, tile 0 1 1 16 64)] with mem := (base.mem.setLe (base.rsAddr 0) 1 3).setLe (base.rsAddr 64) 1 0xFE }
      (.mma .none 1 2 false false false) (fun t => decide ((t.here.main.slot (slotKey 30 0 0)).s = -6 * 2 ^ 48)) = true := by decide +kernel
/-- R372: a stuck digit of weight 2 in the shadow array's adder of output element (1, 2) leaves the true sum plus 2 in its slot. -/
theorem test_a_stuck_digit_adds_its_weight :
    let s := tiles 0 [(1, tile 0 2 1 16 0), (2, tile 0 1 3 16 64)]
    let s : State := { s with mem := (base.mem.setLe (base.rsAddr 16) 1 3).setLe (base.rsAddr 66) 1 2 }
    after (s.mapCore 0 fun c => { c with stuck := [⟨true, 1, 2, 2 * 2 ^ 48⟩] }) (.mma .none 1 2 false false false)
      (fun t => decide ((t.here.main.slot (slotKey 30 1 2)).s = 6 * 2 ^ 48) && decide ((t.here.shadow.slot (slotKey 30 1 2)).s = 8 * 2 ^ 48)) = true := by
  decide +kernel
theorem test_copy_moves_bytes :
    after (((queued .ld 0 0).mapCp .ld fun c => { c with flight := [{ copied with done := false, kind := .fill 0xAB, run := 2, rows := 1 }], issued := 1 }))
      (.copyDone primedKey .ld 1) (fun t => decide (t.mem.getLe (t.rsAddr 0) 2 = 0xABAB)) = true := by decide +kernel
theorem test_launch_creates_its_node :
    after (offering (ring false) (launch 5 1 1)) (.evLaunch (ring false) (launch 5 1 1))
      (fun t => (t.node 0 5).any fun n => decide (n.pending = 1) && !n.admitted) = true := by decide +kernel

/-! ## AES-256-XTS (R225), against the published vectors of the two standards -/

/-- FIPS-197, C.3: a block under a key of 256 bits. -/
theorem test_aes_256_of_fips_197 :
    aesEncrypt aesBox (aesKeys aesBox (List.range 32)) ((List.range 16).map (17 * ·)) =
      [0x8E, 0xA2, 0xB7, 0xCA, 0x51, 0x67, 0x45, 0xBF, 0xEA, 0xFC, 0x49, 0x90, 0x4B, 0x49, 0x60, 0x89] := by decide +kernel

/-- IEEE 1619, XTS-AES-256, vector 10: the first 32 bytes of data unit 0xFF. -/
theorem test_xts_of_ieee_1619 :
    let key := bytesNat ((natBytes 32 0x2718281828459045235360287471352662497757247093699959574966967627).reverse ++
      (natBytes 32 0x3141592653589793238462643383279502884197169399375105820974944592).reverse)
    (xtsSector (BitVec.ofNat 512 key) 0xFF false ((List.range 128).map (BitVec.ofNat 8))).take 32 =
      ((natBytes 32 0x1C3B3A102F770386E4836C99E370CF9BEA00803F5E482357A4AE12D414A3E63B).reverse).map (BitVec.ofNat 8) := by decide +kernel

/-! ## Links (R348, R352) -/

/-- The published check value of the division by 0x04C11DB7 from zero, before a final complement: CRC-32/CKSUM of the digits 1 to 9. -/
theorem test_crc_check_value :
    divBytes 0 ((List.range 9).map (fun i => BitVec.ofNat 8 (0x31 + i)) ++ List.replicate 4 0) = 0x89A1897F := by decide +kernel
theorem test_lfsr_seed : lfsrSeed 11 9 = 0x8B09 := by decide
/-- R350: a flit that a link has not delivered when it goes down waits at the first link of a path over the others. -/
theorem test_flits_take_another_path :
    after (linked fun f => { f with replay := [(4, flit true)] }) (.linkRetrain someLink 1 false)
      (fun t => decide ((t.link ⟨1, false⟩).queue = [{ flit true with dest := some 5 }]) && !(t.link someLink).up) = true := by decide +kernel

end Sys2Proof.Tests
end

/-! The values of the E3M5 scale codes (R48). -/

namespace Sys2Proof.Machine

/-! ## Powers of two and exact values -/

theorem pow2_eq_zpow (e : Int) : pow2 e = (2 : Rat) ^ e := by
  unfold pow2
  split
  case isTrue h =>
    obtain ⟨n, rfl⟩ := Int.eq_ofNat_of_zero_le h
    simp
  case isFalse h =>
    obtain ⟨n, hn⟩ := Int.eq_ofNat_of_zero_le (show 0 ≤ -e by omega)
    obtain rfl : e = -(n : Int) := by omega
    simp

theorem Val.ofRat_of_ne_zero {q : Rat} (h : q ≠ 0) : Val.ofRat q = .num q := if_neg h

/-! ## E3M5 codes (R48) -/

theorem valueOf_e3m5 {c : Nat} (h : c < 256) : valueOf .e3m5 c = Val.ofRat (magValue (layoutOf .e3m5) c) := by
  simp [valueOf, isInt, Nat.mod_eq_of_lt h]

/-- With exponent field 0 the fraction counts steps of 2^−7. -/
theorem magValue_e3m5_subnormal {m : Nat} (hm : m < 32) : magValue (layoutOf .e3m5) m = (m : Rat) / 128 := by
  have hexp : m / 2 ^ 5 = 0 := Nat.div_eq_of_lt hm
  have hfrac : m % 2 ^ 5 = m := Nat.mod_eq_of_lt hm
  simp only [magValue, layoutOf, hexp, hfrac, if_true, pow2_eq_zpow]
  norm_num [div_eq_mul_inv]

/-- With exponent field `e` of 1 or more the fraction has an implied leading 1. -/
theorem magValue_e3m5_normal {e m : Nat} (he : e ≠ 0) (hm : m < 32) :
    magValue (layoutOf .e3m5) (e * 32 + m) = (2 : Rat) ^ e / 8 * (1 + (m : Rat) / 32) := by
  have hexp : (e * 32 + m) / 2 ^ 5 = e := by omega
  have hfrac : (e * 32 + m) % 2 ^ 5 = m := by omega
  have hscale : (2 : Rat) ^ ((e : Int) - (3 : Nat) - (5 : Nat)) = 2 ^ e / 256 := by
    rw [show (e : Int) - (3 : Nat) - (5 : Nat) = e - 8 by omega, zpow_sub₀ two_ne_zero, zpow_natCast]
    norm_num
  simp only [magValue, layoutOf, hexp, hfrac, if_neg he, pow2_eq_zpow, hscale]
  push_cast
  ring

/-- The grid of 2^−7 goes on through exponent field 1, where a step of the fraction is still 2^−7. -/
theorem magValue_e3m5_grid {c : Nat} (hc : c < 64) : magValue (layoutOf .e3m5) c = (c : Rat) / 128 := by
  by_cases h : c < 32
  · exact magValue_e3m5_subnormal h
  · obtain ⟨m, rfl⟩ : ∃ m, c = 1 * 32 + m := ⟨c - 32, by omega⟩
    rw [magValue_e3m5_normal one_ne_zero (by omega)]
    push_cast
    ring

theorem valueOf_e3m5_subnormal {m : Nat} (hm : m < 32) : valueOf .e3m5 m = Val.ofRat ((m : Rat) / 128) := by
  rw [valueOf_e3m5 (by omega), magValue_e3m5_subnormal hm]

theorem valueOf_e3m5_normal {e m : Nat} (he0 : e ≠ 0) (he : e < 8) (hm : m < 32) :
    valueOf .e3m5 (e * 32 + m) = .num ((2 : Rat) ^ e / 8 * (1 + (m : Rat) / 32)) := by
  rw [valueOf_e3m5 (by omega), magValue_e3m5_normal he0 hm, Val.ofRat_of_ne_zero (by positivity)]

theorem valueOf_e3m5_grid {c : Nat} (hc : c < 64) : valueOf .e3m5 c = Val.ofRat ((c : Rat) / 128) := by
  rw [valueOf_e3m5 (by omega), magValue_e3m5_grid hc]

/-- Settles O33: the two ranges of the exponent field, the grid below 0x40, and the named codes as instances. -/
theorem scaleCodeValues : Obligations.ScaleCodeValues := by
  unfold Obligations.ScaleCodeValues
  refine ⟨fun e m he hm => ?_, fun c hc => valueOf_e3m5_grid hc, ?_, ?_, ?_⟩
  · by_cases he0 : e = 0
    · subst he0
      simpa using valueOf_e3m5_subnormal hm
    · simpa [he0] using valueOf_e3m5_normal he0 he hm
  · exact (valueOf_e3m5_normal (e := 1) (m := 0) (by decide) (by decide) (by decide)).trans (by norm_num)
  · exact (valueOf_e3m5_normal (e := 3) (m := 0) (by decide) (by decide) (by decide)).trans (by norm_num)
  · exact (valueOf_e3m5_normal (e := 7) (m := 31) (by decide) (by decide) (by decide)).trans (by norm_num)

end Sys2Proof.Machine

/-! The decoder's checks on CR, CI and `PCNT` words (R21 to R25, R31, R106, R107, R110). -/

namespace Sys2Proof

/-! ## The fields of a first word (R21) -/

section Fields

variable {sy : Sync} {n op low : Nat}

theorem fld_first_len (hn : n < 4) (ho : op < 64) (hl : low < 2 ^ 20) : fld (first sy n op low) 26 2 = n := by
  simp only [fld, first]; omega

theorem fld_first_op (ho : op < 64) (hl : low < 2 ^ 20) : fld (first sy n op low) 20 6 = op := by
  simp only [fld, first]; omega

theorem bitOf_beq_one (b : Bool) : (bitOf b == 1) = b := by cases b <;> rfl

theorem syncOf_first (hn : n < 4) (ho : op < 64) (hl : low < 2 ^ 20) : syncOf (first sy n op low) = sy := by
  obtain ⟨wp, wn, sp, sn⟩ := sy
  have hwp := Laws.bitOf_le wp
  have hwn := Laws.bitOf_le wn
  have hsp := Laws.bitOf_le sp
  have hsn := Laws.bitOf_le sn
  have h1 : fld (first ⟨wp, wn, sp, sn⟩ n op low) 31 1 = bitOf wp := by simp only [fld, first, Sync.toNat]; omega
  have h2 : fld (first ⟨wp, wn, sp, sn⟩ n op low) 30 1 = bitOf wn := by simp only [fld, first, Sync.toNat]; omega
  have h3 : fld (first ⟨wp, wn, sp, sn⟩ n op low) 29 1 = bitOf sp := by simp only [fld, first, Sync.toNat]; omega
  have h4 : fld (first ⟨wp, wn, sp, sn⟩ n op low) 28 1 = bitOf sn := by simp only [fld, first, Sync.toNat]; omega
  simp only [syncOf, h1, h2, h3, h4, bitOf_beq_one]

theorem first_inj_low {low' : Nat} : first sy n op low = first sy n op low' ↔ low = low' := by
  simp [first]

theorem r6_first_14 {r : XReg} (h : low / 2 ^ 14 = r.val) : r6 (first sy n op low) 14 = r := by
  apply Fin.ext
  simp only [r6, first, Fin.val_ofNat]
  omega

theorem r6_first_8 {r : XReg} (h : low / 2 ^ 8 % 64 = r.val) : r6 (first sy n op low) 8 = r := by
  apply Fin.ext
  simp only [r6, first, Fin.val_ofNat]
  omega

theorem r6_first_2 {r : XReg} (h : low / 2 ^ 2 % 64 = r.val) : r6 (first sy n op low) 2 = r := by
  apply Fin.ext
  simp only [r6, first, Fin.val_ofNat]
  omega

theorem r4_first_10 {p : PReg} (h : low / 2 ^ 10 % 16 = p.val) : r4 (first sy n op low) 10 = p := by
  apply Fin.ext
  simp only [r4, first, Fin.val_ofNat]
  omega

theorem fld_first_2 : fld (first sy n op low) 0 2 = low % 4 := by
  simp only [fld, first]; omega

theorem fld_first_8 : fld (first sy n op low) 0 8 = low % 2 ^ 8 := by
  simp only [fld, first]; omega

end Fields

/-! ## The order of the decoder's checks (R24) -/

section Checks

variable {t : Stream} {x : Words} {i : Instr} {b : Bad} {k w : Nat}

theorem decodeWords_error (hc : candidate t x = .error b) : decodeWords t x = .error b := by
  simp only [decodeWords, hc]

theorem decodeWords_operand (hc : candidate t x = yes i) (ho : i.operandBad = some k) :
    decodeWords t x = .error ⟨.operand, k⟩ := by
  simp only [decodeWords, hc, yes, Fetched.operandBad, ho]

theorem differAt_self (l : List Nat) : ∀ k, differAt l l k = none := by
  induction l with
  | nil => intro k; rfl
  | cons a l ih => intro k; simp [differAt, ih]

/-- An instruction with its operands in range, whose words differ from those fetched in the first at most: it is read
where they do not differ, and otherwise a field that it does not use is nonzero. -/
theorem decodeWords_first (hc : candidate t x = yes i) (ho : i.operandBad = none) (hm : i.mbzBad = none)
    (he : encode i = w :: x.list.tail) :
    decodeWords t x = if w = x.w0 then .ok (.ins i) else .error ⟨.mbz, 0⟩ := by
  have hx : x.list = x.w0 :: x.list.tail := by unfold Words.list; split <;> rfl
  have hd : differAt (encode i) x.list 0 = if w = x.w0 then none else some 0 := by
    rw [he, hx, List.tail_cons]
    simp only [differAt, differAt_self]
  simp only [decodeWords, hc, yes, Fetched.operandBad, ho, Fetched.words, Fetched.mbzBad, hm, hd]
  by_cases h : w = x.w0 <;> simp [h, lowest]

end Checks

/-! ## Words of one, two and three (R21, R24) -/

section Lists

variable {t : Stream} {sy : Sync} {op low e1 e2 : Nat}

theorem decodeList_one (ho : op < 64) (hl : low < 2 ^ 20) :
    decodeList t [first sy 0 op low] = decodeWords t ⟨0, first sy 0 op low, 0, 0⟩ := by
  simp [decodeList, decode, fld_first_len (by decide : 0 < 4) ho hl]

theorem decodeList_two (ho : op < 64) (hl : low < 2 ^ 20) (h1 : e1 < 2 ^ 28) :
    decodeList t [first sy 1 op low, e1] = decodeWords t ⟨1, first sy 1 op low, e1, 0⟩ := by
  have hx : fld e1 28 4 = 0 := by simp only [fld]; omega
  simp [decodeList, decode, fld_first_len (by decide : 1 < 4) ho hl, hx]

theorem decodeList_three (ho : op < 64) (hl : low < 2 ^ 20) (h1 : e1 < 2 ^ 28) (h2 : e2 < 2 ^ 28) :
    decodeList t [first sy 2 op low, e1, e2] = decodeWords t ⟨2, first sy 2 op low, e1, e2⟩ := by
  have hx1 : fld e1 28 4 = 0 := by simp only [fld]; omega
  have hx2 : fld e2 28 4 = 0 := by simp only [fld]; omega
  simp [decodeList, decode, fld_first_len (by decide : 2 < 4) ho hl, hx1, hx2]

end Lists

/-! ## The control stream's map (R32) -/

section Map

variable {sy : Sync} {n op low e1 e2 : Nat}

theorem candidate_alu (hop : 2 ≤ op ∧ op ≤ 7) (hl : low < 2 ^ 20) :
    candidate .c ⟨n, first sy n op low, e1, e2⟩ = decAlu ⟨n, first sy n op low, e1, e2⟩ op := by
  obtain ⟨hlo, hhi⟩ := hop
  simp only [candidate, candC, fld_first_op (show op < 64 by omega) hl]
  rw [if_neg (by omega), if_neg (by omega), if_pos hhi]

theorem candidate_imm (hop : 8 ≤ op ∧ op ≤ 16) (hl : low < 2 ^ 20) :
    candidate .c ⟨n, first sy n op low, e1, e2⟩ = decImm ⟨n, first sy n op low, e1, e2⟩ op := by
  obtain ⟨hlo, hhi⟩ := hop
  simp only [candidate, candC, fld_first_op (show op < 64 by omega) hl]
  rw [if_neg (by omega), if_neg (by omega), if_neg (by omega), if_pos hhi]

theorem candidate_pcnt (hl : low < 2 ^ 20) : candidate .c ⟨0, first sy 0 0x14 low, e1, e2⟩ =
    yes (.pcnt sy (r6 (first sy 0 0x14 low) 14) (r4 (first sy 0 0x14 low) 10)) := by
  simp [candidate, candC, decOwn, len, fld_first_op (show 0x14 < 64 by decide) hl,
    syncOf_first (sy := sy) (show 0 < 4 by decide) (show 0x14 < 64 by decide) hl]

end Map

/-! ## CR words (R31, R106) -/

/-- A CR word. -/
def crWord (sy : Sync) (op fn : Nat) (rd ra rb : XReg) : Nat :=
  first sy 0 op (rd.val * 2 ^ 14 + ra.val * 2 ^ 8 + rb.val * 2 ^ 2 + fn)

/-- The map's row for `op` and `fn` reads the form `dec` of a CR word's fields (R31). -/
def CrRow (op fn : Nat) (dec : Sync → XReg → XReg → XReg → Instr) : Prop :=
  ∀ w, fld w 0 2 = fn → decAlu ⟨0, w, 0, 0⟩ op = yes (dec (syncOf w) (r6 w 14) (r6 w 8) (r6 w 2))

section Cr

variable {sy : Sync} {op fn : Nat} {rd ra rb rb' : XReg} {dec : Sync → XReg → XReg → XReg → Instr}

theorem crLow_lt (hfn : fn < 4) : rd.val * 2 ^ 14 + ra.val * 2 ^ 8 + rb.val * 2 ^ 2 + fn < 2 ^ 20 := by omega

theorem fld_crWord_fn (hfn : fn < 4) : fld (crWord sy op fn rd ra rb) 0 2 = fn := fld_first_2.trans (by omega)

theorem r6_crWord_14 (hfn : fn < 4) : r6 (crWord sy op fn rd ra rb) 14 = rd := r6_first_14 (by omega)

theorem r6_crWord_8 (hfn : fn < 4) : r6 (crWord sy op fn rd ra rb) 8 = ra := r6_first_8 (by omega)

theorem r6_crWord_2 (hfn : fn < 4) : r6 (crWord sy op fn rd ra rb) 2 = rb := r6_first_2 (by omega)

theorem first_eq_crWord_iff {b : Nat} :
    first sy 0 op (rd.val * 2 ^ 14 + ra.val * 2 ^ 8 + b * 2 ^ 2 + fn) = crWord sy op fn rd ra rb ↔ b = rb.val := by
  rw [crWord, first_inj_low]; omega

/-- A CR word whose row of the map is `dec` is read where its rb is the one that the encoder gives `dec` (R31). -/
theorem decodeList_cr {b : Nat} (hop : 2 ≤ op ∧ op ≤ 7) (hfn : fn < 4) (hd : CrRow op fn dec)
    (ho : (dec sy rd ra rb).operandBad = none) (hm : (dec sy rd ra rb).mbzBad = none)
    (he : encode (dec sy rd ra rb) = encCr sy op fn rd.val ra.val b) :
    decodeList .c [crWord sy op fn rd ra rb] =
      if b = rb.val then .ok (.ins (dec sy rd ra rb)) else .error { sub := .mbz, k := 0 } := by
  have hop64 : op < 64 := by omega
  have hc : candidate .c ⟨0, crWord sy op fn rd ra rb, 0, 0⟩ = yes (dec sy rd ra rb) := by
    rw [crWord, candidate_alu hop (crLow_lt hfn), ← crWord, hd _ (fld_crWord_fn hfn), r6_crWord_14 hfn, r6_crWord_8 hfn,
      r6_crWord_2 hfn, crWord, syncOf_first (by decide) hop64 (crLow_lt hfn)]
  exact ((decodeList_one hop64 (crLow_lt hfn)).trans (decodeWords_first hc ho hm he)).trans
    (if_congr first_eq_crWord_iff rfl rfl)

/-- A CR word whose row of the map is `dec` is read. -/
theorem decodeList_cr_reads (hop : 2 ≤ op ∧ op ≤ 7 := by decide) (hfn : fn < 4 := by decide)
    (hd : CrRow op fn dec := by intro w h; simp only [decAlu, h]; rfl)
    (ho : (dec sy rd ra rb).operandBad = none := by rfl) (hm : (dec sy rd ra rb).mbzBad = none := by rfl)
    (he : encode (dec sy rd ra rb) = encCr sy op fn rd.val ra.val rb.val := by rfl) :
    decodeList .c [crWord sy op fn rd ra rb] = .ok (.ins (dec sy rd ra rb)) :=
  (decodeList_cr hop hfn hd ho hm he).trans (if_pos rfl)

/-- The forms of OP 0x07 have no rb: their words are read where rb is 0 (R106). -/
theorem decodeList_cr_unary {dec : Sync → XReg → XReg → Instr} (hfn : fn < 4 := by decide)
    (hd : CrRow 7 fn fun sy rd ra _ => dec sy rd ra := by intro w h; simp only [decAlu, h]; rfl)
    (ho : (dec sy rd ra).operandBad = none := by rfl) (hm : (dec sy rd ra).mbzBad = none := by rfl)
    (he : encode (dec sy rd ra) = encCr sy 7 fn rd.val ra.val 0 := by rfl) :
    decodeList .c [crWord sy 7 fn rd ra rb] =
      if rb = 0 then .ok (.ins (dec sy rd ra)) else .error { sub := .mbz, k := 0 } :=
  (decodeList_cr (rb := rb) (by decide) hfn hd ho hm he).trans (if_congr (eq_comm.trans Fin.val_eq_zero_iff) rfl rfl)

/-- fn 3 of OP 0x04 is reserved (R106). -/
theorem decodeList_cr_func : decodeList .c [crWord sy 4 3 rd ra rb] = .error { sub := .func, k := 0 } := by
  have hd : decAlu ⟨0, crWord sy 4 3 rd ra rb, 0, 0⟩ 4 = .error { sub := .func, k := 0 } := by
    simp [decAlu, fld_crWord_fn, badFn]
  exact (decodeList_one (by decide) (crLow_lt (by decide))).trans
    (decodeWords_error ((candidate_alu (by decide) (crLow_lt (by decide))).trans hd))

end Cr

/-! ## CI words (R31, R107) -/

/-- E1 of a CI instruction: bits [35:8] of the immediate. -/
def ciE1 (imm : Nat) : Nat → Nat
  | 0 => 0
  | 1 => imm / 2 ^ 8
  | _ => imm / 2 ^ 8 % 2 ^ 28

/-- E2 of a CI instruction: bits [63:36] of the immediate. -/
def ciE2 (imm : Nat) : Nat → Nat
  | 0 | 1 => 0
  | _ => imm / 2 ^ 36

/-- The words of a CI instruction with LEN `n`; its first word holds the immediate's low byte. -/
def ciWords (sy : Sync) (n op : Nat) (rd ra : XReg) (imm : Nat) : Words :=
  ⟨n, first sy n op (rd.val * 2 ^ 14 + ra.val * 2 ^ 8 + imm % 2 ^ 8), ciE1 imm n, ciE2 imm n⟩

/-- The words of a CI instruction as a list. -/
def ciList (sy : Sync) (op : Nat) (rd ra : XReg) (imm : Nat) : Nat → List Nat
  | 0 => [first sy 0 op (rd.val * 2 ^ 14 + ra.val * 2 ^ 8 + imm % 2 ^ 8)]
  | 1 => [first sy 1 op (rd.val * 2 ^ 14 + ra.val * 2 ^ 8 + imm % 2 ^ 8), imm / 2 ^ 8]
  | n => [first sy n op (rd.val * 2 ^ 14 + ra.val * 2 ^ 8 + imm % 2 ^ 8), imm / 2 ^ 8 % 2 ^ 28, imm / 2 ^ 36]

/-- The bits of a CI immediate at each LEN. -/
def ciBits : Nat → Nat
  | 0 => 8
  | 1 => 36
  | _ => 64

section Ci

variable {sy : Sync} {n op imm : Nat} {rd ra ra' : XReg}

theorem ciLow_lt : rd.val * 2 ^ 14 + ra.val * 2 ^ 8 + imm % 2 ^ 8 < 2 ^ 20 := by omega

theorem syncOf_ciWords (hn : n < 4) (hop : op < 64) : syncOf (ciWords sy n op rd ra imm).w0 = sy := syncOf_first hn hop ciLow_lt

theorem r6_ciWords_14 : r6 (ciWords sy n op rd ra imm).w0 14 = rd := r6_first_14 (by omega)

theorem r6_ciWords_8 : r6 (ciWords sy n op rd ra imm).w0 8 = ra := r6_first_8 (by omega)

theorem fld_ciWords : fld (ciWords sy n op rd ra imm).w0 0 8 = imm % 2 ^ 8 := fld_first_8.trans (by omega)

theorem ciWords_w0_inj_ra : (ciWords sy n op rd ra' imm).w0 = (ciWords sy n op rd ra imm).w0 ↔ ra' = ra := by
  rw [ciWords, ciWords, first_inj_low, Fin.ext_iff]; omega

/-- Only the first word holds ra. -/
theorem ciList_eq_cons (ra ra' : XReg) :
    ciList sy op rd ra' imm n = (ciWords sy n op rd ra' imm).w0 :: (ciWords sy n op rd ra imm).list.tail := by
  match n with
  | 0 => rfl
  | 1 => rfl
  | _ + 2 => rfl

/-- The immediate of CI words with LEN `n`, as the map reads it (R31). -/
def ciImm (x : Words) : (n : Nat) → BitVec (ciBits n)
  | 0 => BitVec.ofNat 8 x.w0
  | 1 => BitVec.ofNat 36 (fld x.e1 0 28 * 2 ^ 8 + fld x.w0 0 8)
  | _ + 2 => BitVec.ofNat 64 (fld x.e2 0 28 * 2 ^ 36 + fld x.e1 0 28 * 2 ^ 8 + fld x.w0 0 8)

/-- The map's row for `op` at LEN `n` reads the form `dec` of the fields of CI words (R31). -/
def CiRow (n op : Nat) (dec : Sync → XReg → XReg → BitVec (ciBits n) → Instr) : Prop :=
  ∀ w e1 e2, decImm ⟨n, w, e1, e2⟩ op = yes (dec (syncOf w) (r6 w 14) (r6 w 8) (ciImm ⟨n, w, e1, e2⟩ n))

/-- The encoder's CI words with LEN `n` (R31). -/
def encCi (sy : Sync) (op : Nat) (rd ra : XReg) : (n : Nat) → BitVec (ciBits n) → List Nat
  | 0, v => encCi0 sy op rd.val ra.val v
  | 1, v => encCi1 sy op rd.val ra.val v
  | _ + 2, v => encCi2 sy op rd.val ra.val v

theorem ciBits_le (n : Nat) : 8 ≤ ciBits n ∧ ciBits n ≤ 64 := by
  match n with
  | 0 => decide
  | 1 => decide
  | _ + 2 => simp [ciBits]

theorem ciImm_ciWords (hn : n < 3) (v : BitVec (ciBits n)) : ciImm (ciWords sy n op rd ra v.toNat) n = v := by
  have hv := v.isLt
  apply BitVec.eq_of_toNat_eq
  match n with
  | 0 =>
    refine (BitVec.toNat_ofNat ..).trans ?_
    simp only [ciWords, first, ciBits] at hv ⊢
    omega
  | 1 =>
    refine (BitVec.toNat_ofNat ..).trans ?_
    rw [fld_ciWords]
    simp only [ciWords, ciE1, fld, ciBits] at hv ⊢
    omega
  | 2 =>
    refine (BitVec.toNat_ofNat ..).trans ?_
    rw [fld_ciWords]
    simp only [ciWords, ciE1, ciE2, fld, ciBits] at hv ⊢
    omega

theorem encCi_eq_ciList (hn : n < 3) (v : BitVec (ciBits n)) : encCi sy op rd ra n v = ciList sy op rd ra v.toNat n := by
  match n with
  | 0 =>
    have hv : v.toNat % 2 ^ 8 = v.toNat := Nat.mod_eq_of_lt v.isLt
    exact congrArg (fun k => [first sy 0 op (rd.val * 2 ^ 14 + ra.val * 2 ^ 8 + k)]) hv.symm
  | 1 => rfl
  | 2 => rfl

theorem decodeList_ciWords (hn : n < 3) (hop : op < 64) (v : BitVec (ciBits n)) :
    decodeList .c (ciList sy op rd ra v.toNat n) = decodeWords .c (ciWords sy n op rd ra v.toNat) := by
  have hv := v.isLt
  match n with
  | 0 => exact decodeList_one hop ciLow_lt
  | 1 =>
    have he1 : v.toNat / 2 ^ 8 < 2 ^ 28 := by simp only [ciBits] at hv ⊢; omega
    exact decodeList_two hop ciLow_lt he1
  | 2 =>
    have he2 : v.toNat / 2 ^ 36 < 2 ^ 28 := by simp only [ciBits] at hv ⊢; omega
    exact decodeList_three hop ciLow_lt (Nat.mod_lt _ (by decide)) he2

/-- The map's answer for CI words, where its row for the OP and the LEN is `dec`. -/
theorem candidate_ciWords {dec : Sync → XReg → XReg → BitVec (ciBits n) → Instr} (hn : n < 3) (hop : 8 ≤ op ∧ op ≤ 16)
    (hd : CiRow n op dec) (v : BitVec (ciBits n)) : candidate .c (ciWords sy n op rd ra v.toNat) = yes (dec sy rd ra v) := by
  have himm := ciImm_ciWords (sy := sy) (op := op) (rd := rd) (ra := ra) hn v
  have hsy : syncOf (ciWords sy n op rd ra v.toNat).w0 = sy := syncOf_ciWords (by omega) (by omega)
  have hrow : decImm (ciWords sy n op rd ra v.toNat) op =
      yes (dec (syncOf (ciWords sy n op rd ra v.toNat).w0) (r6 (ciWords sy n op rd ra v.toNat).w0 14)
        (r6 (ciWords sy n op rd ra v.toNat).w0 8) (ciImm (ciWords sy n op rd ra v.toNat) n)) := hd _ _ _
  rw [himm, hsy, r6_ciWords_14, r6_ciWords_8] at hrow
  exact (candidate_imm hop ciLow_lt).trans hrow

end Ci

/-! ## Shift immediates (R107) -/

section Shift

variable {w : Nat} {v : BitVec w}

/-- Below 64 the sign of a field of 8 bits or more is clear. -/
theorem toNat_signExtend_of_lt (hw : 8 ≤ w) (hv : v.toNat < 64) : (v.signExtend 64).toNat = v.toNat := by
  have hpow : 2 ^ 8 ≤ 2 ^ w := Nat.pow_le_pow_right (by decide) hw
  have hmsb : v.msb = false := BitVec.msb_eq_false_iff_two_mul_lt.mpr (by omega)
  rw [BitVec.signExtend_eq_setWidth_of_msb_false hmsb, BitVec.toNat_setWidth, Nat.mod_eq_of_lt (by omega)]

theorem toNat_le_toNat_signExtend (hw : w ≤ 64) : v.toNat ≤ (v.signExtend 64).toNat := by
  rw [BitVec.toNat_signExtend, BitVec.toNat_setWidth_of_le hw]
  omega

/-- The sign-extended immediate is 0 to 63 just where the field is. -/
theorem shiftBad_eq (hw : 8 ≤ w ∧ w ≤ 64) (v : BitVec w) : shiftBad v = if v.toNat < 64 then none else some 0 := by
  have hle := toNat_le_toNat_signExtend (v := v) hw.2
  unfold shiftBad
  by_cases hv : v.toNat < 64
  · rw [toNat_signExtend_of_lt hw.1 hv, if_pos (by omega), if_pos hv]
  · rw [if_neg (by omega), if_neg hv]

end Shift

/-! ## What CI words are read as (R107) -/

section CiReads

variable {sy : Sync} {op : Nat} {rd ra : XReg} (n : Nat) {v : BitVec (ciBits n)}
  {dec : Sync → XReg → XReg → BitVec (ciBits n) → Instr}

/-- A CI instruction is read, unless it has no ra and the word has one (R107). -/
theorem decodeList_ci {ra' : XReg} (hn : n < 3) (hop : 8 ≤ op ∧ op ≤ 16)
    (hd : CiRow n op dec)
    (ho : (dec sy rd ra v).operandBad = none) (hm : (dec sy rd ra v).mbzBad = none)
    (he : encode (dec sy rd ra v) = encCi sy op rd ra' n v) :
    decodeList .c (ciList sy op rd ra v.toNat n) =
      if ra' = ra then .ok (.ins (dec sy rd ra v)) else .error { sub := .mbz, k := 0 } := by
  have hw := decodeWords_first (candidate_ciWords hn hop hd v) ho hm (he.trans ((encCi_eq_ciList hn v).trans (ciList_eq_cons ra ra')))
  simp only [ciWords_w0_inj_ra] at hw
  exact (decodeList_ciWords hn (by omega) v).trans hw

/-- CI words whose row of the map is `dec` are read. -/
theorem decodeList_ci_reads (hn : n < 3 := by decide) (hop : 8 ≤ op ∧ op ≤ 16 := by decide)
    (hd : CiRow n op dec := by intro _ _ _; rfl)
    (ho : (dec sy rd ra v).operandBad = none := by rfl) (hm : (dec sy rd ra v).mbzBad = none := by rfl)
    (he : encode (dec sy rd ra v) = encCi sy op rd ra n v := by rfl) :
    decodeList .c (ciList sy op rd ra v.toNat n) = .ok (.ins (dec sy rd ra v)) :=
  (decodeList_ci n hn hop hd ho hm he).trans (if_pos rfl)

/-- A row without an ra does not read a word with one (R107). -/
theorem decodeList_ci_mbz (hra : ra ≠ 0) (hn : n < 3 := by decide) (hop : 8 ≤ op ∧ op ≤ 16 := by decide)
    (hd : CiRow n op dec := by intro _ _ _; rfl)
    (ho : (dec sy rd ra v).operandBad = none := by rfl) (hm : (dec sy rd ra v).mbzBad = none := by rfl)
    (he : encode (dec sy rd ra v) = encCi sy op rd 0 n v := by rfl) :
    decodeList .c (ciList sy op rd ra v.toNat n) = .error { sub := .mbz, k := 0 } :=
  (decodeList_ci n hn hop hd ho hm he).trans (if_neg hra.symm)

/-- A shift by an immediate is read where the immediate is 0 to 63, and else an operand is out of range (R107). -/
theorem decodeList_ci_shift (hn : n < 3 := by decide) (hop : 8 ≤ op ∧ op ≤ 16 := by decide)
    (hd : CiRow n op dec := by intro _ _ _; rfl)
    (ho : (dec sy rd ra v).operandBad = shiftBad v := by rfl) (hm : (dec sy rd ra v).mbzBad = none := by rfl)
    (he : encode (dec sy rd ra v) = encCi sy op rd ra n v := by rfl) :
    decodeList .c (ciList sy op rd ra v.toNat n) =
      if v.toNat < 64 then .ok (.ins (dec sy rd ra v)) else .error { sub := .operand, k := 0 } := by
  rw [shiftBad_eq (ciBits_le n)] at ho
  by_cases hv : v.toNat < 64
  · rw [if_pos hv] at ho ⊢
    exact decodeList_ci_reads n hn hop hd ho hm he
  · rw [if_neg hv] at ho ⊢
    exact (decodeList_ciWords hn (by omega) v).trans (decodeWords_operand (candidate_ciWords hn hop hd v) ho)

end CiReads

/-! ## `PCNT` words (R110) -/

/-- A `PCNT` word is read where bits [9:0] are zero (R110). -/
theorem decodeList_pcnt (sy : Sync) (rd : XReg) (pa : PReg) {low : Nat} (hl : low < 2 ^ 10) :
    decodeList .c [first sy 0 0x14 (rd.val * 2 ^ 14 + pa.val * 2 ^ 10 + low)] =
      if low = 0 then .ok (.ins (.pcnt sy rd pa)) else .error { sub := .mbz, k := 0 } := by
  have hlow : rd.val * 2 ^ 14 + pa.val * 2 ^ 10 + low < 2 ^ 20 := by omega
  have hrd : r6 (first sy 0 0x14 (rd.val * 2 ^ 14 + pa.val * 2 ^ 10 + low)) 14 = rd := r6_first_14 (by omega)
  have hpa : r4 (first sy 0 0x14 (rd.val * 2 ^ 14 + pa.val * 2 ^ 10 + low)) 10 = pa := r4_first_10 (by omega)
  have hc := candidate_pcnt (sy := sy) (e1 := 0) (e2 := 0) hlow
  rw [hrd, hpa] at hc
  rw [decodeList_one (by decide) hlow, decodeWords_first hc rfl rfl rfl]
  exact if_congr (by rw [first_inj_low]; omega) rfl rfl

end Sys2Proof

/-! Arithmetic of the C stream: what the instructions compute, and that they write one scalar register (R106, R107, R110). -/

namespace Sys2Proof.Machine

/-! ## The arithmetic of R106 -/

theorem sdivWord_eq_sdiv (a b : Word) : sdivWord a b = if b = 0 then 0xFFFFFFFFFFFFFFFF else a.sdiv b := by
  unfold sdivWord
  split
  · rfl
  · exact BitVec.eq_of_toInt_eq (by rw [BitVec.toInt_ofInt, BitVec.toInt_sdiv])

theorem sremWord_eq_srem (a b : Word) : sremWord a b = if b = 0 then a else a.srem b := by
  unfold sremWord
  rw [← BitVec.toInt_srem, BitVec.ofInt_toInt]

theorem udivWord_eq_div (a b : Word) : udivWord a b = if b = 0 then 0xFFFFFFFFFFFFFFFF else a / b := by
  rw [BitVec.udiv_def]; rfl

theorem uremWord_eq_mod (a b : Word) : uremWord a b = if b = 0 then a else a % b := by
  rw [BitVec.umod_def]; rfl

/-- The upper half of 128 bits is the quotient by 2^64 of their signed value. -/
theorem extractLsb'_upper_eq_ofInt (p : BitVec 128) : p.extractLsb' 64 64 = BitVec.ofInt 64 (p.toInt / 2 ^ 64) := by
  apply BitVec.eq_of_toNat_eq
  have hp := p.isLt
  rw [BitVec.extractLsb'_toNat, Nat.shiftRight_eq_div_pow, BitVec.toNat_ofInt, BitVec.toInt_eq_toNat_cond]
  split <;> omega

/-- A signed product of two words fits in 128 bits. -/
theorem toInt_signExtend_mul (a b : Word) : (a.signExtend 128 * b.signExtend 128).toInt = a.toInt * b.toInt := by
  have hle : a.toInt * b.toInt ≤ 2 ^ 126 := BitVec.toInt_mul_toInt_le
  have hge : -2 ^ 126 ≤ a.toInt * b.toInt := BitVec.le_toInt_mul_toInt
  rw [BitVec.toInt_mul, BitVec.toInt_signExtend_of_le (by decide), BitVec.toInt_signExtend_of_le (by decide)]
  exact Int.bmod_eq_of_le (by omega) (by omega)

theorem mulhWord_eq_extract (a b : Word) : mulhWord a b = (a.signExtend 128 * b.signExtend 128).extractLsb' 64 64 := by
  rw [extractLsb'_upper_eq_ofInt, toInt_signExtend_mul]; rfl

theorem mulhuWord_eq_extract (a b : Word) : mulhuWord a b = (a.setWidth 128 * b.setWidth 128).extractLsb' 64 64 := by
  have hlt : a.toNat * b.toNat < 2 ^ 128 := (Nat.mul_lt_mul'' a.isLt b.isLt).trans_eq (by norm_num)
  apply BitVec.eq_of_toNat_eq
  rw [BitVec.extractLsb'_toNat, BitVec.toNat_mul, BitVec.toNat_setWidth_of_le (by decide), BitVec.toNat_setWidth_of_le (by decide),
    Nat.mod_eq_of_lt hlt, Nat.shiftRight_eq_div_pow, mulhuWord, BitVec.toNat_ofNat]

/-! ## Bit counts (R106, R110) -/

theorem popcount_eq_length {w : Nat} (v : BitVec w) (n : Nat) :
    popcount v n = ((List.range n).filter fun i => v.getLsbD i).length := by
  induction n with
  | zero => rfl
  | succ n ih => cases hv : v.getLsbD n <;> simp [popcount, ih, List.range_succ, hv]

/-- `leadingZeros` counts the zeros above the highest one bit of the lowest `n` bits. -/
theorem leadingZeros_spec {w : Nat} (v : BitVec w) (n : Nat) :
    leadingZeros v n ≤ n ∧ (∀ i < leadingZeros v n, v.getLsbD (n - 1 - i) = false) ∧
      (leadingZeros v n < n → v.getLsbD (n - 1 - leadingZeros v n) = true) := by
  induction n with
  | zero => simp [leadingZeros]
  | succ n ih =>
    obtain ⟨hle, hzero, hone⟩ := ih
    cases hv : v.getLsbD n with
    | true => simp [leadingZeros, hv]
    | false =>
      simp only [leadingZeros, hv, Bool.false_eq_true, if_false]
      refine ⟨by omega, fun i hi => ?_, fun h => ?_⟩
      · cases i with
        | zero => exact hv
        | succ i =>
          rw [show n + 1 - 1 - (i + 1) = n - 1 - i by omega]
          exact hzero i (by omega)
      · rw [show n + 1 - 1 - (leadingZeros v n + 1) = n - 1 - leadingZeros v n by omega]
        exact hone (by omega)

/-- `trailingZeros` counts the zeros from bit `k` up to the lowest one bit of `n` bits. -/
theorem trailingZeros_spec {w : Nat} (v : BitVec w) (n : Nat) : ∀ k,
    trailingZeros v n k ≤ n ∧ (∀ i < trailingZeros v n k, v.getLsbD (k + i) = false) ∧
      (trailingZeros v n k < n → v.getLsbD (k + trailingZeros v n k) = true) := by
  induction n with
  | zero => simp [trailingZeros]
  | succ n ih =>
    intro k
    obtain ⟨hle, hzero, hone⟩ := ih (k + 1)
    cases hv : v.getLsbD k with
    | true => simp [trailingZeros, hv]
    | false =>
      simp only [trailingZeros, hv, Bool.false_eq_true, if_false]
      refine ⟨by omega, fun i hi => ?_, fun h => ?_⟩
      · cases i with
        | zero => exact hv
        | succ i =>
          rw [show k + (i + 1) = k + 1 + i by omega]
          exact hzero i (by omega)
      · rw [show k + (trailingZeros v n (k + 1) + 1) = k + 1 + trailingZeros v n (k + 1) by omega]
        exact hone (by omega)

/-- An element below 1,024 is active where it lies below VL and its bit is one (R105). -/
theorem State.active_getLsbD (s : State) (r : PReg) {e : Nat} (he : e < 1024) :
    (s.active r).getLsbD e = (decide (e < s.vl) && (s.pr r).getLsbD e) := by
  rw [State.active, activeMask, BitVec.getLsbD_and, BitVec.getLsbD_ofNat, Nat.testBit_two_pow_sub_one, decide_eq_true he,
    Bool.true_and, Bool.and_comm]
  rfl

theorem State.active_begun {s : State} {t : Stream} {sy : Sync} (h : s.ready t sy = true) (r : PReg) :
    (s.begun t sy).active r = s.active r := by
  rw [State.active, State.active, (State.begun_agrees h).pr, (State.begun_agrees h).vx]

/-- A ready stream's reading of the active elements depends on nothing. -/
theorem State.ready_activeDep {s : State} {t : Stream} {sy : Sync} (h : s.ready t sy = true) (r : PReg) :
    (s.predDep r).or s.vlDep = .clean := by
  rw [State.predDep_clean (State.ready_ver h) (State.ready_spec h), State.vlDep_clean (State.ready_ver h) (State.ready_spec h),
    Dep.or_clean]

/-! ## Instructions that write one scalar register -/

section

variable {s : State} {sy : Sync} {i : Instr} {rd ra rb : XReg} {v : Word}

theorem State.setX_ver (u : State) (r : XReg) (v : Word) : (u.setX r v).ctx.ver = u.ctx.ver := by
  unfold State.setX; split <;> rfl

/-- An instruction that reads nothing dependent and whose effect is a write of `v` to `rd` gives just that. -/
theorem State.givesX_of_run {len : Nat} {hold : Hold} {reads : State → Reads} {f : State → Word} (h : s.ready .c sy = true)
    (he : exec i s = s.run .c sy len hold reads fun u => .fin (u.setX rd (f u))) (hr : (reads s).dep = .clean)
    (hv : f (s.begun .c sy) = v) : s.givesX i (len + 1) rd v := by
  have hver : ((s.begun .c sy).setX rd (f (s.begun .c sy))).ctx.ver = none := by
    rw [State.setX_ver, (State.begun_agrees h).ver, State.ready_ver h]
  exact State.givesX_of h (he.trans (State.run_fin h hr rfl hver)) (by rw [hv])

theorem State.givesX_of_runX {len : Nat} {hold : Hold} {xs : List XReg} {f : State → Word} (h : s.ready .c sy = true)
    (he : exec i s = s.runX sy len hold rd xs f) (hv : f (s.begun .c sy) = v) : s.givesX i (len + 1) rd v :=
  State.givesX_of_run (reads := fun _ => ⟨.clean, [], xs⟩) h he rfl hv

theorem State.givesX_of_alu {f : Word → Word → Word} (h : s.ready .c sy = true) (he : exec i s = s.alu sy rd ra rb f)
    (hv : f (s.x ra) (s.x rb) = v) : s.givesX i 1 rd v :=
  State.givesX_of_runX h he (by rw [(State.begun_agrees h).x, (State.begun_agrees h).x, hv])

theorem State.givesX_of_aluImm {len : Nat} {imm : Word} {f : Word → Word → Word} (h : s.ready .c sy = true)
    (he : exec i s = s.aluImm sy len rd ra imm f) (hv : f (s.x ra) imm = v) : s.givesX i (len + 1) rd v :=
  State.givesX_of_runX h he (by rw [(State.begun_agrees h).x, hv])

/-- A form that reads one register only. -/
theorem State.givesX_of_unary {f : Word → Word} (h : s.ready .c sy = true)
    (he : exec i s = s.runX sy 0 .run rd [ra] fun u => f (u.x ra)) (hv : f (s.x ra) = v) : s.givesX i 1 rd v :=
  State.givesX_of_runX h he (by rw [(State.begun_agrees h).x, hv])

/-- A shift by an immediate takes the low six bits of the immediate. -/
theorem State.givesX_of_shiftImm {len n : Nat} {imm : Word} {f : Word → Nat → Word} (h : s.ready .c sy = true)
    (he : exec i s = s.aluImm sy len rd ra imm fun a b => f a (b.toNat % 64)) (hn : imm.toNat % 64 = n) :
    s.givesX i (len + 1) rd (f (s.x ra) n) :=
  State.givesX_of_aluImm h he (by rw [hn])

/-- An immediate of 0 to 63 is its own low six bits, however wide its field is. -/
theorem toNat_signExtend_ofNat {w n : Nat} (hw : 8 ≤ w) (hn : n < 64) : ((BitVec.ofNat w n).signExtend 64).toNat % 64 = n := by
  have hpow : 2 ^ 8 ≤ 2 ^ w := Nat.pow_le_pow_right (by decide) hw
  have hx : (BitVec.ofNat w n).toNat = n := by rw [BitVec.toNat_ofNat, Nat.mod_eq_of_lt (by omega)]
  rw [toNat_signExtend_of_lt hw (by omega), hx, Nat.mod_eq_of_lt hn]

end

/-! ## The obligations -/

/-- Settles O1: each form is `State.alu` of its operation or a form of one operand; the words by the rows of the map. -/
theorem registerArithmetic : Obligations.RegisterArithmetic := by
  unfold Obligations.RegisterArithmetic
  refine ⟨fun s sy rd ra rb h => ?_, fun s sy rd ra rb h => ?_, fun s sy rd ra h => ?_, fun sy rd ra rb => ?_⟩
  · exact ⟨State.givesX_of_alu h (exec_add ..) rfl, State.givesX_of_alu h (exec_sub ..) rfl,
      State.givesX_of_alu h (exec_and ..) rfl, State.givesX_of_alu h (exec_or ..) rfl, State.givesX_of_alu h (exec_xor ..) rfl,
      State.givesX_of_unary (f := id) h (exec_mov ..) rfl, State.givesX_of_alu h (exec_shl ..) rfl,
      State.givesX_of_alu h (exec_shr ..) rfl, State.givesX_of_alu h (exec_sra ..) rfl, State.givesX_of_alu h (exec_mul ..) rfl,
      State.givesX_of_alu h (exec_mulh ..) (mulhWord_eq_extract _ _),
      State.givesX_of_alu h (exec_mulhu ..) (mulhuWord_eq_extract _ _)⟩
  · exact ⟨State.givesX_of_alu h (exec_div ..) (sdivWord_eq_sdiv _ _), State.givesX_of_alu h (exec_divu ..) (udivWord_eq_div _ _),
      State.givesX_of_alu h (exec_rem ..) (sremWord_eq_srem _ _), State.givesX_of_alu h (exec_remu ..) (uremWord_eq_mod _ _),
      State.givesX_of_alu h (exec_min ..) (by simp only [BitVec.sle_iff_toInt_le]),
      State.givesX_of_alu h (exec_max ..) (by simp only [BitVec.sle_iff_toInt_le]),
      State.givesX_of_alu h (exec_minu ..) (by simp only [BitVec.ule_iff_toNat_le]),
      State.givesX_of_alu h (exec_maxu ..) (by simp only [BitVec.ule_iff_toNat_le])⟩
  · obtain ⟨hcle, hczero, hcone⟩ := leadingZeros_spec (s.x ra) 64
    obtain ⟨htle, htzero, htone⟩ := trailingZeros_spec (s.x ra) 64 0
    simp only [Nat.zero_add] at htzero htone
    exact ⟨State.givesX_of_unary (f := fun a => BitVec.ofNat 64 (popcount a 64)) h (exec_popc ..) (by rw [popcount_eq_length]),
      ⟨_, hcle, State.givesX_of_unary (f := fun a => BitVec.ofNat 64 (leadingZeros a 64)) h (exec_clz ..) rfl, hczero, hcone⟩,
      ⟨_, htle, State.givesX_of_unary (f := fun a => BitVec.ofNat 64 (trailingZeros a 64 0)) h (exec_ctz ..) rfl, htzero, htone⟩⟩
  · intro word reads
    let bad : Decoded := .error { sub := .mbz, k := 0 }
    have hmov (b : XReg) : decodeList .c [word 7 0 b] = if b = 0 then .ok (.ins (.mov sy rd ra)) else bad := decodeList_cr_unary
    have hpopc (b : XReg) : decodeList .c [word 7 1 b] = if b = 0 then .ok (.ins (.popc sy rd ra)) else bad := decodeList_cr_unary
    have hclz (b : XReg) : decodeList .c [word 7 2 b] = if b = 0 then .ok (.ins (.clz sy rd ra)) else bad := decodeList_cr_unary
    have hctz (b : XReg) : decodeList .c [word 7 3 b] = if b = 0 then .ok (.ins (.ctz sy rd ra)) else bad := decodeList_cr_unary
    refine ⟨decodeList_cr_reads, decodeList_cr_reads, decodeList_cr_reads, decodeList_cr_reads, decodeList_cr_reads,
      decodeList_cr_reads, decodeList_cr_reads, decodeList_cr_reads, decodeList_cr_reads, decodeList_cr_reads, decodeList_cr_reads,
      decodeList_cr_reads, decodeList_cr_reads, decodeList_cr_reads, decodeList_cr_reads, decodeList_cr_reads, decodeList_cr_reads,
      decodeList_cr_reads, decodeList_cr_reads, (hmov 0).trans (if_pos rfl),
      (hpopc 0).trans (if_pos rfl), (hclz 0).trans (if_pos rfl), (hctz 0).trans (if_pos rfl), decodeList_cr_func, fun fn hfn hrb => ?_⟩
    match fn with
    | 0 => exact (hmov rb).trans (if_neg hrb)
    | 1 => exact (hpopc rb).trans (if_neg hrb)
    | 2 => exact (hclz rb).trans (if_neg hrb)
    | 3 => exact (hctz rb).trans (if_neg hrb)

/-- Settles O2: each form is `State.aluImm` of its operation; the words by the rows of the map at each LEN. -/
theorem immediateForms : Obligations.ImmediateForms := by
  unfold Obligations.ImmediateForms
  refine ⟨fun s sy rd ra i0 i1 i2 h => ?_, fun s sy rd ra n h hn => ?_, fun sy rd ra i0 i1 i2 => ?_⟩
  · exact ⟨⟨State.givesX_of_aluImm h (exec_addi ..) rfl, State.givesX_of_aluImm h (exec_addiLen1 ..) rfl,
        State.givesX_of_aluImm h (exec_addiLen2 ..) rfl⟩,
      ⟨State.givesX_of_aluImm h (exec_andi ..) rfl, State.givesX_of_aluImm h (exec_andiLen1 ..) rfl,
        State.givesX_of_aluImm h (exec_andiLen2 ..) rfl⟩,
      ⟨State.givesX_of_aluImm h (exec_ori ..) rfl, State.givesX_of_aluImm h (exec_oriLen1 ..) rfl,
        State.givesX_of_aluImm h (exec_oriLen2 ..) rfl⟩,
      ⟨State.givesX_of_aluImm h (exec_xori ..) rfl, State.givesX_of_aluImm h (exec_xoriLen1 ..) rfl,
        State.givesX_of_aluImm h (exec_xoriLen2 ..) rfl⟩,
      ⟨State.givesX_of_aluImm h (exec_muli ..) rfl, State.givesX_of_aluImm h (exec_muliLen1 ..) rfl,
        State.givesX_of_aluImm h (exec_muliLen2 ..) rfl⟩,
      ⟨State.givesX_of_runX h (exec_li ..) rfl, State.givesX_of_runX h (exec_liLen1 ..) rfl,
        State.givesX_of_runX h (exec_liLen2 ..) rfl⟩⟩
  · have h0 := toNat_signExtend_ofNat (w := 8) (by decide) hn
    have h1 := toNat_signExtend_ofNat (w := 36) (by decide) hn
    have h2 : (BitVec.ofNat 64 n).toNat % 64 = n := by rw [BitVec.toNat_ofNat]; omega
    exact ⟨⟨State.givesX_of_shiftImm h (exec_shli ..) h0, State.givesX_of_shiftImm h (exec_shliLen1 ..) h1,
        State.givesX_of_shiftImm h (exec_shliLen2 ..) h2⟩,
      ⟨State.givesX_of_shiftImm h (exec_shri ..) h0, State.givesX_of_shiftImm h (exec_shriLen1 ..) h1,
        State.givesX_of_shiftImm h (exec_shriLen2 ..) h2⟩,
      ⟨State.givesX_of_shiftImm h (exec_srai ..) h0, State.givesX_of_shiftImm h (exec_sraiLen1 ..) h1,
        State.givesX_of_shiftImm h (exec_sraiLen2 ..) h2⟩⟩
  · intro w l0 l1 l2 reads shift bad
    exact ⟨⟨decodeList_ci_reads 0, decodeList_ci_reads 1, decodeList_ci_reads 2⟩,
      ⟨decodeList_ci_reads 0, decodeList_ci_reads 1, decodeList_ci_reads 2⟩,
      ⟨decodeList_ci_reads 0, decodeList_ci_reads 1, decodeList_ci_reads 2⟩,
      ⟨decodeList_ci_reads 0, decodeList_ci_reads 1, decodeList_ci_reads 2⟩,
      ⟨decodeList_ci_shift 0, decodeList_ci_shift 1, decodeList_ci_shift 2⟩,
      ⟨decodeList_ci_shift 0, decodeList_ci_shift 1, decodeList_ci_shift 2⟩,
      ⟨decodeList_ci_shift 0, decodeList_ci_shift 1, decodeList_ci_shift 2⟩,
      ⟨decodeList_ci_reads 0 (dec := fun sy rd _ i => .li sy rd i), decodeList_ci_reads 1 (dec := fun sy rd _ i => .liLen1 sy rd i),
        decodeList_ci_reads 2 (dec := fun sy rd _ i => .liLen2 sy rd i)⟩,
      ⟨decodeList_ci_reads 0, decodeList_ci_reads 1, decodeList_ci_reads 2⟩,
      fun hra => ⟨decodeList_ci_mbz 0 (dec := fun sy rd _ i => .li sy rd i) hra,
        decodeList_ci_mbz 1 (dec := fun sy rd _ i => .liLen1 sy rd i) hra,
        decodeList_ci_mbz 2 (dec := fun sy rd _ i => .liLen2 sy rd i) hra⟩⟩

/-- Settles O4: the effect by `popcount_eq_length`, the bounds by the length of a filter of a range. -/
theorem predicateCount : Obligations.PredicateCount := by
  unfold Obligations.PredicateCount
  refine ⟨fun s sy rd pa h => ?_, fun sy rd pa => ⟨rfl, fun low hl => decodeList_pcnt sy rd pa hl⟩, rfl⟩
  intro n
  have hpop : popcount ((s.begun .c sy).active pa) 1024 = n := by
    rw [popcount_eq_length, State.active_begun h]
    exact congrArg List.length (List.filter_congr fun e he => State.active_getLsbD s pa (List.mem_range.mp he))
  refine ⟨?_, ?_, fun hvl => ?_⟩
  · exact State.givesX_of_run h (exec_pcnt ..) (State.ready_activeDep h pa) (by rw [hpop])
  · exact (List.length_filter_le ..).trans_eq List.length_range
  · simp [n, hvl]

end Sys2Proof.Machine
